-- ==== Sys2Proof/Word.lean ====
section
/-! DEFINITION. The words of the Ulcavo 812: bytes, 16-bit samples and tags, 32-bit numbers and counters,
48-bit ordinals, 64-bit store words. -/

namespace Sys2Proof

/-- One byte. -/
abbrev Byte := BitVec 8
/-- A 16-bit sample, tag, length or check. -/
abbrev Word16 := BitVec 16
/-- A 32-bit frame number, output sequence, capacity, counter or detail. -/
abbrev Word32 := BitVec 32
/-- A 48-bit close or insertion ordinal (00 "Conventions"). -/
abbrev Word48 := BitVec 48
/-- One 8-byte word of the store, the span of one check word (R26). -/
abbrev Word64 := BitVec 64

end Sys2Proof
end

