-- ==== Sys2Proof/Config.lean ====
section
/-! DEFINITION. What is fixed for every Ulcavo 812 (00 "Capacities") and the free values: the values the
manual does not give. A free value is an opaque constant with no body, so nothing can be proved of it. -/

namespace Sys2Proof.Config

/-- Store slots (00 "Capacities"). -/
abbrev slots : Nat := 16384
/-- Bytes of one slot (02 intro). -/
abbrev slotBytes : Nat := 16384
/-- 8-byte words of one slot, the span of the check words (R26). -/
abbrev slotWords : Nat := 2048
/-- Bytes of one sector (00 "Terms"). -/
abbrev sectorBytes : Nat := 2048
/-- Frame records in the pool (R3). -/
abbrev frameRecords : Nat := 96
/-- Units the control queue holds (R155). -/
abbrev controlQueueDepth : Nat := 8
/-- Immediate replies that may wait unsent (R162). -/
abbrev immediateReplies : Nat := 32
/-- Notices the outbox holds (R177). -/
abbrev outboxDepth : Nat := 32
/-- Frames a burn queue holds (R138). -/
abbrev burnQueueDepth : Nat := 4
/-- Data sectors of one full WRITE unit (R122). -/
abbrev writeSectors : Nat := 8
/-- Misses that declare a drive silent (R127). -/
abbrev silentMisses : Nat := 3
/-- IDENTIFY's vendor code (R160). -/
abbrev vendorCode : Word16 := 0x3A71
/-- IDENTIFY's part code (R160). -/
abbrev partCode : Word16 := 0x0812

/-- FREE VALUE (log 9, safe). What the check word makes of a stored word with three or more flipped bits:
0 it matches, 1 it is taken for a single flipped bit, 2 it is detected. R26 and R27 speak of one and two
flipped bits. Arguments: the word as stored, and the mask of its flipped bits. -/
opaque manyFlipClass : Word64 → Word64 → Fin 3

/-- FREE VALUE (log 9, safe). The word delivered when three or more flipped bits are taken for a single one. -/
opaque miscorrected : Word64 → Word64 → Word64

/-- FREE VALUE (log 11, safe). The "tag" of a malformed unit on stream 0 whose layout has none (R157). Arguments:
the unit kind and the body. -/
opaque freeTag : Byte → List Byte → Word16

/-- FREE VALUE (log 21, safe). Which of the four news (R128) the part takes a news code above 3 for. -/
opaque newsOfCode : Byte → Fin 4

/-- FREE VALUE (log 3, safe). Drawn with State's counter for the time left on a running refetch timer, which
R91 reports and the model does not count. -/
opaque timeLeft : Nat → Nat

end Sys2Proof.Config
end

