-- ==== Sys2Proof/Syntax.lean ====
section
/-! DEFINITION. The commands of the block: one constructor of `Instr` for each row of spec/opcode_table.json,
with the operands the rules give them. Streams 1 to 12, drives 1 to 8 and contexts 0 to 3 are numbered from 0 where
the number comes from inside the part (log 28); numbers that arrive on a link are the raw fields of 12 "Unit
Layouts". -/

namespace Sys2Proof

/-- A unit as it arrives on the ingest link, without its kind byte, which the constructor gives (12 "Ingest link
units"). `len` is the body length field as sent. -/
structure IngestUnit where
  stream : Byte
  len    : Word16
  body   : List Byte
  check  : Word16
deriving DecidableEq, Repr

/-- A unit as a drive sends it on the burn link, without its kind byte (12 "Burn link units"). -/
structure BurnAnswer where
  address : Byte
  factor  : Byte
  zero    : Byte
  len     : Word16
  body    : List Byte
  check   : Word16
deriving DecidableEq, Repr

/-- Bits of one 8-byte word of the store that flip before a read completes (R27, log 8): the bits set in `mask`
change. -/
structure Flip where
  slot : Fin 16384
  word : Fin 2048
  mask : Word64
deriving DecidableEq, Repr

/-- The fields of CONFIGURE_STREAM after the stream id, in the order of R2's table. -/
structure ConfigFields where
  stripes     : Byte
  stripeSize  : Word16
  planFlagged : Byte
  planCorrupt : Byte
  planAbsent  : Byte
  depth       : Byte
  period      : Word16
  pattern     : Byte
  primary     : Byte
  partner     : Byte
  genLimit    : Byte
  fallback    : Byte
  fill        : Byte
deriving DecidableEq, Repr

/-- One step of LOAD_PLAN: method, on-failure action, first and second parameter (12 "Parameters and results"). -/
structure StepFields where
  method : Byte
  onFail : Byte
  first  : Byte
  second : Byte
deriving DecidableEq, Repr

/-- The fields of BOOK_WATCH (R165, R166). The threshold may be absent, so a presence byte stands before it
(12, log 15). -/
structure WatchFields where
  condition : Byte
  scope     : Byte
  present   : Byte
  threshold : Byte
  mode      : Byte
  action    : Byte
  tag       : BitVec 24
deriving DecidableEq, Repr

/-- The twenty-eight commands of the catalogue (09 "Command catalogue") with their parameters as they arrive. -/
inductive Command where
  | configureStream (stream : Byte) (fields : ConfigFields)
  | startStream (stream : Byte)
  | stopStream (stream : Byte)
  | abortStream (stream : Byte)
  | streamStatus (stream : Byte)
  | setStore (setting : Byte)
  | storeStatus (present : Byte) (slot : Word16)
  | purgeDirectory (stream : Byte)
  | readDirectory (first count : Byte)
  | loadPlan (plan count : Byte) (steps : List StepFields)
  | readPlan (plan : Byte)
  | engineStatus
  | setSlotPattern (stream pattern : Byte)
  | setLink (factor mode : Byte)
  | survey
  | driveStatus (address : Byte)
  | holdDrive (address : Byte)
  | releaseDrive (address : Byte)
  | passToDrive (address count : Byte) (bytes : List Byte)
  | bookWatch (watch : Byte) (fields : WatchFields)
  | cancelWatch (watch : Byte)
  | rearmWatch (watch : Byte)
  | releaseWatch (watch : Byte)
  | readFaults
  | clearFaults (count : Byte) (kinds : List Byte)
  | setFaultActions (count : Byte) (pairs : List (Byte × Byte))
  | identify
  | resetPart
deriving DecidableEq, Repr

/-- The commands of the block, one constructor for each row of spec/opcode_table.json, in the table's order.
A row CONFIGURE_STREAM to RESET_PART is the arrival, intact, of the control unit of that command with `tag`
(R154, R155; log 4). -/
inductive Instr where
  | powerOn
  | sweepCompletion
  | linkDown
  | linkUp
  | frameOpen (u : IngestUnit)
  | stripe (u : IngestUnit)
  | stripeResend (u : IngestUnit)
  | frameClose (u : IngestUnit)
  | control (u : IngestUnit)
  | unknownCommand (tag : Word16) (code : Byte) (params : List Byte)
  | configureStream (tag : Word16) (stream : Byte) (fields : ConfigFields)
  | startStream (tag : Word16) (stream : Byte)
  | stopStream (tag : Word16) (stream : Byte)
  | abortStream (tag : Word16) (stream : Byte)
  | streamStatus (tag : Word16) (stream : Byte)
  | setStore (tag : Word16) (setting : Byte)
  | storeStatus (tag : Word16) (present : Byte) (slot : Word16)
  | purgeDirectory (tag : Word16) (stream : Byte)
  | readDirectory (tag : Word16) (first count : Byte)
  | loadPlan (tag : Word16) (plan count : Byte) (steps : List StepFields)
  | readPlan (tag : Word16) (plan : Byte)
  | engineStatus (tag : Word16)
  | setSlotPattern (tag : Word16) (stream pattern : Byte)
  | setLink (tag : Word16) (factor mode : Byte)
  | survey (tag : Word16)
  | driveStatus (tag : Word16) (address : Byte)
  | holdDrive (tag : Word16) (address : Byte)
  | releaseDrive (tag : Word16) (address : Byte)
  | passToDrive (tag : Word16) (address count : Byte) (bytes : List Byte)
  | bookWatch (tag : Word16) (watch : Byte) (fields : WatchFields)
  | cancelWatch (tag : Word16) (watch : Byte)
  | rearmWatch (tag : Word16) (watch : Byte)
  | releaseWatch (tag : Word16) (watch : Byte)
  | readFaults (tag : Word16)
  | clearFaults (tag : Word16) (count : Byte) (kinds : List Byte)
  | setFaultActions (tag : Word16) (count : Byte) (pairs : List (Byte × Byte))
  | identify (tag : Word16)
  | resetPart (tag : Word16)
  | cadenceExpiry (stream : Fin 12)
  | composeCompletion (context : Fin 4) (flips : List Flip)
  | verifyCompletion (context : Fin 4) (flips : List Flip)
  | refetchTimerExpiry (context : Fin 4)
  | returnUnitEnd
  | pollTimerExpiry
  | turnBoundary
  | burnUnitEnd
  | burnReadCompletion (stripe : Byte) (flips : List Flip)
  | presenceAnswer (u : BurnAnswer)
  | statusAnswer (u : BurnAnswer)
  | spaceOk (u : BurnAnswer)
  | spaceNo (u : BurnAnswer)
  | writeDone (u : BurnAnswer)
  | writeFail (u : BurnAnswer)
  | driveAnswer (u : BurnAnswer)
  | missedAnswer
  | relayWindowExpiry (drive : Fin 8)
  | unknownUnitKind (bytes : List Byte)
deriving DecidableEq, Repr

end Sys2Proof
end

