-- ==== Sys2Proof/Machine/Bytes.lean ====
section
/-! DEFINITION. Byte order, sample arithmetic and the unit check: the byte-level computations of 12 "Unit Layouts",
R62 and R178. -/

namespace Sys2Proof.Machine

/-- The two bytes of a 16-bit field, little-endian (00 "Layouts"). -/
def le16Bytes (w : Word16) : List Byte := [w.extractLsb' 0 8, w.extractLsb' 8 8]

/-- The three bytes of a watch tag, in order (12). -/
def le24Bytes (w : BitVec 24) : List Byte := [w.extractLsb' 0 8, w.extractLsb' 8 8, w.extractLsb' 16 8]

/-- The four bytes of a 32-bit field, little-endian. -/
def le32Bytes (w : Word32) : List Byte :=
  [w.extractLsb' 0 8, w.extractLsb' 8 8, w.extractLsb' 16 8, w.extractLsb' 24 8]

/-- The six bytes of an ordinal, little-endian (12). -/
def le48Bytes (w : Word48) : List Byte :=
  [w.extractLsb' 0 8, w.extractLsb' 8 8, w.extractLsb' 16 8, w.extractLsb' 24 8, w.extractLsb' 32 8,
   w.extractLsb' 40 8]

/-- The eight bytes of a store word, little-endian. -/
def le64Bytes (w : Word64) : List Byte :=
  [w.extractLsb' 0 8, w.extractLsb' 8 8, w.extractLsb' 16 8, w.extractLsb' 24 8, w.extractLsb' 32 8,
   w.extractLsb' 40 8, w.extractLsb' 48 8, w.extractLsb' 56 8]

/-- The 16-bit field at the head of a byte list. -/
def readLe16 (bs : List Byte) : Word16 := (bs.getD 1 0) ++ (bs.getD 0 0)

/-- The 24-bit field at the head of a byte list. -/
def readLe24 (bs : List Byte) : BitVec 24 := (bs.getD 2 0) ++ ((bs.getD 1 0) ++ (bs.getD 0 0))

/-- The 32-bit field at the head of a byte list. -/
def readLe32 (bs : List Byte) : Word32 :=
  (bs.getD 3 0) ++ ((bs.getD 2 0) ++ ((bs.getD 1 0) ++ (bs.getD 0 0)))

/-- The 64-bit word at the head of a byte list. -/
def readLe64 (bs : List Byte) : Word64 := readLe32 (bs.drop 4) ++ readLe32 bs

/-- One bit into the check register: it shifts left one place, and the polynomial 1021h is added when the bit shifted
out differs from the input bit (R178). -/
def crcBit (reg : Word16) (bit : Bool) : Word16 :=
  if reg.getLsbD 15 != bit then (reg <<< 1) ^^^ 0x1021#16 else reg <<< 1

/-- One byte into the check register, most significant bit first (R178). -/
def crcByte (reg : Word16) (b : Byte) : Word16 :=
  [7, 6, 5, 4, 3, 2, 1, 0].foldl (fun r i => crcBit r (b.getLsbD i)) reg

/-- The unit check and the payload check: the register starts at FFFFh, its final value is the check (R178). -/
def crc16 (bs : List Byte) : Word16 := bs.foldl crcByte 0xFFFF#16

/-- The mean of two 16-bit samples, rounded half up: add, add one, halve and drop the remainder (R62). -/
def meanSample (a b : Word16) : Word16 := BitVec.ofNat 16 ((a.toNat + b.toNat + 1) / 2)

/-- The mean of two stripes, sample by sample, each sample little-endian (R62, R66). -/
def meanBytes : List Byte → List Byte → List Byte
  | a0 :: a1 :: as, b0 :: b1 :: bs => le16Bytes (meanSample (a1 ++ a0) (b1 ++ b0)) ++ meanBytes as bs
  | _, _ => []

/-- The number of bits set in a word. -/
def popCount (w : Word64) : Nat := ((List.range 64).filter (fun i => w.getLsbD i)).length

/-- Zero bytes. -/
def zeroBytes (n : Nat) : List Byte := List.replicate n 0

end Sys2Proof.Machine
end

