-- ==== Sys2Proof/Machine/State.lean ====
section
/-! DEFINITION. The state of the Ulcavo 812, as plain data, block by block (00 "Blocks"), and its value right after
power-on. Streams are numbered 0 to 11 for ids 1 to 12, drives 0 to 7 for addresses 1 to 8 (log 28). -/

namespace Sys2Proof.Machine

/-- Why the machine stops: never. No rule of the spec leaves the part unable to take a further event (INVENTORY
"Faults"), so there is no constructor; that is safe, since it forbids nothing the part does. -/
inductive Fault where
deriving DecidableEq, Repr

/-- Why a command has no meaning. -/
inductive Refusal where
  /-- Raised by an arm of `exec` for a command without a meaning (there is none left). Safe. -/
  | notModelled (mnemonic : String)
deriving DecidableEq, Repr

/-! ### Names -/

/-- A stream, id − 1. -/
abbrev StreamIx := Fin 12
/-- A drive, address − 1. -/
abbrev DriveIx := Fin 8
/-- A store slot number (R23). -/
abbrev Slot := Fin 16384

/-- The id of a stream on the links, 1 to 12. -/
def streamId (i : StreamIx) : Nat := i.val + 1
/-- The address of a drive on the burn link, 1 to 8. -/
def driveAddress (a : DriveIx) : Nat := a.val + 1

/-- Stream states (01 "Stream records"). -/
inductive StreamState where
  | unconfigured | configured | priming | running | stalled | draining | stopped
deriving DecidableEq, Repr

/-- Damage causes (00 "Terms"). -/
inductive Cause where
  | flagged | corrupt | absent
deriving DecidableEq, Repr

/-- The method recorded for a stripe (R107). -/
inductive Method where
  | neighbour | previous | blend | refetch | fallback | mark
deriving DecidableEq, Repr

/-- States of a stripe record (R3, R8, R11, R58, R71). -/
inductive StripeState where
  | expected | sound | damaged | repairing | parked | repaired | marked
deriving DecidableEq, Repr

/-- States of a frame record (R3, R4). -/
inductive FrameState where
  | opened | closed | resolved | queuedForBurn
deriving DecidableEq, Repr

/-- Kinds of a dispatched frame (R103, R104, R108). -/
inductive FrameKind where
  | normal | forced | fill
deriving DecidableEq, Repr

/-- The forced fallback of a stream (R2, R102). -/
inductive Fallback where
  | reference | mark
deriving DecidableEq, Repr

/-- The seventeen counters of a stream, in the order of R21's table. -/
inductive Counter where
  | framesAccepted | framesRefused | damagedFlagged | damagedCorrupt | damagedAbsent
  | repairedNeighbour | repairedPrevious | repairedBlend | repairedRefetch | repairedFallback
  | marked | forcedFrames | fillFrames | slips | lateResends | strayUnits | gapFrames
deriving DecidableEq, Repr

/-- A counter's row in R21's table, from 0. -/
def Counter.ix : Counter → Fin 17
  | .framesAccepted => 0 | .framesRefused => 1 | .damagedFlagged => 2 | .damagedCorrupt => 3 | .damagedAbsent => 4
  | .repairedNeighbour => 5 | .repairedPrevious => 6 | .repairedBlend => 7 | .repairedRefetch => 8
  | .repairedFallback => 9 | .marked => 10 | .forcedFrames => 11 | .fillFrames => 12 | .slips => 13
  | .lateResends => 14 | .strayUnits => 15 | .gapFrames => 16

/-- The six conditions of a drive (R137). -/
inductive Condition where
  | absent | noMedia | ready | full | held | fault
deriving DecidableEq, Repr

/-- A drive's binding (R137). -/
inductive Binding where
  | none
  | active (stream : StreamIx)
  | standby (stream : StreamIx)
deriving DecidableEq, Repr

/-- News of a drive's medium (R128). -/
inductive News where
  | nothing
  | mediaReady (capacity : Word32)
  | mediaGone
  | mediaFull
deriving DecidableEq, Repr

/-- Watch conditions, in the order of R165. -/
inductive WatchCondition where
  | damageRate | forced | fill | span | stall | refetchExhausted | mediaNeeded | driveChange
deriving DecidableEq, Repr

/-- Fault kinds, in the order of R171's table. -/
inductive FaultKind where
  | sequence | stray | overrun | storeFull | storeCorrected | storeUncorrectable | driveSilent | driveWriteFail
  | noticeOverflow | controlMalformed | ingestLoss
deriving DecidableEq, Repr

/-- A fault kind's row in R171's table, from 0. -/
def FaultKind.ix : FaultKind → Fin 11
  | .sequence => 0 | .stray => 1 | .overrun => 2 | .storeFull => 3 | .storeCorrected => 4 | .storeUncorrectable => 5
  | .driveSilent => 6 | .driveWriteFail => 7 | .noticeOverflow => 8 | .controlMalformed => 9 | .ingestLoss => 10

/-- Fault actions (R173). -/
inductive FaultAction where
  | record | notify | stop | halt
deriving DecidableEq, Repr

/-- Refusal reasons, in the order of the table in 09 "Refusal reasons". -/
inductive Reason where
  | unknownCommand | badParameter | wrongState | busy | inUse | noDrive | planMissing | planInUse | halted | starting
  | aborted | noAnswer
deriving DecidableEq, Repr

/-- Purpose of a store read (R27). -/
inductive ReadPurpose where
  | verify | compose | burn
deriving DecidableEq, Repr

/-- Result of a store read (R27). -/
inductive ReadResult where
  | clean | corrected | flawed
deriving DecidableEq, Repr

/-- Rate factor of the burn link (R114). -/
inductive RateFactor where
  | x1 | x2 | x4 | x8
deriving DecidableEq, Repr

/-- Transfer mode of the burn link (R116). -/
inductive TransferMode where
  | frame | block
deriving DecidableEq, Repr

/-! ### Stream Table and Frame Windows -/

/-- A stream's configuration (R2). -/
structure StreamConfig where
  stripes     : Nat
  stripeSize  : Nat
  planFlagged : Fin 16
  planCorrupt : Fin 16
  planAbsent  : Fin 16
  depth       : Nat
  period      : Nat
  pattern     : BitVec 8
  primary     : DriveIx
  partner     : Option DriveIx
  genLimit    : Nat
  fallback    : Fallback
  fillAllowed : Bool
deriving DecidableEq, Repr

/-- One stripe record (R3, R8, R57, R59). -/
structure StripeRec where
  state      : StripeState
  cause      : Option Cause
  slot       : Option Slot
  generation : Option Nat
  method     : Option Method
  donors     : List Word32
  resume     : Nat
deriving DecidableEq, Repr

/-- Outcome of a note entry (R107). -/
inductive NoteOutcome where
  | repaired | marked | storeFlaw
deriving DecidableEq, Repr

/-- One entry of a repair note (R107). -/
structure NoteEntry where
  index      : Nat
  cause      : Option Cause
  outcome    : NoteOutcome
  method     : Option Method
  donors     : List Word32
  generation : Option Nat
deriving DecidableEq, Repr

/-- A repair note: header and entries (R106, R107). The entry count is the number of entries. -/
structure RepairNote where
  stream   : StreamIx
  outSeq   : Word32
  number   : Word32
  timecode : Word32
  kind     : FrameKind
  stripes  : Nat
  entries  : List NoteEntry
deriving DecidableEq, Repr

/-- One frame record in use (R3), with its note from the hand-off on (R106). -/
structure FrameRec where
  stream      : StreamIx
  number      : Word32
  timecode    : Word32
  kind        : Option FrameKind
  state       : FrameState
  ordinal     : Option Word48
  stripes     : List StripeRec
  damaged     : Nat
  unresolved  : Nat
  outSeq      : Option Word32
  need        : Nat
  stripeCount : Nat
  stripeSize  : Nat
  note        : Option RepairNote
deriving DecidableEq, Repr

/-- A cadence unit (R93). The time to the next expiry is not counted (log 3). -/
structure Cadence where
  period         : Option Nat
  pattern        : Option (BitVec 8)
  position       : Fin 8
  pendingPattern : Option (BitVec 8)
  running        : Bool
deriving DecidableEq, Repr

/-- A stream record (R1), its flow state (R19) and its cadence unit (R93). `stopTag` is the STOP-outstanding flag
together with the tag the deferred reply carries (R154). -/
structure StreamRec where
  state          : StreamState
  config         : Option StreamConfig
  lastNumber     : Option Word32
  lastDispatched : Option Word32
  nextSeq        : Word32
  stopTag        : Option Word16
  window         : List FrameRec
  counters       : Vector Word32 17
  paused         : Bool
  cadence        : Cadence
deriving DecidableEq, Repr

/-! ### Stripe Store -/

/-- The store log's last event (R29). -/
structure LogEvent where
  slot    : Slot
  purpose : ReadPurpose
  result  : ReadResult
deriving DecidableEq, Repr

/-- The Stripe Store (R23 to R35). `holders`, `dram` and `flips` are tables in canonical form: keys strictly rising, no
entry equal to what an unlisted key reads as (0). `dram` is the data as stored, by byte address; `flips` is, by word
address, the mask of the bits that differ from what was written, which is what the check words reveal (R26). -/
structure Store where
  freeList   : List Slot
  holders    : List (Nat × Nat)
  dram       : List Host.Cell
  flips      : List (Nat × Word64)
  correction : Bool
  lastEvent  : Option LogEvent
  corrected  : Word16
  flawed     : Word16
  sweeping   : Bool
deriving DecidableEq, Repr

/-! ### Reference Directory -/

/-- A valid directory entry (R36). -/
structure DirEntry where
  stream     : StreamIx
  stripe     : Nat
  number     : Word32
  generation : Nat
  slot       : Slot
  ordinal    : Word48
deriving DecidableEq, Repr

/-- One set of two ways (R36): none is an invalid way. -/
structure DirSet where
  way0 : Option DirEntry
  way1 : Option DirEntry
deriving DecidableEq, Repr

/-- The Reference Directory (R36). -/
structure Directory where
  sets        : Vector DirSet 256
  nextOrdinal : Word48
  evictions   : Word32
  flaws       : Word32
deriving DecidableEq, Repr

/-! ### Plan Table -/

/-- A repair method with its own parameters (R53). -/
inductive PlanMethod where
  | neighbour (edgeCopy : Bool)
  | previous (maxAge : Nat)
  | blend (maxAge : Nat)
  | refetch (tries wait : Nat)
  | mark
deriving DecidableEq, Repr

/-- What a step does on failure (R53). -/
inductive OnFail where
  | next | endPlan
deriving DecidableEq, Repr

/-- A plan step (R53). -/
structure PlanStep where
  method : PlanMethod
  onFail : OnFail
deriving DecidableEq, Repr

/-! ### Repair Engine -/

/-- A frame in the repair queue: the record it refers to and its place (R69). -/
structure QueueRef where
  stream  : StreamIx
  number  : Word32
  ordinal : Word48
deriving DecidableEq, Repr

/-- What a context recorded at a lookup: the donor's frame number and slot and the adopter's generation
(R63, R65, R71). -/
structure Donor where
  number     : Word32
  slot       : Slot
  generation : Nat
deriving DecidableEq, Repr

/-- The operation of a busy context (R71). The first three are COMPOSING, the last AWAITING_RESEND. -/
inductive Operation where
  | neighbour (inputs : List Slot) (result : Slot) (generation : Nat)
  | blend (donor : Donor) (succNumber : Word32) (succSlot result : Slot)
  | verify (donor : Donor)
  | refetch (tryNo triesLeft wait : Nat) (sent timer : Bool)
deriving DecidableEq, Repr

/-- The stripe a context names (R71). -/
structure Job where
  stream : StreamIx
  number : Word32
  stripe : Nat
deriving DecidableEq, Repr

/-- A busy context (R71): the stripe, the index of the step it runs, the operation. -/
structure Busy where
  job  : Job
  step : Nat
  op   : Operation
deriving DecidableEq, Repr

/-- The Repair Engine (R69, R71, R77). -/
structure Engine where
  closeOrdinal : Word48
  queue        : List QueueRef
  contexts     : Vector (Option Busy) 4
  parked       : Nat
deriving DecidableEq, Repr

/-! ### Drive Table and Burn Link Controller -/

/-- Transfer state of a head frame (R120). -/
inductive Transfer where
  | waitingSpace
  | spaceAsked
  | sending (nextSector : Nat)
  | awaitingDone
deriving DecidableEq, Repr

/-- A drive's relay (R114, R134), with the tag of its deferred reply. -/
inductive Relay where
  | none
  | pending (tag : Word16) (bytes : List Byte)
  | outstanding (tag : Word16)
deriving DecidableEq, Repr

/-- A drive record (R137) and what the controller keeps for the drive (R114). -/
structure DriveRec where
  condition       : Condition
  remaining       : Option Word32
  committed       : Nat
  binding         : Binding
  queue           : List FrameRec
  releasePending  : Bool
  misses          : Nat
  framesWritten   : Word32
  spaceRefusals   : Word32
  missCount       : Word32
  transfer        : Transfer
  abandonOwed     : Bool
  withdrawn       : Bool
  carry           : List Byte
  statusRequested : Bool
  relay           : Relay
deriving DecidableEq, Repr

/-- A unit the part sends on the burn link (07 "Units on the burn link"); the address and factor stand beside it. -/
inductive BurnUnit where
  | presenceAsk
  | statusAsk
  | spaceAsk (stream : StreamIx) (outSeq : Word32) (need : Nat)
  | write (stream : StreamIx) (outSeq : Word32) (first count : Nat) (data : List Byte)
  | note (stream : StreamIx) (outSeq : Word32) (sector : List Byte)
  | abandon (stream : StreamIx) (outSeq : Word32)
  | driveCommand (bytes : List Byte)
deriving DecidableEq, Repr

/-- Which window is open (R115). The relay window is the drive's relay itself. -/
inductive WindowKind where
  | presence | status | space | done
deriving DecidableEq, Repr

/-- One stripe of a WRITE unit being read: its data once its BURN read is complete, or at once when it has no slot
(R122, R123). -/
structure ReadPart where
  stripe : Nat
  slot   : Option Slot
  data   : Option (List Byte)
deriving DecidableEq, Repr

/-- Where an exchange stands: its BURN reads run (WRITE only, R123), its unit is being sent, or its window is open. -/
inductive Phase where
  | reading (first count : Nat) (parts : List ReadPart)
  | sending (u : BurnUnit)
  | window (w : WindowKind)
deriving DecidableEq, Repr

/-- What an exchange belongs to (R118, R119, R136). -/
inductive Purpose where
  | survey | pollStatus | discovery | requested | relayTurn | frame | abandon | relayCommand | closing
deriving DecidableEq, Repr

/-- The exchange in flight (R114), with the factor it began with (R115, R117). -/
structure Exchange where
  drive   : DriveIx
  purpose : Purpose
  factor  : RateFactor
  phase   : Phase
deriving DecidableEq, Repr

/-- Who asked for a survey (R114): the reset, or a SURVEY command with its tag. -/
inductive Requester where
  | startUp
  | surveyCommand (tag : Word16)
deriving DecidableEq, Repr

/-- A RUNNING survey and the next address it asks, 1 to 9 (R131). -/
structure Survey where
  requester : Requester
  next      : Nat
deriving DecidableEq, Repr

/-- The item whose asks follow one another without a turn boundary between them (R118): the survey, or the status part
of a poll round, with the next address it looks at. -/
inductive Item where
  | idle
  | survey
  | poll (next : Nat)
deriving DecidableEq, Repr

/-- A unit a RESET_PART still owes to the link (R136 step 2). -/
structure Closing where
  drive  : DriveIx
  factor : RateFactor
  unit   : BurnUnit
deriving DecidableEq, Repr

/-- The Burn Link Controller (R114). -/
structure Burn where
  factor      : RateFactor
  mode        : TransferMode
  rotation    : DriveIx
  discovery   : DriveIx
  pollRunning : Bool
  pollDue     : Bool
  survey      : Option Survey
  exchange    : Option Exchange
  item        : Item
  closing     : List Closing
deriving DecidableEq, Repr

/-! ### Watch and Fault Unit -/

/-- What a firing does besides its notice (R165): NOTIFY, or NOTIFY_SUSPEND when `suspend`. A booked watch is ARMED, or
FIRED. -/
structure Booking where
  fired      : Bool
  condition  : WatchCondition
  scope      : Nat
  threshold  : Option Nat
  every      : Bool
  suspend    : Bool
  tag        : BitVec 24
  suspension : Option StreamIx
deriving DecidableEq, Repr

/-- A fault summary entry (R172) and the kind's action (R173). -/
structure FaultEntry where
  pending    : Bool
  count      : Word16
  firstScope : Option Nat
  action     : FaultAction
deriving DecidableEq, Repr

/-- The Watch and Fault Unit (R165, R172, R173) and the part state (R158). A FREE watch is none. -/
structure Monitor where
  watches : Vector (Option Booking) 16
  faults  : Vector FaultEntry 11
  halted  : Bool
deriving DecidableEq, Repr

/-- Where a notice comes from (R177). -/
inductive NoticeSource where
  | watch (id : Fin 16) (tag : BitVec 24)
  | fault (kind : FaultKind)
deriving DecidableEq, Repr

/-- A notice (R177). -/
structure Notice where
  source : NoticeSource
  scope  : Nat
  detail : Word32
deriving DecidableEq, Repr

/-! ### Replies -/

/-- One window record in a STREAM_STATUS reply (R22). -/
structure WindowItem where
  number     : Word32
  state      : FrameState
  damaged    : Nat
  unresolved : Nat
deriving DecidableEq, Repr

/-- The results of STREAM_STATUS (R22). -/
structure StreamReport where
  state           : StreamState
  config          : Option StreamConfig
  paused          : Bool
  occupancyReason : Bool
  suspensions     : Nat
  window          : List WindowItem
  lastNumber      : Option Word32
  lastDispatched  : Option Word32
  nextSeq         : Word32
  stopOutstanding : Bool
  counters        : List Word32
deriving DecidableEq, Repr

/-- The results of STORE_STATUS (R31). -/
structure StoreReport where
  free       : Nat
  inUse      : Nat
  head       : Option Slot
  correction : Bool
  lastEvent  : Option LogEvent
  corrected  : Word16
  flawed     : Word16
  slot       : Option (Nat × Bool)
deriving DecidableEq, Repr

/-- The results of READ_DIRECTORY (R51). -/
structure DirectoryReport where
  valid     : Nat
  ordinal   : Word48
  evictions : Word32
  flaws     : Word32
  sets      : List DirSet
deriving DecidableEq, Repr

/-- What ENGINE_STATUS adds for a REFETCH step (R91): try, tries left, whether the ask is transmitted, ms left. -/
structure RefetchReport where
  tryNo     : Nat
  triesLeft : Nat
  sent      : Bool
  timeLeft  : Option Nat
deriving DecidableEq, Repr

/-- What ENGINE_STATUS reports of a busy context (R91). -/
structure ContextReport where
  composing : Bool
  job       : Job
  plan      : Nat
  step      : Nat
  method    : Method
  slots     : List Slot
  refetch   : Option RefetchReport
deriving DecidableEq, Repr

/-- The first frame of the queue in an ENGINE_STATUS reply (R91). -/
structure QueueReport where
  stream  : StreamIx
  number  : Word32
  ordinal : Word48
  damaged : Nat
deriving DecidableEq, Repr

/-- The results of ENGINE_STATUS (R91). -/
structure EngineReport where
  contexts     : List (Option ContextReport)
  queueLength  : Nat
  first        : Option QueueReport
  passedOver   : Nat
  parked       : Nat
  closeOrdinal : Word48
deriving DecidableEq, Repr

/-- The results of SET_SLOT_PATTERN (R96): the cadence unit before the command. -/
structure CadenceReport where
  pattern        : Option (BitVec 8)
  position       : Fin 8
  pendingPattern : Option (BitVec 8)
  running        : Bool
deriving DecidableEq, Repr

/-- One address in a SURVEY reply (R131). -/
structure SurveyItem where
  condition : Condition
  capacity  : Option (Word32 × Nat)
deriving DecidableEq, Repr

/-- One queued frame in a DRIVE_STATUS reply (R152). -/
structure BurnItem where
  stream     : StreamIx
  outSeq     : Word32
  kind       : FrameKind
  need       : Nat
  entryCount : Nat
deriving DecidableEq, Repr

/-- What DRIVE_STATUS says of a relay (R152). -/
inductive RelayState where
  | none | pending | outstanding
deriving DecidableEq, Repr

/-- One drive in a DRIVE_STATUS reply (R152). `transfer` is the head frame's. -/
structure DriveReport where
  condition      : Condition
  remaining      : Option Word32
  committed      : Nat
  uncommitted    : Nat
  binding        : Binding
  queue          : List BurnItem
  transfer       : Option Transfer
  abandonOwed    : Bool
  releasePending : Bool
  relay          : RelayState
  misses         : Nat
  framesWritten  : Word32
  spaceRefusals  : Word32
  missCount      : Word32
deriving DecidableEq, Repr

/-- The users of a plan (R56): a started stream and the causes for which it names the plan. -/
structure PlanUser where
  stream : StreamIx
  causes : List Cause
deriving DecidableEq, Repr

/-- The results of READ_FAULTS (R176). -/
structure FaultsReport where
  halted  : Bool
  faults  : List FaultEntry
  notices : Nat
  watches : List (Option Booking)
deriving DecidableEq, Repr

/-- The results a DONE reply carries, by the command that gives them. -/
inductive Results where
  | empty
  | streamStatus (r : StreamReport)
  | setStore (before : Bool)
  | storeStatus (r : StoreReport)
  | purged (entries : Nat)
  | directory (r : DirectoryReport)
  | loadPlan (wasLoaded : Bool)
  | readPlan (plan : Option (List PlanStep)) (users : List PlanUser)
  | engine (r : EngineReport)
  | slotPattern (r : CadenceReport)
  | setLink (factor : RateFactor) (mode : TransferMode)
  | survey (drives : List SurveyItem)
  | driveStatus (drives : List DriveReport)
  | holdDrive (wasHeld : Bool) (before : Condition)
  | driveBytes (bytes : List Byte)
  | watch (fired : Bool) (suspension : Option StreamIx)
  | faults (r : FaultsReport)
  | clearedCounts (counts : List Word16)
  | formerActions (actions : List FaultAction)
  | identify (halted : Bool)
  | resetPart (wasHalted : Bool)
deriving DecidableEq, Repr

/-- The answer of a reply (R154). -/
inductive Answer where
  | done (r : Results)
  | refused (why : Reason)
deriving DecidableEq, Repr

/-- A reply (R154). -/
structure Reply where
  tag    : Word16
  answer : Answer
deriving DecidableEq, Repr

/-! ### Return path -/

/-- A reply waiting, in an immediate or a reserved place (R162). -/
structure QueuedReply where
  immediate : Bool
  reply     : Reply
deriving DecidableEq, Repr

/-- A REFETCH_ASK in the ask queue (R79, R164). -/
structure Ask where
  context : Fin 4
  job     : Job
  tryNo   : Nat
deriving DecidableEq, Repr

/-- An unsent FLOW unit (R19): PAUSE or RESUME of a stream. -/
structure FlowUnit where
  stream : StreamIx
  pause  : Bool
deriving DecidableEq, Repr

/-- A unit on the return direction (R163). `live` says of an ask being sent that its context still waits on that try
(R164). -/
inductive ReturnUnit where
  | flow (f : FlowUnit)
  | ask (a : Ask) (live : Bool)
  | reply (r : Reply)
  | notice (n : Notice)
deriving DecidableEq, Repr

/-- The Return Path Transmitter (R162, R163). -/
structure ReturnPath where
  sending : Option ReturnUnit
  flowSet : List FlowUnit
  asks    : List Ask
  replies : List QueuedReply
  outbox  : List Notice
deriving DecidableEq, Repr

/-! ### Control Interpreter -/

/-- What the interpreter will find a queued unit to be (R156, R157): malformed with its reason code and detail tag, an
unknown command code, or a command (log 27). -/
inductive UnitForm where
  | malformed (code : Nat)
  | unknown
  | command (c : Command)
deriving DecidableEq, Repr

/-- A unit in the control queue (R155). -/
structure ControlUnit where
  tag  : Word16
  form : UnitForm
deriving DecidableEq, Repr

/-! ### The whole state -/

/-- The state of the part, the queue of commands that wait, and the counter that draws free values (log 23). -/
structure State where
  streams      : Vector StreamRec 12
  store        : Store
  dir          : Directory
  plans        : Vector (Option (List PlanStep)) 16
  engine       : Engine
  drives       : Vector DriveRec 8
  burn         : Burn
  ret          : ReturnPath
  linkUp       : Bool
  controlQueue : List ControlUnit
  monitor      : Monitor
  pending      : List Instr
  freshIndex   : Nat
deriving DecidableEq, Repr

/-! ### Reset values -/

/-- A cadence unit of an UNCONFIGURED stream (R93). -/
def Cadence.reset : Cadence :=
  { period := none, pattern := none, position := 0, pendingPattern := none, running := false }

/-- A stream record after power-on and RESET_PART (R1, R19, R21). -/
def StreamRec.reset : StreamRec :=
  { state := .unconfigured, config := none, lastNumber := none, lastDispatched := none, nextSeq := 0, stopTag := none,
    window := [], counters := Vector.replicate 17 0, paused := false, cadence := Cadence.reset }

/-- Every slot number in ascending order (R23). -/
def allSlots : List Slot := (List.range' 0 16384).map (Fin.ofNat 16384)

/-- The store at power-on: SWEEPING, no slot free, no slot held (R23, R29, R30, R34; contents: log 7). -/
def Store.reset : Store :=
  { freeList := [], holders := [], dram := [], flips := [], correction := true, lastEvent := none, corrected := 0,
    flawed := 0, sweeping := true }

/-- The directory after power-on and RESET_PART (R36). -/
def Directory.reset : Directory :=
  { sets := Vector.replicate 256 { way0 := none, way1 := none }, nextOrdinal := 0, evictions := 0, flaws := 0 }

/-- The engine after power-on and RESET_PART (R69, R71, R77, R92). -/
def Engine.reset : Engine :=
  { closeOrdinal := 0, queue := [], contexts := Vector.replicate 4 none, parked := 0 }

/-- A drive record after power-on and RESET_PART (R137, R114). -/
def DriveRec.reset : DriveRec :=
  { condition := .absent, remaining := none, committed := 0, binding := .none, queue := [], releasePending := false,
    misses := 0, framesWritten := 0, spaceRefusals := 0, missCount := 0, transfer := .waitingSpace,
    abandonOwed := false, withdrawn := false, carry := [], statusRequested := false, relay := .none }

/-- The controller after power-on and RESET_PART (R114, R132). -/
def Burn.reset : Burn :=
  { factor := .x8, mode := .frame, rotation := 7, discovery := 7, pollRunning := false, pollDue := false,
    survey := some { requester := .startUp, next := 1 }, exchange := none, item := .idle, closing := [] }

/-- The return path after power-on (R162; nothing is being sent: log 26). -/
def ReturnPath.reset : ReturnPath :=
  { sending := none, flowSet := [], asks := [], replies := [], outbox := [] }

/-- The default action of each fault kind (R171). -/
def FaultKind.defaultAction : FaultKind → FaultAction
  | .sequence => .notify | .stray => .record | .overrun => .notify | .storeFull => .notify | .storeCorrected => .record
  | .storeUncorrectable => .notify | .driveSilent => .notify | .driveWriteFail => .notify | .noticeOverflow => .record
  | .controlMalformed => .record | .ingestLoss => .record

/-- The fault kinds in the order of R171's table. -/
def FaultKind.all : List FaultKind :=
  [.sequence, .stray, .overrun, .storeFull, .storeCorrected, .storeUncorrectable, .driveSilent, .driveWriteFail,
   .noticeOverflow, .controlMalformed, .ingestLoss]

/-- A summary entry after power-on and RESET_PART (R172), with the kind's default action (R175). -/
def FaultEntry.reset (k : FaultKind) : FaultEntry :=
  { pending := false, count := 0, firstScope := none, action := k.defaultAction }

/-- The Watch and Fault Unit after power-on and RESET_PART (R158, R165, R172, R175). -/
def Monitor.reset : Monitor :=
  { watches := Vector.replicate 16 none,
    faults := #v[FaultEntry.reset .sequence, FaultEntry.reset .stray, FaultEntry.reset .overrun,
      FaultEntry.reset .storeFull, FaultEntry.reset .storeCorrected, FaultEntry.reset .storeUncorrectable,
      FaultEntry.reset .driveSilent, FaultEntry.reset .driveWriteFail, FaultEntry.reset .noticeOverflow,
      FaultEntry.reset .controlMalformed, FaultEntry.reset .ingestLoss],
    halted := false }

/-- The part right after power-on, with no command waiting. -/
def State.reset : State :=
  { streams := Vector.replicate 12 StreamRec.reset, store := Store.reset, dir := Directory.reset,
    plans := Vector.replicate 16 none, engine := Engine.reset, drives := Vector.replicate 8 DriveRec.reset,
    burn := Burn.reset, ret := ReturnPath.reset, linkUp := false, controlQueue := [], monitor := Monitor.reset,
    pending := [], freshIndex := 0 }

end Sys2Proof.Machine
end

