-- ==== Sys2Proof/Machine/Ops.lean ====
section
/-! DEFINITION. The named operations over the store and over the records of State: canonical tables, the DRAM, slots
and holders, and the accessors through which every other file reads and writes records. Taking an exception has no
counterpart in this block; the entry into HALTED stands in Flags.lean. -/

namespace Sys2Proof.Machine

/-! ### Tables in canonical form -/

namespace Table

/-- What a table holds under a key; an unlisted key reads as the default. -/
def get {β : Type} (dflt : β) (k : Nat) : List (Nat × β) → β
  | [] => dflt
  | (k', v) :: t => if k = k' then v else get dflt k t

/-- Writes a key, keeping the canonical form: a default value removes the entry. -/
def set {β : Type} [DecidableEq β] (dflt : β) (k : Nat) (v : β) : List (Nat × β) → List (Nat × β)
  | [] => if v = dflt then [] else [(k, v)]
  | (k', v') :: t =>
    if k < k' then (if v = dflt then (k', v') :: t else (k, v) :: (k', v') :: t)
    else if k = k' then (if v = dflt then t else (k, v) :: t)
    else (k', v') :: set dflt k v t

/-- The keys from `lo` on rise strictly and no entry equals the default. -/
def wfFrom {β : Type} [DecidableEq β] (dflt : β) : Nat → List (Nat × β) → Bool
  | _, [] => true
  | lo, (k, v) :: t => decide (lo ≤ k) && decide (v ≠ dflt) && wfFrom dflt (k + 1) t

/-- The canonical form. -/
def wf {β : Type} [DecidableEq β] (dflt : β) (t : List (Nat × β)) : Bool := wfFrom dflt 0 t

end Table

/-! ### The DRAM -/

/-- The DRAM as a list of cells. -/
abbrev Memory := List Host.Cell

namespace Memory

/-- What an unlisted byte reads as (log 7): the sweep writes zero everywhere (R26, R34). -/
def unlisted : Byte := 0

/-- The canonical form of the DRAM. -/
def wf (m : Memory) : Bool := Table.wf unlisted m

/-- One byte. -/
def read (m : Memory) (a : Nat) : Byte := Table.get unlisted a m

/-- Writes one byte. -/
def write (m : Memory) (a : Nat) (b : Byte) : Memory := Table.set unlisted a b m

/-- The `n` bytes from address `a` on. -/
def readBytes (m : Memory) (a : Nat) : Nat → List Byte
  | 0 => []
  | n + 1 => read m a :: readBytes m (a + 1) n

/-- Writes a run of bytes from address `a` on. -/
def writeBytes (m : Memory) (a : Nat) : List Byte → Memory
  | [] => m
  | b :: bs => writeBytes (write m a b) (a + 1) bs

end Memory

/-! ### Slots and holders -/

/-- The byte address of a slot (02 intro). -/
def slotBase (x : Slot) : Nat := x.val * Config.slotBytes

/-- The word address of a slot's first word (R26). -/
def slotWord (x : Slot) : Nat := x.val * Config.slotWords

namespace Store

/-- A slot's holder count (R23). -/
def count (st : Store) (x : Slot) : Nat := Table.get 0 x.val st.holders

/-- A claim of +1 (R25). -/
def claim (st : Store) (x : Slot) : Store :=
  { st with holders := Table.set 0 x.val (st.count x + 1) st.holders }

/-- A claim of −1 (R25): a slot whose count comes to 0 joins the tail of the free list. A slot without a holder is
never released (R25); the claim then changes nothing. -/
def release (st : Store) (x : Slot) : Store :=
  if st.count x = 0 then st
  else
    { st with
      holders := Table.set 0 x.val (st.count x - 1) st.holders
      freeList := if st.count x = 1 then st.freeList ++ [x] else st.freeList }

/-- Allocation (R24): the head of the free list, with its first holder; none when the list is empty. -/
def alloc (st : Store) : Option (Slot × Store) :=
  match st.freeList with
  | [] => none
  | x :: rest => some (x, { st with freeList := rest, holders := Table.set 0 x.val 1 st.holders })

/-- A write of the first bytes of a slot with their check words (R26): the flips of the words written are gone. -/
def write (st : Store) (x : Slot) (bytes : List Byte) : Store :=
  { st with
    dram := Memory.writeBytes st.dram (slotBase x) bytes
    flips := st.flips.filter fun p => !(slotWord x ≤ p.1 && p.1 < slotWord x + bytes.length / 8) }

/-- One stored word (R26). -/
def word (st : Store) (w : Nat) : Word64 := readLe64 (Memory.readBytes st.dram (8 * w) 8)

/-- Bits of the DRAM flip (log 8): the data changes, and the check word of the word now reveals the difference. -/
def strike (st : Store) (f : Flip) : Store :=
  { st with
    dram := Memory.writeBytes st.dram (8 * (slotWord f.slot + f.word.val))
      (le64Bytes (st.word (slotWord f.slot + f.word.val) ^^^ f.mask))
    flips := Table.set 0#64 (slotWord f.slot + f.word.val)
      (Table.get 0#64 (slotWord f.slot + f.word.val) st.flips ^^^ f.mask) st.flips }

/-- Flips of several words. -/
def strikeAll (st : Store) (fs : List Flip) : Store := fs.foldl strike st

end Store

/-- What the check word says of one word (R27). -/
inductive WordVerdict where
  | matching | single | detected
deriving DecidableEq, Repr

/-- The verdict on a stored word whose flipped bits are `mask` (R27; three or more: log 9). -/
def wordVerdict (stored mask : Word64) : WordVerdict :=
  match popCount mask with
  | 0 => .matching
  | 1 => .single
  | 2 => .detected
  | _ =>
    match Config.manyFlipClass stored mask with
    | 0 => .matching
    | 1 => .single
    | _ => .detected

/-- The word a correction delivers (R27; three or more flipped bits: log 9). -/
def correctedWord (stored mask : Word64) : Word64 :=
  if popCount mask = 1 then stored ^^^ mask else Config.miscorrected stored mask

/-- Puts a word into a list of bytes at a word index. -/
def patchWord (data : List Byte) (w : Nat) (v : Word64) : List Byte :=
  data.take (8 * w) ++ le64Bytes v ++ data.drop (8 * w + 8)

namespace Store

/-- The flips within the first `size` bytes of a slot. -/
def flipsIn (st : Store) (x : Slot) (size : Nat) : List (Nat × Word64) :=
  st.flips.filter fun p => slotWord x ≤ p.1 && p.1 < slotWord x + size / 8

/-- The result of a read of the first `size` bytes of a slot under the setting now in force (R27). -/
def judge (st : Store) (x : Slot) (size : Nat) : ReadResult :=
  let verdicts := (st.flipsIn x size).map fun p => wordVerdict (st.word p.1) p.2
  if verdicts.any (· == .detected) then .flawed
  else if verdicts.any (· == .single) then (if st.correction then .corrected else .flawed)
  else .clean

/-- The data a read delivers (R27): corrected on CORRECTED, as stored otherwise. -/
def deliver (st : Store) (x : Slot) (size : Nat) : List Byte :=
  let data := Memory.readBytes st.dram (slotBase x) size
  if st.judge x size = .corrected then
    (st.flipsIn x size).foldl (fun d p =>
      if wordVerdict (st.word p.1) p.2 = .single
      then patchWord d (p.1 - slotWord x) (correctedWord (st.word p.1) p.2) else d) data
  else data

/-- A saturating 16-bit count (00 "Counters"). -/
def bumpCount (n : Word16) : Word16 := if n = 0xFFFF#16 then n else n + 1

/-- The store log after a read (R29): a CLEAN read changes nothing. -/
def log (st : Store) (x : Slot) (p : ReadPurpose) (r : ReadResult) : Store :=
  match r with
  | .clean => st
  | .corrected => { st with lastEvent := some { slot := x, purpose := p, result := .corrected },
                            corrected := bumpCount st.corrected }
  | .flawed => { st with lastEvent := some { slot := x, purpose := p, result := .flawed },
                         flawed := bumpCount st.flawed }

end Store

/-! ### Records of State -/

namespace State

/-- A stream's record. -/
def stream (s : State) (i : StreamIx) : StreamRec := s.streams[i]

/-- Writes a stream's record. -/
def setStream (s : State) (i : StreamIx) (r : StreamRec) : State := { s with streams := s.streams.set i r }

/-- Changes a stream's record. -/
def modStream (s : State) (i : StreamIx) (f : StreamRec → StreamRec) : State := s.setStream i (f (s.stream i))

/-- A drive's record. -/
def drive (s : State) (a : DriveIx) : DriveRec := s.drives[a]

/-- Writes a drive's record. -/
def setDrive (s : State) (a : DriveIx) (d : DriveRec) : State := { s with drives := s.drives.set a d }

/-- Changes a drive's record. -/
def modDrive (s : State) (a : DriveIx) (f : DriveRec → DriveRec) : State := s.setDrive a (f (s.drive a))

/-- A repair context. -/
def context (s : State) (c : Fin 4) : Option Busy := s.engine.contexts[c]

/-- Writes a repair context. -/
def setContext (s : State) (c : Fin 4) (b : Option Busy) : State :=
  { s with engine := { s.engine with contexts := s.engine.contexts.set c b } }

/-- Changes the store. -/
def modStore (s : State) (f : Store → Store) : State := { s with store := f s.store }

/-- Changes the controller. -/
def modBurn (s : State) (f : Burn → Burn) : State := { s with burn := f s.burn }

/-- A claim of +1 on a slot (R25). -/
def claim (s : State) (x : Slot) : State := s.modStore (·.claim x)

/-- A claim of −1 on a slot (R25). -/
def release (s : State) (x : Slot) : State := s.modStore (·.release x)

/-- Claims of −1 on several slots, in order (log 10). -/
def releaseAll (s : State) (xs : List Slot) : State := xs.foldl release s

/-- Raises one of a stream's counters by `n`, wrapping at 32 bits (R21). -/
def bumpBy (s : State) (i : StreamIx) (c : Counter) (n : Word32) : State :=
  s.modStream i fun r => { r with counters := r.counters.set c.ix (r.counters[c.ix] + n) }

/-- Raises one of a stream's counters by one (R21). -/
def bump (s : State) (i : StreamIx) (c : Counter) : State := s.bumpBy i c 1

/-- The frame records in use: those in windows and those in burn queues (R3). -/
def recordsInUse (s : State) : Nat :=
  (s.streams.toList.map (·.window.length)).sum + (s.drives.toList.map (·.queue.length)).sum

/-- The pool has a free record (R3). -/
def recordFree (s : State) : Bool := s.recordsInUse < Config.frameRecords

end State

/-- Every stream, in ascending id. -/
def allStreams : List StreamIx := [0, 1, 2, 3, 4, 5, 6, 7, 8, 9, 10, 11]
/-- Every drive, in ascending address. -/
def allDrives : List DriveIx := [0, 1, 2, 3, 4, 5, 6, 7]
/-- Every context, in ascending number. -/
def allContexts : List (Fin 4) := [0, 1, 2, 3]
/-- Every watch, in ascending id. -/
def allWatches : List (Fin 16) := [0, 1, 2, 3, 4, 5, 6, 7, 8, 9, 10, 11, 12, 13, 14, 15]

/-- The stream a link's stream field names, for 1 to 12. -/
def streamOf (b : Byte) : Option StreamIx :=
  if h : 1 ≤ b.toNat ∧ b.toNat ≤ 12 then some ⟨b.toNat - 1, by omega⟩ else none

/-- The drive an address field names, for 1 to 8. -/
def driveOf (b : Byte) : Option DriveIx :=
  if h : 1 ≤ b.toNat ∧ b.toNat ≤ 8 then some ⟨b.toNat - 1, by omega⟩ else none

/-- A small number below `n`, from a byte. -/
def finOf (n : Nat) (b : Byte) : Option (Fin n) := if h : b.toNat < n then some ⟨b.toNat, h⟩ else none

/-- A stream is started in PRIMING, RUNNING, STALLED, DRAINING and STOPPED (01 "Stream records"). -/
def StreamState.started : StreamState → Bool
  | .unconfigured => false | .configured => false | .priming => true | .running => true | .stalled => true
  | .draining => true | .stopped => true

/-- The states in which frame units are examined (R7, R8, R12). -/
def StreamState.takesFrames : StreamState → Bool
  | .unconfigured => false | .configured => false | .priming => true | .running => true | .stalled => true
  | .draining => false | .stopped => false

/-- The states in which the occupancy reason can be present (R19). -/
def StreamState.paced : StreamState → Bool
  | .unconfigured => false | .configured => false | .priming => false | .running => true | .stalled => true
  | .draining => true | .stopped => false

/-- A drive is present when it is not ABSENT (R137). -/
def DriveRec.present (d : DriveRec) : Bool := d.condition != .absent

/-- Remaining capacity less committed capacity, 0 when absent or below 0 (R137). -/
def DriveRec.uncommitted (d : DriveRec) : Nat :=
  match d.remaining with
  | none => 0
  | some r => r.toNat - d.committed

/-- A drive has work (R119): queued frames while READY or FULL with no ABANDON owed, or an OUTSTANDING relay. -/
def DriveRec.hasWork (d : DriveRec) : Bool :=
  (!d.queue.isEmpty && (d.condition == .ready || d.condition == .full) && !d.abandonOwed) ||
    (match d.relay with | .outstanding _ => true | .pending _ _ => false | .none => false)

/-- The stream a drive is bound to, ACTIVE or STANDBY (R173). -/
def Binding.stream : Binding → Option StreamIx
  | .none => Option.none
  | .active i => some i
  | .standby i => some i

/-- The rate factor as a number (R115). -/
def RateFactor.toNat : RateFactor → Nat
  | .x1 => 1 | .x2 => 2 | .x4 => 4 | .x8 => 8

/-- The length of a window in microseconds (R115). -/
def windowMicros (w : WindowKind) (f : RateFactor) : Nat :=
  match w with
  | .presence => 20 * f.toNat
  | .status => 20 * f.toNat
  | .space => 20 * f.toNat
  | .done => 2000 * f.toNat

/-- Data sectors of a frame: stripes × stripe size / 2,048, rounded up (R3, R122). -/
def dataSectors (stripes stripeSize : Nat) : Nat := (stripes * stripeSize + 2047) / Config.sectorBytes

/-- Sector need: the data sectors plus one for the note (R3). -/
def sectorNeed (stripes stripeSize : Nat) : Nat := dataSectors stripes stripeSize + 1

end Sys2Proof.Machine
end

