-- ==== Sys2Proof/Machine/Flags.lean ====
section
/-! DEFINITION. Every flag computation of the block: flow state and pause reasons (R19), notices and the outbox (R177),
fault summary, fault actions and the entry into HALTED (R171 to R174), watches and their firing (R165 to R169). -/

namespace Sys2Proof.Machine

/-! ### Flow state (R19) -/

/-- The occupancy reason: RUNNING, STALLED or DRAINING with an occupancy above floor(depth/2) (R19). -/
def StreamRec.occupancyReason (r : StreamRec) : Bool :=
  match r.config with
  | none => false
  | some cfg => r.state.paced && decide (cfg.depth / 2 < r.window.length)

namespace State

/-- The watch suspensions held on a stream (R165, R169). -/
def suspensions (s : State) (i : StreamIx) : Nat :=
  (s.monitor.watches.toList.filter fun w =>
    match w with
    | some b => b.suspension == some i
    | none => false).length

/-- At least one pause reason of the stream is present (R19). -/
def pauseReason (s : State) (i : StreamIx) : Bool :=
  (s.stream i).occupancyReason || decide (0 < s.suspensions i)

/-- Queues a FLOW unit: it replaces an unsent one of the same stream and takes the tail (R19, R162). -/
def queueFlow (s : State) (i : StreamIx) (pause : Bool) : State :=
  { s with ret := { s.ret with
      flowSet := (s.ret.flowSet.filter fun f => f.stream != i) ++ [{ stream := i, pause := pause }] } }

/-- The flow state is judged again, and a change queues a FLOW unit (R19). -/
def judgeFlow (s : State) (i : StreamIx) : State :=
  if s.pauseReason i = (s.stream i).paused then s
  else (s.modStream i fun r => { r with paused := s.pauseReason i }).queueFlow i (s.pauseReason i)

/-! ### Fault summary (R172) -/

/-- A fault kind's entry. -/
def fault (s : State) (k : FaultKind) : FaultEntry := s.monitor.faults[k.ix]

/-- Writes a fault kind's entry. -/
def setFault (s : State) (k : FaultKind) (e : FaultEntry) : State :=
  { s with monitor := { s.monitor with faults := s.monitor.faults.set k.ix e } }

/-- The summary update of a raise (R172): the count saturates, the first scope stays while pending. -/
def noteFault (s : State) (k : FaultKind) (scope : Nat) : State :=
  s.setFault k { s.fault k with
    pending := true
    count := Store.bumpCount (s.fault k).count
    firstScope := if (s.fault k).pending then (s.fault k).firstScope else some scope }

/-! ### The entry into HALTED (R174) -/

/-- The part enters HALTED: the part state changes and every cadence timer stops (R95, R174). What the other blocks do
in HALTED they read from the part state. -/
def enterHalted (s : State) : State :=
  { s with
    monitor := { s.monitor with halted := true }
    streams := Vector.ofFn fun i =>
      { s.stream i with cadence := { (s.stream i).cadence with running := false } } }

/-! ### Notices (R177) -/

/-- Appends a notice while fewer than 32 wait; otherwise it is discarded without more. -/
def pushNotice (s : State) (n : Notice) : State :=
  if s.ret.outbox.length < Config.outboxDepth then
    { s with ret := { s.ret with outbox := s.ret.outbox ++ [n] } }
  else s

/-- The source of a notice as a detail (R171): the watch id, or the fault kind's code (12 "Codes"). -/
def noticeSourceCode (n : NoticeSource) : Word32 :=
  match n with
  | .watch id _ => BitVec.ofNat 32 id.val
  | .fault k => BitVec.ofNat 32 (k.ix.val + 1)

/-- NOTICE_OVERFLOW is raised for a discarded notice (R177). Its own notice meets the same full outbox and is discarded
without a further raise; STOP is not allowed for the kind (R175). -/
def raiseOverflow (s : State) (src : NoticeSource) : State :=
  let s1 := s.noteFault .noticeOverflow 0
  let n : Notice := { source := .fault .noticeOverflow, scope := 0, detail := noticeSourceCode src }
  match (s.fault .noticeOverflow).action with
  | .record => s1
  | .notify => s1.pushNotice n
  | .stop => s1.pushNotice n
  | .halt => (s1.pushNotice n).enterHalted

/-- A notice is offered to the outbox: appended, or discarded with NOTICE_OVERFLOW (R177). -/
def offerNotice (s : State) (n : Notice) : State :=
  if s.ret.outbox.length < Config.outboxDepth then s.pushNotice n else s.raiseOverflow n.source

/-! ### Raising a fault kind (R171, R173) -/

/-- A started stream enters STOPPED (R18): its cadence timer stops, position and patterns kept (R95), and its flow state
is judged again (R19). -/
def stopStream (s : State) (i : StreamIx) : State :=
  if (s.stream i).state.started && (s.stream i).state != .stopped then
    (s.modStream i fun r =>
      { r with state := .stopped, cadence := { r.cadence with running := false } }).judgeFlow i
  else s

/-- A fault kind's scope names a stream, a drive, or nothing (R171). -/
def stopTarget (s : State) (k : FaultKind) (scope : Nat) : Option StreamIx :=
  match k with
  | .sequence | .stray | .overrun => if h : 1 ≤ scope ∧ scope ≤ 12 then some ⟨scope - 1, by omega⟩ else none
  | .driveSilent | .driveWriteFail =>
    if h : 1 ≤ scope ∧ scope ≤ 8 then (s.drive ⟨scope - 1, by omega⟩).binding.stream else none
  | .storeFull | .storeCorrected | .storeUncorrectable | .noticeOverflow | .controlMalformed | .ingestLoss => none

/-- A raise (R171): the summary is updated, then the action in force is carried out (R173). -/
def raise (s : State) (k : FaultKind) (scope : Nat) (detail : Word32) : State :=
  let s1 := s.noteFault k scope
  let n : Notice := { source := .fault k, scope := scope, detail := detail }
  match (s.fault k).action with
  | .record => s1
  | .notify => s1.offerNotice n
  | .stop =>
    let s2 := s1.offerNotice n
    match s2.stopTarget k scope with
    | some i => s2.stopStream i
    | none => s2
  | .halt => (s1.offerNotice n).enterHalted

/-! ### Watches (R165 to R169) -/

/-- A watch record. -/
def watch (s : State) (w : Fin 16) : Option Booking := s.monitor.watches[w]

/-- Writes a watch record. -/
def setWatch (s : State) (w : Fin 16) (b : Option Booking) : State :=
  { s with monitor := { s.monitor with watches := s.monitor.watches.set w b } }

end State

/-- A watch condition concerns a drive; the others concern a stream (R167). -/
def WatchCondition.ofDrive : WatchCondition → Bool
  | .mediaNeeded => true | .driveChange => true
  | .damageRate => false | .forced => false | .fill => false | .span => false | .stall => false
  | .refetchExhausted => false

/-- An ARMED watch matches an occurrence (R167). -/
def Booking.matchesOccurrence (b : Booking) (c : WatchCondition) (scope : Nat) (detail : Word32) : Bool :=
  !b.fired && b.condition == c && (b.scope == 0 || b.scope == scope) &&
    (match c with
     | .damageRate => decide (b.threshold.getD 1 ≤ detail.toNat)
     | .forced | .fill | .span | .stall | .refetchExhausted | .mediaNeeded | .driveChange => true)

namespace State

/-- The stream an occurrence of a stream condition is about. -/
def occurrenceStream (c : WatchCondition) (scope : Nat) : Option StreamIx :=
  if c.ofDrive then none
  else if h : 1 ≤ scope ∧ scope ≤ 12 then some ⟨scope - 1, by omega⟩ else none

/-- One firing (R168): the notice, then the change of state, then the suspension. -/
def fireWatch (s : State) (w : Fin 16) (b : Booking) (c : WatchCondition) (scope : Nat) (detail : Word32) : State :=
  let s1 := s.offerNotice { source := .watch w b.tag, scope := scope, detail := detail }
  let b1 := { b with fired := !b.every }
  match occurrenceStream c scope with
  | some i =>
    if b.suspend && b.suspension.isNone then (s1.setWatch w (some { b1 with suspension := some i })).judgeFlow i
    else s1.setWatch w (some b1)
  | none => s1.setWatch w (some b1)

/-- A watch condition occurs (R168): every watch that matches fires, in ascending id. -/
def occur (s : State) (c : WatchCondition) (scope : Nat) (detail : Word32) : State :=
  allWatches.foldl (fun s w =>
    match s.watch w with
    | some b => if b.matchesOccurrence c scope detail then s.fireWatch w b c scope detail else s
    | none => s) s

/-- Every suspension held on a stream is released; the watches keep their states (R16, R169). -/
def releaseSuspensions (s : State) (i : StreamIx) : State :=
  { s with monitor := { s.monitor with
      watches := Vector.ofFn fun w =>
        match s.watch w with
        | some b => if b.suspension = some i then some { b with suspension := none } else some b
        | none => none } }

/-- A watch's suspension, if any, is released and the stream's flow state judged again (R169, R170); the watch becomes
what `after` makes of it. -/
def changeWatch (s : State) (w : Fin 16) (b : Booking) (after : Booking → Option Booking) : State :=
  match b.suspension with
  | some i => (s.setWatch w (after { b with suspension := none })).judgeFlow i
  | none => s.setWatch w (after b)

/-- A unit is STRAY for a stream (R6): the counter rises and STRAY is raised. -/
def stray (s : State) (i : StreamIx) (number : Word32) : State :=
  (s.bump i .strayUnits).raise .stray (streamId i) number

end State

end Sys2Proof.Machine
end

