-- ==== Sys2Proof/Machine/RefDirectory.lean ====
section
/-! DEFINITION. The Reference Directory: home sets, lookups and their three tests, insertion, eviction and
invalidation (R36 to R50); and the store read, whose FLAWED result reports to it (R27 to R29, R49). -/

namespace Sys2Proof.Machine

/-- The home set of a key: (stripe index + 21 × stream id) mod 256 (R37). -/
def homeSet (i : StreamIx) (stripe : Nat) : Fin 256 := Fin.ofNat 256 (stripe + 21 * streamId i)

/-- An entry holds a key. -/
def DirEntry.hasKey (e : DirEntry) (i : StreamIx) (stripe : Nat) : Bool := e.stream == i && e.stripe == stripe

/-- A way holds a key. -/
def wayHasKey (w : Option DirEntry) (i : StreamIx) (stripe : Nat) : Bool :=
  match w with
  | some e => e.hasKey i stripe
  | none => false

namespace Directory

/-- A set of the table. -/
def row (d : Directory) (k : Fin 256) : DirSet := d.sets[k]

/-- Writes a set of the table. -/
def put (d : Directory) (k : Fin 256) (x : DirSet) : Directory := { d with sets := d.sets.set k x }

/-- The valid entry of a key, searched in both ways of its home set (R37, R38). -/
def find (d : Directory) (i : StreamIx) (stripe : Nat) : Option DirEntry :=
  let x := d.row (homeSet i stripe)
  if wayHasKey x.way0 i stripe then x.way0 else if wayHasKey x.way1 i stripe then x.way1 else none

/-- A lookup (R38): the entry of the key if it passes the reader's test, with the generation its adopter takes. An
entry of generation 3 fails every test. -/
def lookup (d : Directory) (i : StreamIx) (stripe : Nat) (test : DirEntry → Bool) : Option Donor :=
  match d.find i stripe with
  | none => none
  | some e =>
    if test e && decide (e.generation ≤ 2) then
      some { number := e.number, slot := e.slot, generation := e.generation + 1 }
    else none

/-- The bounded test of PREVIOUS and BLEND (R39). -/
def bounded (number : Word32) (maxAge : Nat) (e : DirEntry) : Bool :=
  decide (e.number < number) && decide ((number - e.number).toNat ≤ maxAge)

/-- The forcing test (R40). -/
def forcing (number : Word32) (e : DirEntry) : Bool := decide (e.number < number)

/-- The fill test (R41). -/
def filling (number : Word32) (e : DirEntry) : Bool := decide (e.number ≤ number)

/-- The number of valid entries (R51). -/
def validCount (d : Directory) : Nat :=
  (d.sets.toList.map fun x => (if x.way0.isSome then 1 else 0) + (if x.way1.isSome then 1 else 0)).sum

end Directory

namespace State

/-- Writes a directory set. -/
def putSet (s : State) (k : Fin 256) (x : DirSet) : State := { s with dir := s.dir.put k x }

/-- The entry an insertion writes: it takes the insertion ordinal counter's value (R43). -/
def newEntry (s : State) (i : StreamIx) (stripe : Nat) (number : Word32) (gen : Nat) (x : Slot) : DirEntry :=
  { stream := i, stripe := stripe, number := number, generation := gen, slot := x, ordinal := s.dir.nextOrdinal }

/-- The insertion ordinal counter advances (R43). -/
def advanceOrdinal (s : State) : State := { s with dir := { s.dir with nextOrdinal := s.dir.nextOrdinal + 1 } }

/-- Overwrites the way that holds the key (R44): first +1 on the new slot, then −1 on the old. -/
def overwriteWay (s : State) (k : Fin 256) (second : Bool) (e old : DirEntry) : State :=
  let x := s.dir.row k
  ((s.putSet k (if second then { x with way1 := some e } else { x with way0 := some e })).claim e.slot).release old.slot

/-- Writes an invalid way (R45): +1 on the slot. -/
def fillWay (s : State) (k : Fin 256) (second : Bool) (e : DirEntry) : State :=
  let x := s.dir.row k
  (s.putSet k (if second then { x with way1 := some e } else { x with way0 := some e })).claim e.slot

/-- Evicts an entry and writes its way (R45): −1 on the old slot, the eviction count, then +1 on the new slot. -/
def evictWay (s : State) (k : Fin 256) (second : Bool) (e old : DirEntry) : State :=
  let x := s.dir.row k
  let s1 := s.release old.slot
  let s2 := { s1 with dir := { s1.dir with evictions := s1.dir.evictions + 1 } }
  (s2.putSet k (if second then { x with way1 := some e } else { x with way0 := some e })).claim e.slot

/-- One placement of an offered stripe (R43, R44, R45). -/
def insertStripe (s : State) (i : StreamIx) (stripe : Nat) (number : Word32) (gen : Nat) (x : Slot) : State :=
  let k := homeSet i stripe
  let e := s.newEntry i stripe number gen x
  let s1 := s.advanceOrdinal
  match (s.dir.row k).way0, (s.dir.row k).way1 with
  | none, none => s1.fillWay k false e
  | some o0, none => if o0.hasKey i stripe then s1.overwriteWay k false e o0 else s1.fillWay k true e
  | none, some o1 => if o1.hasKey i stripe then s1.overwriteWay k true e o1 else s1.fillWay k false e
  | some o0, some o1 =>
    if o0.hasKey i stripe then s1.overwriteWay k false e o0
    else if o1.hasKey i stripe then s1.overwriteWay k true e o1
    else if o0.ordinal < o1.ordinal then s1.evictWay k false e o0
    else s1.evictWay k true e o1

/-- A stripe is offered to the directory (R43). -/
def offered (st : StripeRec) (limit : Nat) : Option (Nat × Slot) :=
  match st.state, st.generation, st.slot with
  | .sound, some g, some x => if g ≤ limit then some (g, x) else none
  | .repaired, some g, some x => if g ≤ limit then some (g, x) else none
  | _, _, _ => none

/-- The insertion of one dispatched frame, in ascending stripe index (R43). -/
def insertFrame (s : State) (i : StreamIx) (number : Word32) (limit : Nat) (stripes : List StripeRec) : State :=
  stripes.zipIdx.foldl (fun s p =>
    match offered p.1 limit with
    | some (g, x) => s.insertStripe i p.2 number g x
    | none => s) s

end State

/-- How many valid entries of a set meet a test. -/
def DirSet.matching (test : DirEntry → Bool) (y : DirSet) : Nat := (y.way0.toList ++ y.way1.toList).countP test

/-- How many valid entries meet a test. -/
def Directory.matching (d : Directory) (test : DirEntry → Bool) : Nat :=
  ((List.finRange 256).map fun k => (d.row k).matching test).sum

namespace State

/-- Invalidates an entry that meets a test, with a claim of −1 on its slot (03 "Invalidation"). `y` is its set with the
way invalid. -/
def dropWay (test : DirEntry → Bool) (s : State) (k : Fin 256) (w : Option DirEntry) (y : DirSet) : State :=
  match w with
  | some e => if test e then (s.putSet k y).release e.slot else s
  | none => s

/-- Invalidates the entries of one set that meet a test, way 0 then way 1 (03 "Invalidation"). -/
def invalidateSet (test : DirEntry → Bool) (s : State) (k : Fin 256) : State :=
  let t := dropWay test s k (s.dir.row k).way0 { s.dir.row k with way0 := none }
  dropWay test t k (t.dir.row k).way1 { t.dir.row k with way1 := none }

/-- Invalidates every valid entry that meets a test, in ascending set number (R47, R48, R49; order: log 10). -/
def invalidate (s : State) (test : DirEntry → Bool) : State := (List.finRange 256).foldl (invalidateSet test) s

/-- Entries invalidated for a flaw are counted (R49). -/
def countFlaws (s : State) (n : Nat) : State := { s with dir := { s.dir with flaws := s.dir.flaws + BitVec.ofNat 32 n } }

/-- A FLAWED read reports its slot (R28): every valid entry naming it is invalidated and counted (R49). -/
def reportFlaw (s : State) (x : Slot) : State :=
  (s.invalidate fun e => e.slot == x).countFlaws (s.dir.matching fun e => e.slot == x)

/-- What follows a judged read (R28, R29): the log, the fault kind, and on FLAWED the report to the directory. -/
def noteRead (s : State) (x : Slot) (p : ReadPurpose) (r : ReadResult) : State :=
  let s1 := s.modStore (·.log x p r)
  match r with
  | .clean => s1
  | .corrected => s1.raise .storeCorrected 0 (BitVec.ofNat 32 x.val)
  | .flawed => (s1.raise .storeUncorrectable 0 (BitVec.ofNat 32 x.val)).reportFlaw x

/-- A store read of the first `size` bytes of a slot, judged now (R27): whether it is FLAWED, the data delivered, and
the state after its log, raise and report. -/
def readSlot (s : State) (p : ReadPurpose) (x : Slot) (size : Nat) : Bool × List Byte × State :=
  (s.store.judge x size == .flawed, s.store.deliver x size, s.noteRead x p (s.store.judge x size))

end State

end Sys2Proof.Machine
end

