-- ==== Sys2Proof/Machine/Engine.lean ====
section
/-! DEFINITION. The Repair Engine and the methods: frame and stripe records in the windows, the repair queue, contexts,
running steps, parking, the refetch exchange, completions, cancellation (R4, R57 to R92). -/

namespace Sys2Proof.Machine

/-! ### Frames and stripes in the windows -/

/-- A stripe of a frame. -/
def FrameRec.stripeAt (f : FrameRec) (k : Nat) : Option StripeRec := f.stripes[k]?

/-- Changes one stripe of a frame. -/
def FrameRec.modStripe (f : FrameRec) (k : Nat) (g : StripeRec → StripeRec) : FrameRec :=
  { f with stripes := f.stripes.modify k g }

/-- The number of DAMAGED stripes of a frame. -/
def FrameRec.damagedNow (f : FrameRec) : Nat := (f.stripes.filter fun st => st.state == .damaged).length

/-- The number of PARKED stripes of a frame. -/
def FrameRec.parkedNow (f : FrameRec) : Nat := (f.stripes.filter fun st => st.state == .parked).length

/-- One stripe of a CLOSED frame has entered a resolved state (R4, R90): the unresolved count falls, and at 0 the frame
is RESOLVED. -/
def FrameRec.resolveOne (f : FrameRec) : FrameRec :=
  { f with unresolved := f.unresolved - 1
           state := if f.unresolved - 1 = 0 ∧ f.state = .closed then .resolved else f.state }

namespace State

/-- The frame of a stream's window with a number. -/
def frame (s : State) (i : StreamIx) (n : Word32) : Option FrameRec :=
  (s.stream i).window.find? fun f => f.number == n

/-- Changes the frame of a stream's window with a number. -/
def modFrame (s : State) (i : StreamIx) (n : Word32) (g : FrameRec → FrameRec) : State :=
  s.modStream i fun r => { r with window := r.window.map fun f => if f.number == n then g f else f }

/-- The stripe a job names. -/
def stripe (s : State) (j : Job) : Option StripeRec := (s.frame j.stream j.number).bind (·.stripeAt j.stripe)

/-- Changes the stripe a job names. -/
def modStripe (s : State) (j : Job) (g : StripeRec → StripeRec) : State :=
  s.modFrame j.stream j.number (·.modStripe j.stripe g)

/-- Changes the stripe a job names into a resolved state (R4, R90). -/
def resolveStripe (s : State) (j : Job) (g : StripeRec → StripeRec) : State :=
  s.modFrame j.stream j.number fun f => (f.modStripe j.stripe g).resolveOne

/-! ### The repair queue (R69, R70) -/

/-- Changes the engine. -/
def modEngine (s : State) (f : Engine → Engine) : State := { s with engine := f s.engine }

end State

/-- Inserts a reference at its close-ordinal position (R69). -/
def insertRef (r : QueueRef) : List QueueRef → List QueueRef
  | [] => [r]
  | x :: t => if r.ordinal < x.ordinal then r :: x :: t else x :: insertRef r t

/-- A reference names a frame. -/
def QueueRef.names (r : QueueRef) (i : StreamIx) (n : Word32) : Bool := r.stream == i && r.number == n

namespace State

/-- The frame joins the repair queue unless it is there (R70). -/
def enqueueFrame (s : State) (i : StreamIx) (n : Word32) : State :=
  if s.engine.queue.any fun r => r.names i n then s
  else
    match (s.frame i n).bind (·.ordinal) with
    | some o => s.modEngine fun e => { e with queue := insertRef { stream := i, number := n, ordinal := o } e.queue }
    | none => s

/-- The frame leaves the repair queue (R70). -/
def dequeueFrame (s : State) (i : StreamIx) (n : Word32) : State :=
  s.modEngine fun e => { e with queue := e.queue.filter fun r => !r.names i n }

/-- A new step may start: the part is OPERATING and the stream is not STOPPED (R73). -/
def mayStart (s : State) (i : StreamIx) : Bool := !s.monitor.halted && (s.stream i).state != .stopped

end State

/-- The plan a configuration names for a cause (R57). -/
def StreamConfig.planFor (cfg : StreamConfig) : Cause → Fin 16
  | .flagged => cfg.planFlagged
  | .corrupt => cfg.planCorrupt
  | .absent => cfg.planAbsent

namespace State

/-- The steps of a plan; none for an EMPTY one (R52). -/
def planSteps (s : State) (p : Fin 16) : List PlanStep := s.plans[p].getD []

/-- The plan a job's stripe walks (R57). -/
def jobPlan (s : State) (j : Job) : Option (Fin 16) :=
  match (s.stream j.stream).config, (s.stripe j).bind (·.cause) with
  | some cfg, some c => some (cfg.planFor c)
  | _, _ => none

/-- The steps of the plan a job's stripe walks. -/
def jobSteps (s : State) (j : Job) : List PlanStep :=
  match s.jobPlan j with
  | some p => s.planSteps p
  | none => []

/-! ### How a step ends (R58, R59, R73) -/

/-- The context becomes FREE. -/
def freeContext (s : State) (c : Fin 4) : State := s.setContext c none

/-- The stripe becomes MARKED with a method; it keeps its slot (R58, R68). -/
def markStripe (s : State) (j : Job) (m : Method) : State :=
  (s.resolveStripe j fun st =>
    { st with state := .marked, method := some m, donors := [], generation := none }).bump j.stream .marked

/-- The stripe returns to DAMAGED and its frame joins the queue (R70, R73). -/
def returnToDamaged (s : State) (j : Job) : State :=
  (s.modStripe j fun st => { st with state := .damaged }).enqueueFrame j.stream j.number

end State

/-- The method a plan step records (R58, R107). -/
def PlanMethod.name : PlanMethod → Method
  | .neighbour _ => .neighbour
  | .previous _ => .previous
  | .blend _ => .blend
  | .refetch _ _ => .refetch
  | .mark => .mark

/-- The counter of a repair (R59, R21). -/
def Method.counter : Method → Counter
  | .neighbour => .repairedNeighbour
  | .previous => .repairedPrevious
  | .blend => .repairedBlend
  | .refetch => .repairedRefetch
  | .fallback => .repairedFallback
  | .mark => .marked

namespace State

/-- A stripe gives up the slot it named before, if any (R59, R102). -/
def releaseOld (s : State) (j : Job) : State :=
  match (s.stripe j).bind (·.slot) with
  | some x => s.release x
  | none => s

/-- A step succeeds with new data on slot `x` (R59): the stripe takes its hold (a claim of +1 when `adopt`), gives up its
old slot, becomes REPAIRED; the counter rises; the context releases its inputs and becomes FREE. -/
def completeRepair (s : State) (c : Fin 4) (j : Job) (x : Slot) (adopt : Bool) (m : Method) (donors : List Word32)
    (gen : Nat) (inputs : List Slot) : State :=
  let s1 := if adopt then s.claim x else s
  let s2 := s1.releaseOld j
  let s3 := s2.resolveStripe j fun st =>
    { st with state := .repaired, slot := some x, method := some m, donors := donors, generation := some gen }
  ((s3.bump j.stream m.counter).releaseAll inputs).freeContext c

/-- A slot is asked of the store (R24, R33); without one STORE_FULL is raised with the stream as detail. -/
def askSlot (s : State) (i : StreamIx) : Option Slot × State :=
  match s.store.alloc with
  | some (x, st) => (some x, { s with store := st })
  | none => (none, s.raise .storeFull 0 (BitVec.ofNat 32 (streamId i)))

end State

/-! ### The immediate checks (R60 to R68) -/

/-- How the start of a step ends (R57, R73). -/
inductive StepStart where
  | begun | failed | parked | marked
deriving DecidableEq, Repr

/-- Usable as a neighbour, with its slot and generation (R60). -/
def StripeRec.asNeighbour (st : StripeRec) : Option (Slot × Nat) :=
  if st.state = .sound ∨
      (st.state = .repaired ∧
        (st.method = some .previous ∨ st.method = some .blend ∨ st.method = some .refetch)) then
    match st.slot, st.generation with
    | some x, some g => some (x, g)
    | _, _ => none
  else none

/-- Usable as a successor input, with its slot (R60). -/
def StripeRec.asSuccessor (st : StripeRec) : Option Slot := if st.state = .sound then st.slot else none

/-- The inputs of a NEIGHBOUR step on stripe `k` of `n` (R61 check 1). -/
def neighbourInputs (n k : Nat) (edgeCopy : Bool) : Option (List Nat) :=
  if n ≤ 1 then none
  else if k = 0 then (if edgeCopy then some [1] else none)
  else if k = n - 1 then (if edgeCopy then some [n - 2] else none)
  else some [k - 1, k + 1]

/-- The inputs that are usable as neighbours, or none when one is not (R61 check 2). -/
def gatherNeighbours (f : FrameRec) : List Nat → Option (List (Slot × Nat))
  | [] => some []
  | k :: ks =>
    match (f.stripeAt k).bind (·.asNeighbour), gatherNeighbours f ks with
    | some p, some ps => some (p :: ps)
    | _, _ => none

/-- The record after a frame in a window (R5). -/
def successorOf (n : Word32) : List FrameRec → Option FrameRec
  | f :: g :: rest => if f.number == n then some g else successorOf n (g :: rest)
  | _ => none

/-- The record before a frame in a window (R11). -/
def predecessorOf (n : Word32) : List FrameRec → Option FrameRec
  | f :: g :: rest => if g.number == n then some f else predecessorOf n (g :: rest)
  | _ => none

namespace State

/-- The immediate check of NEIGHBOUR (R61). -/
def beginNeighbour (s : State) (c : Fin 4) (j : Job) (ix : Nat) (edgeCopy : Bool) : StepStart × State :=
  match s.frame j.stream j.number with
  | none => (.failed, s)
  | some f =>
    match (neighbourInputs f.stripeCount j.stripe edgeCopy).bind (gatherNeighbours f) with
    | none => (.failed, s)
    | some inputs =>
      let gen := (inputs.map (·.2)).foldl max 0 + 1
      if 3 < gen then (.failed, s)
      else
        match s.askSlot j.stream with
        | (none, s1) => (.failed, s1)
        | (some x, s1) =>
          (.begun, ((inputs.map (·.1)).foldl claim s1).setContext c
            (some { job := j, step := ix, op := .neighbour (inputs.map (·.1)) x gen }))

/-- The immediate check of PREVIOUS (R63). -/
def beginPrevious (s : State) (c : Fin 4) (j : Job) (ix maxAge : Nat) : StepStart × State :=
  match s.dir.lookup j.stream j.stripe (Directory.bounded j.number maxAge) with
  | none => (.failed, s)
  | some d => (.begun, (s.claim d.slot).setContext c (some { job := j, step := ix, op := .verify d }))

/-- A BLEND step parks its stripe (R65, R77). -/
def parkStripe (s : State) (c : Fin 4) (j : Job) : State :=
  ((s.modStripe j fun st => { st with state := .parked }).modEngine fun e =>
    { e with parked := e.parked + 1 }).freeContext c

/-- The immediate check of BLEND (R65). -/
def beginBlend (s : State) (c : Fin 4) (j : Job) (ix maxAge : Nat) : StepStart × State :=
  match s.dir.lookup j.stream j.stripe (Directory.bounded j.number maxAge) with
  | none => (.failed, s)
  | some d =>
    match successorOf j.number (s.stream j.stream).window with
    | none => if (s.stream j.stream).state.takesFrames then (.parked, s.parkStripe c j) else (.failed, s)
    | some g =>
      if g.state = .opened then
        (if (s.stream j.stream).state.takesFrames then (.parked, s.parkStripe c j) else (.failed, s))
      else
        match (g.stripeAt j.stripe).bind (·.asSuccessor) with
        | none => (.failed, s)
        | some y =>
          match s.askSlot j.stream with
          | (none, s1) => (.failed, s1)
          | (some x, s1) =>
            (.begun, ((s1.claim d.slot).claim y).setContext c
              (some { job := j, step := ix, op := .blend d g.number y x }))

/-- A REFETCH try begins (R79): the context holds it, and the ask is handed to the return path. -/
def startTry (s : State) (c : Fin 4) (j : Job) (ix tryNo left wait : Nat) : State :=
  let s1 := s.setContext c (some { job := j, step := ix, op := .refetch tryNo left wait false false })
  { s1 with ret := { s1.ret with asks := s1.ret.asks ++ [{ context := c, job := j, tryNo := tryNo }] } }

/-- The start of a step: its immediate check and, when it passes, its operation (R57, R73). -/
def beginStep (s : State) (c : Fin 4) (j : Job) (ix : Nat) (m : PlanMethod) : StepStart × State :=
  match m with
  | .neighbour edgeCopy => s.beginNeighbour c j ix edgeCopy
  | .previous maxAge => s.beginPrevious c j ix maxAge
  | .blend maxAge => s.beginBlend c j ix maxAge
  | .refetch tries wait => (.begun, s.startTry c j ix 1 (tries - 1) wait)
  | .mark => (.marked, (s.markStripe j .mark).freeContext c)

/-- A step has failed (R58, R73): with END or on the last step the stripe is MARKED with the step's method; otherwise the
resume step advances and the next step runs, or the stripe returns to DAMAGED when no new step may start. -/
def failStep (s : State) (c : Fin 4) (j : Job) (ix : Nat) (st : PlanStep) (last : Bool) (go : State → State) : State :=
  if st.onFail = .endPlan ∨ last = true then (s.markStripe j st.method.name).freeContext c
  else
    let s1 := s.modStripe j fun r => { r with resume := ix + 1 }
    if s1.mayStart j.stream then go s1 else (s1.freeContext c).returnToDamaged j

/-- A context runs the steps left of its stripe's plan until an operation begins or the stripe leaves it (R73). An index
past the plan's end, which R55 rules out, is taken as an exhausted plan (log 25). -/
def runSteps (c : Fin 4) (j : Job) (ix : Nat) : List PlanStep → State → State
  | [], s => (s.markStripe j .mark).freeContext c
  | st :: rest, s =>
    match s.beginStep c j ix st.method with
    | (.failed, s1) => s1.failStep c j ix st rest.isEmpty (runSteps c j (ix + 1) rest)
    | (.begun, s1) => s1
    | (.parked, s1) => s1
    | (.marked, s1) => s1

/-- The step a context was running has failed at its completion or resend (R73, R76, R83). -/
def stepFailed (s : State) (c : Fin 4) (b : Busy) : State :=
  match (s.jobSteps b.job).drop b.step with
  | [] => (s.markStripe b.job .mark).freeContext c
  | st :: rest => s.failStep c b.job b.step st rest.isEmpty (runSteps c b.job (b.step + 1) rest)

/-! ### Taking work (R72) -/

/-- The FREE context whose turn it is (R72): the lowest from number `k` on, and after the last of these the lowest. -/
def freeFrom (s : State) (k : Nat) : Option (Fin 4) :=
  match allContexts.find? fun c => decide (k ≤ c.val) && (s.context c).isNone with
  | some c => some c
  | none => allContexts.find? fun c => (s.context c).isNone

/-- The work a FREE context would take, the turn standing at context `k`: the context whose turn it is and the lowest
DAMAGED stripe of the first eligible frame. -/
def nextWork (s : State) (k : Nat) : Option (Fin 4 × Job) :=
  if s.monitor.halted then none
  else
    match s.freeFrom k,
        s.engine.queue.find? (fun r => (s.stream r.stream).state != .stopped) with
    | some c, some r =>
      match (s.frame r.stream r.number).bind (fun f => f.stripes.findIdx? fun st => st.state == .damaged) with
      | some k => some (c, { stream := r.stream, number := r.number, stripe := k })
      | none => none
    | _, _ => none

/-- A context takes a stripe (R72): it becomes REPAIRING, the frame leaves the queue with its last DAMAGED stripe, and
the resume step runs. -/
def takeStripe (s : State) (c : Fin 4) (j : Job) : State :=
  let s1 := s.modStripe j fun st => { st with state := .repairing }
  let s2 :=
    match s1.frame j.stream j.number with
    | some f => if f.damagedNow = 0 then s1.dequeueFrame j.stream j.number else s1
    | none => s1
  let ix := ((s2.stripe j).map (·.resume)).getD 0
  runSteps c j ix ((s2.jobSteps j).drop ix) s2

/-- Contexts take work until none is FREE or nothing is eligible (R72): the next stripe goes to the next-lowest FREE
context, and a context whose stripe left it at once takes its turn again after the others. Each round uses up one DAMAGED
stripe, of which there are at most 96 × 72. -/
def takeWorkFor : Nat → Nat → State → State
  | 0, _, s => s
  | n + 1, k, s =>
    match s.nextWork k with
    | none => s
    | some (c, j) => takeWorkFor n (c.val + 1) (s.takeStripe c j)

/-- Contexts take work, at the end of the command that let them, the lowest FREE context first (R72; log 6). -/
def takeWork (s : State) : State := takeWorkFor 6913 0 s

/-! ### Parking and release (R77, R78) -/

/-- Every PARKED stripe of a frame returns to DAMAGED (R78). -/
def unparkFrame (s : State) (i : StreamIx) (n : Word32) : State :=
  match s.frame i n with
  | none => s
  | some f =>
    if f.parkedNow = 0 then s
    else
      ((s.modFrame i n fun f =>
          { f with stripes := f.stripes.map fun st =>
              if st.state == .parked then { st with state := .damaged } else st }).modEngine fun e =>
        { e with parked := e.parked - f.parkedNow }).enqueueFrame i n

/-- Every PARKED stripe of every frame of a stream returns to DAMAGED (R78). -/
def unparkStream (s : State) (i : StreamIx) : State :=
  (s.stream i).window.foldl (fun s f => s.unparkFrame i f.number) s

/-! ### Cancellation (R84, R86, R87) -/

/-- The context's ask is withdrawn (R79, R164): removed while unsent; an ask being sent is sent whole, and its context no
longer waits on it. -/
def withdrawAsk (s : State) (c : Fin 4) : State :=
  { s with ret := { s.ret with
      asks := s.ret.asks.filter fun a => a.context != c
      sending :=
        match s.ret.sending with
        | some (.ask a live) => some (.ask a (live && a.context != c))
        | some (.flow f) => some (.flow f)
        | some (.reply r) => some (.reply r)
        | some (.notice n) => some (.notice n)
        | none => none } }

end State

/-- The input slots an operation holds (R71). -/
def Operation.inputs : Operation → List Slot
  | .neighbour inputs _ _ => inputs
  | .blend d _ y _ => [d.slot, y]
  | .verify d => [d.slot]
  | .refetch _ _ _ _ _ => []

/-- The result slot an operation holds (R71). -/
def Operation.result : Operation → Option Slot
  | .neighbour _ x _ => some x
  | .blend _ _ _ x => some x
  | .verify _ => none
  | .refetch _ _ _ _ _ => none

/-- The method an operation carries out. -/
def Operation.method : Operation → Method
  | .neighbour _ _ _ => .neighbour
  | .blend _ _ _ _ => .blend
  | .verify _ => .previous
  | .refetch _ _ _ _ _ => .refetch

/-- COMPOSING or AWAITING_RESEND (R71). -/
def Operation.composing : Operation → Bool
  | .neighbour _ _ _ => true
  | .blend _ _ _ _ => true
  | .verify _ => true
  | .refetch _ _ _ _ _ => false

namespace State

/-- The context gives up its result slot, then its input slots (R76, R84; order: log 10). -/
def releaseHolds (s : State) (op : Operation) : State :=
  (match op.result with
   | some x => s.release x
   | none => s).releaseAll op.inputs

/-- A busy context is cancelled (R84). -/
def cancelContext (s : State) (c : Fin 4) : State :=
  match s.context c with
  | none => s
  | some b => ((s.releaseHolds b.op).withdrawAsk c).freeContext c

/-- Cancels every context that names a stripe of a set of frames, in ascending context number (R86, R87, R102; the order
is the model's choice, log 10). -/
def cancelWhere (s : State) (test : Job → Bool) : State :=
  allContexts.foldl (fun s c =>
    match s.context c with
    | some b => if test b.job then s.cancelContext c else s
    | none => s) s

/-- The engine gives up a frame (R86): its contexts are cancelled, its PARKED stripes leave PARKED, it leaves the queue.
Every unresolved stripe is then DAMAGED (R102). -/
def giveUp (s : State) (i : StreamIx) (n : Word32) : State :=
  let parked := ((s.frame i n).map (·.parkedNow)).getD 0
  (((s.cancelWhere fun j => j.stream == i && j.number == n).modFrame i n fun f =>
      { f with stripes := f.stripes.map fun st =>
          if st.state == .repairing || st.state == .parked then { st with state := .damaged } else st }).modEngine
    fun e => { e with parked := e.parked - parked }).dequeueFrame i n

/-- ABORT_STREAM reaches the engine (R87). -/
def abandonWork (s : State) (i : StreamIx) : State :=
  let parked := ((s.stream i).window.map (·.parkedNow)).sum
  (s.cancelWhere fun j => j.stream == i).modEngine fun e =>
    { e with queue := e.queue.filter fun r => r.stream != i, parked := e.parked - parked }

/-! ### Completions (R62, R64, R66, R76) -/

/-- Reads several slots in turn: whether any is FLAWED, the data of each, the state after. The reads of one compose are
judged, logged and raised in the order of its inputs, the lower neighbour or the donor first: R29 allows either order, and
this one is the model's choice (log 32). -/
def readSlots (p : ReadPurpose) (size : Nat) : List Slot → State → Bool × List (List Byte) × State
  | [], s => (false, [], s)
  | x :: xs, s =>
    let r := s.readSlot p x size
    let rs := readSlots p size xs r.2.2
    (r.1 || rs.1, r.2.1 :: rs.2.1, rs.2.2)

/-- The stripe size of the frame a job names. -/
def jobSize (s : State) (j : Job) : Nat := ((s.frame j.stream j.number).map (·.stripeSize)).getD 0

end State

/-- The result of a compose: a copy of the single input, or the mean of two (R62, R66). -/
def composeData : List (List Byte) → List Byte
  | [a] => a
  | [a, b] => meanBytes a b
  | _ => []

namespace State

/-- Compose completion (R62, R66, R76): every input is read; on success the result is written and the stripe repaired,
on a FLAWED input the holds are given up and the step fails. -/
def composeDone (s : State) (c : Fin 4) (b : Busy) (result : Slot) (inputs : List Slot) (donors : List Word32)
    (gen : Nat) : State :=
  let r := readSlots .compose (s.jobSize b.job) inputs s
  if r.1 then (r.2.2.releaseHolds b.op).stepFailed c b
  else
    (r.2.2.modStore (·.write result (composeData r.2.1))).completeRepair c b.job result false b.op.method donors gen
      inputs

/-- Verify completion (R64, R76). -/
def verifyDone (s : State) (c : Fin 4) (b : Busy) (d : Donor) : State :=
  let r := s.readSlot .verify d.slot (s.jobSize b.job)
  if r.1 then (r.2.2.releaseHolds b.op).stepFailed c b
  else r.2.2.completeRepair c b.job d.slot true .previous [d.number] d.generation [d.slot]

/-! ### The refetch exchange (R79 to R83) -/

/-- A try has failed (R83). -/
def tryFailed (s : State) (c : Fin 4) (b : Busy) (tryNo left wait : Nat) : State :=
  if left = 0 then
    (s.occur .refetchExhausted (streamId b.job.stream) b.job.number).stepFailed c b
  else if s.mayStart b.job.stream then s.startTry c b.job b.step (tryNo + 1) (left - 1) wait
  else (s.freeContext c).returnToDamaged b.job

/-- The AWAITING_RESEND context that names a stripe (R80). -/
def awaiting (s : State) (j : Job) : Option (Fin 4 × Busy) :=
  (allContexts.find? fun c =>
    match s.context c with
    | some b => b.job == j && !b.op.composing
    | none => false).bind fun c => (s.context c).map fun b => (c, b)

/-- A matched resend is assessed (R80, R81). `sound` is the judgement of its payload check and dropout flag (R8). -/
def assessResend (s : State) (c : Fin 4) (b : Busy) (tryNo left wait : Nat) (payload : List Byte) (sound : Bool) :
    State :=
  let s0 := s.withdrawAsk c
  if payload.length ≠ s0.jobSize b.job then s0.tryFailed c b tryNo left wait
  else
    match s0.askSlot b.job.stream with
    | (none, s1) => s1.tryFailed c b tryNo left wait
    | (some x, s1) =>
      let s2 := s1.modStore (·.write x payload)
      if sound then s2.completeRepair c b.job x false .refetch [] 0 []
      else (s2.release x).tryFailed c b tryNo left wait

/-- A refetch timer expires (R82). -/
def refetchExpired (s : State) (c : Fin 4) (b : Busy) (tryNo left wait : Nat) : State :=
  (s.withdrawAsk c).tryFailed c b tryNo left wait

/-- A REFETCH_ASK has been transmitted (R79, R164): the refetch timer of a context that still waits on that try starts. -/
def askTransmitted (s : State) (a : Ask) : State :=
  match s.context a.context with
  | some b =>
    match b.op with
    | .refetch tryNo left wait _ _ => s.setContext a.context (some { b with op := .refetch tryNo left wait true true })
    | .neighbour _ _ _ | .blend _ _ _ _ | .verify _ => s
  | none => s

end State

end Sys2Proof.Machine
end

