-- ==== Sys2Proof/WellFormed.lean ====
section
/-! DEFINITION. Which terms of `Instr` are the command their constructor names: the routing fields of 12 "Ingest link
units" and the list lengths of 12 "Parameters and results". The machine gives every term a meaning, well-formed or
not. -/

namespace Sys2Proof

/-- A frame unit's stream field names a stream 1 to 12 (R6). -/
def isVideoStream (b : Byte) : Bool := 1 ≤ b.toNat && b.toNat ≤ 12

/-- The body length of an ingest unit is at most 16,392 (12 "Ingest link units"). -/
def IngestUnit.fits (u : IngestUnit) : Bool := u.body.length ≤ 16392

/-- Bit 1 of the STRIPE flags byte (12): set on a resend. A body too short to hold a STRIPE has none. -/
def IngestUnit.isResend (u : IngestUnit) : Bool := 8 ≤ u.body.length && (u.body.getD 5 0).getLsbD 1

/-- The body length of a burn link unit is at most 16,398 (12 "Burn link units"). -/
def BurnAnswer.fits (u : BurnAnswer) : Bool := u.body.length ≤ 16398

/-- The number of list items lies between one and the most the layout admits (12). -/
def itemsFit (n most : Nat) : Bool := 1 ≤ n && n ≤ most

/-- The check of each command. -/
def Instr.wellFormed : Instr → Bool
  | .powerOn => true
  | .sweepCompletion => true
  | .linkDown => true
  | .linkUp => true
  | .frameOpen u => isVideoStream u.stream && u.fits
  | .stripe u => isVideoStream u.stream && u.fits && !u.isResend
  | .stripeResend u => isVideoStream u.stream && u.fits && u.isResend
  | .frameClose u => isVideoStream u.stream && u.fits
  | .control u => u.stream == 0 && u.fits
  | .unknownCommand _ code params => (code.toNat == 0 || 28 < code.toNat) && params.length ≤ 16388
  | .configureStream _ _ _ => true
  | .startStream _ _ => true
  | .stopStream _ _ => true
  | .abortStream _ _ => true
  | .streamStatus _ _ => true
  | .setStore _ _ => true
  | .storeStatus _ _ _ => true
  | .purgeDirectory _ _ => true
  | .readDirectory _ _ _ => true
  | .loadPlan _ _ _ steps => itemsFit steps.length 8
  | .readPlan _ _ => true
  | .engineStatus _ => true
  | .setSlotPattern _ _ _ => true
  | .setLink _ _ _ => true
  | .survey _ => true
  | .driveStatus _ _ => true
  | .holdDrive _ _ => true
  | .releaseDrive _ _ => true
  | .passToDrive _ _ _ bytes => itemsFit bytes.length 32
  | .bookWatch _ _ _ => true
  | .cancelWatch _ _ => true
  | .rearmWatch _ _ => true
  | .releaseWatch _ _ => true
  | .readFaults _ => true
  | .clearFaults _ _ kinds => itemsFit kinds.length 11
  | .setFaultActions _ _ pairs => itemsFit pairs.length 11
  | .identify _ => true
  | .resetPart _ => true
  | .cadenceExpiry _ => true
  | .composeCompletion _ _ => true
  | .verifyCompletion _ _ => true
  | .refetchTimerExpiry _ => true
  | .returnUnitEnd => true
  | .pollTimerExpiry => true
  | .turnBoundary => true
  | .burnUnitEnd => true
  | .burnReadCompletion index _ => index.toNat < 72
  | .presenceAnswer u => u.fits
  | .statusAnswer u => u.fits
  | .spaceOk u => u.fits
  | .spaceNo u => u.fits
  | .writeDone u => u.fits
  | .writeFail u => u.fits
  | .driveAnswer u => u.fits
  | .missedAnswer => true
  | .relayWindowExpiry _ => true
  | .unknownUnitKind bytes =>
    6 ≤ bytes.length &&
      (13 ≤ (bytes.getD 1 0).toNat ||
        (1 ≤ (bytes.getD 1 0).toNat && !(1 ≤ (bytes.getD 0 0).toNat && (bytes.getD 0 0).toNat ≤ 3)))

end Sys2Proof
end

