-- ==== Sys2Proof/Machine/Operands.lean ====
section
/-! DEFINITION. Every operand form: the acceptance tests and bodies of ingest units, the parameter layouts of the
twenty-eight commands, the settings and codes, and the bodies of the drives' answers (12 "Unit Layouts", R178). -/

namespace Sys2Proof.Machine

/-! ### Acceptance (R178) -/

/-- The unit kinds toward the part (12 "Ingest link units"). -/
abbrev kindFrameOpen : Byte := 0x01
abbrev kindStripe : Byte := 0x02
abbrev kindFrameClose : Byte := 0x03
abbrev kindControl : Byte := 0x04

/-- The check of an ingest unit: over the kind, stream, length field and body (R178). -/
def ingestCheck (kind : Byte) (stream : Byte) (len : Word16) (body : List Byte) : Word16 :=
  crc16 (kind :: stream :: (le16Bytes len ++ body))

/-- The length and check tests of R178 on an ingest unit of a kind. -/
def ingestAccepted (kind : Byte) (u : IngestUnit) : Bool :=
  u.len.toNat == u.body.length && u.check == ingestCheck kind u.stream u.len u.body

/-- The unit the server builds for a body: correct length field and check. -/
def buildIngest (kind stream : Byte) (body : List Byte) : IngestUnit :=
  { stream := stream, len := BitVec.ofNat 16 body.length, body := body,
    check := ingestCheck kind stream (BitVec.ofNat 16 body.length) body }

/-- The framing test of R178: a run of bytes shorter than a header and a check is no unit; otherwise its kind and the
unit. -/
def frameIngest (bytes : List Byte) : Option (Byte × IngestUnit) :=
  if bytes.length < 6 then none
  else some (bytes.getD 0 0,
    { stream := bytes.getD 1 0, len := readLe16 (bytes.drop 2),
      body := (bytes.drop 4).take (bytes.length - 6), check := readLe16 (bytes.drop (bytes.length - 2)) })

/-- The check of a burn link unit (R178). -/
def burnCheck (kind address factor zero : Byte) (len : Word16) (body : List Byte) : Word16 :=
  crc16 (kind :: address :: factor :: zero :: (le16Bytes len ++ body))

/-- The length and check tests of R178 on a drive's unit of a kind. The factor and zero fields are covered by the check
and not examined (R115). -/
def burnAccepted (kind : Byte) (u : BurnAnswer) : Bool :=
  u.len.toNat == u.body.length && u.check == burnCheck kind u.address u.factor u.zero u.len u.body

/-- The unit a drive builds for a body. -/
def buildAnswer (kind address factor : Byte) (body : List Byte) : BurnAnswer :=
  { address := address, factor := factor, zero := 0, len := BitVec.ofNat 16 body.length, body := body,
    check := burnCheck kind address factor 0 (BitVec.ofNat 16 body.length) body }

/-! ### Bodies of frame units -/

/-- The frame number a unit carried, or 0 if it carried none (R171; log 12): the three frame unit kinds carry it in their
first four bytes. -/
def carriedNumber (kind : Byte) (body : List Byte) : Word32 :=
  if (kind == kindFrameOpen || kind == kindStripe || kind == kindFrameClose) && 4 ≤ body.length
  then readLe32 body else 0

/-- A STRIPE body: frame number, stripe index, flags, payload check, payload (12). -/
structure StripeBody where
  number   : Word32
  index    : Nat
  dropout  : Bool
  resend   : Bool
  paycheck : Word16
  payload  : List Byte
deriving DecidableEq, Repr

/-- Reads a STRIPE body; none when it is shorter than 8 bytes. -/
def readStripeBody (body : List Byte) : Option StripeBody :=
  if body.length < 8 then none
  else some { number := readLe32 body, index := (body.getD 4 0).toNat, dropout := (body.getD 5 0).getLsbD 0,
              resend := (body.getD 5 0).getLsbD 1, paycheck := readLe16 (body.drop 6), payload := body.drop 8 }

/-- Reads a FRAME_OPEN body: frame number and timecode; none when it is not 8 bytes long. -/
def readFrameOpenBody (body : List Byte) : Option (Word32 × Word32) :=
  if body.length = 8 then some (readLe32 body, readLe32 (body.drop 4)) else none

/-- Reads a FRAME_CLOSE body: the frame number; none when it is not 4 bytes long. -/
def readFrameCloseBody (body : List Byte) : Option Word32 :=
  if body.length = 4 then some (readLe32 body) else none

/-- Whether a payload is judged SOUND, FLAGGED or CORRUPT (R8): none is SOUND. -/
def judgePayload (b : StripeBody) : Option Cause :=
  if crc16 b.payload ≠ b.paycheck then some .corrupt
  else if b.dropout then some .flagged
  else none

/-! ### Command parameters (12 "Parameters and results") -/

/-- Reads `n` plan steps of four bytes. -/
def readSteps : Nat → List Byte → List StepFields
  | 0, _ => []
  | n + 1, bs =>
    { method := bs.getD 0 0, onFail := bs.getD 1 0, first := bs.getD 2 0, second := bs.getD 3 0 } ::
      readSteps n (bs.drop 4)

/-- Reads `n` pairs of two bytes. -/
def readPairs : Nat → List Byte → List (Byte × Byte)
  | 0, _ => []
  | n + 1, bs => (bs.getD 0 0, bs.getD 1 0) :: readPairs n (bs.drop 2)

/-- The fields of CONFIGURE_STREAM. -/
def readConfig (bs : List Byte) : ConfigFields :=
  { stripes := bs.getD 0 0, stripeSize := readLe16 (bs.drop 1), planFlagged := bs.getD 3 0, planCorrupt := bs.getD 4 0,
    planAbsent := bs.getD 5 0, depth := bs.getD 6 0, period := readLe16 (bs.drop 7), pattern := bs.getD 9 0,
    primary := bs.getD 10 0, partner := bs.getD 11 0, genLimit := bs.getD 12 0, fallback := bs.getD 13 0,
    fill := bs.getD 14 0 }

/-- The fields of BOOK_WATCH. -/
def readWatch (bs : List Byte) : WatchFields :=
  { condition := bs.getD 0 0, scope := bs.getD 1 0, present := bs.getD 2 0, threshold := bs.getD 3 0,
    mode := bs.getD 4 0, action := bs.getD 5 0, tag := readLe24 (bs.drop 6) }

/-- A parameter area of a fixed length. -/
def fixed (n : Nat) (ps : List Byte) (c : Command) : UnitForm :=
  if ps.length = n then .command c else .malformed 3

/-- A parameter area that is `head` bytes and a list of 1 to `most` items of `width` bytes (R157; 12 "Parameters and
results"). -/
def listed (head width most : Nat) (ps : List Byte) (c : Nat → Command) : UnitForm :=
  if head ≤ ps.length ∧ (ps.length - head) % width = 0 ∧ itemsFit ((ps.length - head) / width) most
  then .command (c ((ps.length - head) / width)) else .malformed 3

/-- The command of a code (09 "Command catalogue", codes 1 to 28) with its parameter area; unknown for another code,
malformed with reason code 3 for a length its layout does not allow (R157). -/
def readCommand (code : Byte) (ps : List Byte) : UnitForm :=
  match code.toNat with
  | 1 => fixed 16 ps (.configureStream (ps.getD 0 0) (readConfig (ps.drop 1)))
  | 2 => fixed 1 ps (.startStream (ps.getD 0 0))
  | 3 => fixed 1 ps (.stopStream (ps.getD 0 0))
  | 4 => fixed 1 ps (.abortStream (ps.getD 0 0))
  | 5 => fixed 1 ps (.streamStatus (ps.getD 0 0))
  | 6 => fixed 1 ps (.setStore (ps.getD 0 0))
  | 7 => fixed 3 ps (.storeStatus (ps.getD 0 0) (readLe16 (ps.drop 1)))
  | 8 => fixed 1 ps (.purgeDirectory (ps.getD 0 0))
  | 9 => fixed 2 ps (.readDirectory (ps.getD 0 0) (ps.getD 1 0))
  | 10 => listed 2 4 8 ps fun n => .loadPlan (ps.getD 0 0) (ps.getD 1 0) (readSteps n (ps.drop 2))
  | 11 => fixed 1 ps (.readPlan (ps.getD 0 0))
  | 12 => fixed 0 ps .engineStatus
  | 13 => fixed 2 ps (.setSlotPattern (ps.getD 0 0) (ps.getD 1 0))
  | 14 => fixed 2 ps (.setLink (ps.getD 0 0) (ps.getD 1 0))
  | 15 => fixed 0 ps .survey
  | 16 => fixed 1 ps (.driveStatus (ps.getD 0 0))
  | 17 => fixed 1 ps (.holdDrive (ps.getD 0 0))
  | 18 => fixed 1 ps (.releaseDrive (ps.getD 0 0))
  | 19 => listed 2 1 32 ps fun _ => .passToDrive (ps.getD 0 0) (ps.getD 1 0) (ps.drop 2)
  | 20 => fixed 10 ps (.bookWatch (ps.getD 0 0) (readWatch (ps.drop 1)))
  | 21 => fixed 1 ps (.cancelWatch (ps.getD 0 0))
  | 22 => fixed 1 ps (.rearmWatch (ps.getD 0 0))
  | 23 => fixed 1 ps (.releaseWatch (ps.getD 0 0))
  | 24 => fixed 0 ps .readFaults
  | 25 => listed 1 1 11 ps fun _ => .clearFaults (ps.getD 0 0) (ps.drop 1)
  | 26 => listed 1 2 11 ps fun n => .setFaultActions (ps.getD 0 0) (readPairs n (ps.drop 1))
  | 27 => fixed 0 ps .identify
  | 28 => fixed 0 ps .resetPart
  | _ => .unknown

/-- The form of a command that arrives with its parameters already read: malformed when a list has a length its layout
does not allow (R157). -/
def commandForm (c : Command) : UnitForm :=
  match c with
  | .loadPlan _ _ steps => if itemsFit steps.length 8 then .command c else .malformed 3
  | .passToDrive _ _ bytes => if itemsFit bytes.length 32 then .command c else .malformed 3
  | .clearFaults _ kinds => if itemsFit kinds.length 11 then .command c else .malformed 3
  | .setFaultActions _ pairs => if itemsFit pairs.length 11 then .command c else .malformed 3
  | .configureStream _ _ | .startStream _ | .stopStream _ | .abortStream _ | .streamStatus _ | .setStore _
  | .storeStatus _ _ | .purgeDirectory _ | .readDirectory _ _ | .readPlan _ | .engineStatus | .setSlotPattern _ _
  | .setLink _ _ | .survey | .driveStatus _ | .holdDrive _ | .releaseDrive _ | .bookWatch _ _ | .cancelWatch _
  | .rearmWatch _ | .releaseWatch _ | .readFaults | .identify | .resetPart => .command c

/-- A unit on stream 0 as it joins the control queue (R154, R156, R157; log 27). R157 gives its cases no order: the kind is
tested before the length of the body (the model's choice, log 34). The tag of a unit of another kind, and of a CONTROL unit
whose body is under 2 bytes (seen in reason code 4 alone), is a free value (the model's choice, log 11). -/
def readControl (kind : Byte) (body : List Byte) : ControlUnit :=
  if kind ≠ kindControl then
    { tag := Config.freeTag kind body, form := .malformed 2 }
  else if body.length < 4 then
    { tag := if 2 ≤ body.length then readLe16 body else Config.freeTag kind body, form := .malformed 1 }
  else { tag := readLe16 body, form := readCommand (body.getD 2 0) (body.drop 4) }

/-! ### Fields and codes -/

/-- YES or NO, ON or OFF, and the other two-valued settings: 0 or 1 (12 "Codes"). -/
def readFlag (b : Byte) : Option Bool := if b = 0 then some false else if b = 1 then some true else none

/-- A configuration, when every field is in its range (R2). -/
def readStreamConfig (f : ConfigFields) : Option StreamConfig :=
  if (1 ≤ f.stripes.toNat ∧ f.stripes.toNat ≤ 72) ∧
      (512 ≤ f.stripeSize.toNat ∧ f.stripeSize.toNat ≤ 16384 ∧ f.stripeSize.toNat % 512 = 0) ∧
      (2 ≤ f.depth.toNat ∧ f.depth.toNat ≤ 6) ∧ (900 ≤ f.period.toNat ∧ f.period.toNat ≤ 9000) ∧
      f.pattern ≠ 0 ∧ f.genLimit.toNat ≤ 3 ∧ f.partner ≠ f.primary ∧ f.partner.toNat ≤ 8
  then
    match finOf 16 f.planFlagged, finOf 16 f.planCorrupt, finOf 16 f.planAbsent, driveOf f.primary,
        readFlag f.fallback, readFlag f.fill with
    | some pf, some pc, some pa, some primary, some fallback, some notAllowed =>
      some { stripes := f.stripes.toNat, stripeSize := f.stripeSize.toNat, planFlagged := pf, planCorrupt := pc,
             planAbsent := pa, depth := f.depth.toNat, period := f.period.toNat, pattern := f.pattern,
             primary := primary, partner := driveOf f.partner, genLimit := f.genLimit.toNat,
             fallback := if fallback then .mark else .reference, fillAllowed := !notAllowed }
    | _, _, _, _, _, _ => none
  else none

/-- A plan step, when its codes are known and its parameters in range (R53, R54 check 3). -/
def readPlanStep (f : StepFields) : Option PlanStep :=
  match readFlag f.onFail with
  | none => none
  | some isEnd =>
    let onFail : OnFail := if isEnd then .endPlan else .next
    match f.method.toNat with
    | 1 => (readFlag f.first).map fun e => { method := .neighbour e, onFail := onFail }
    | 2 => if 1 ≤ f.first.toNat then some { method := .previous f.first.toNat, onFail := onFail } else none
    | 3 => if 1 ≤ f.first.toNat then some { method := .blend f.first.toNat, onFail := onFail } else none
    | 4 =>
      if 1 ≤ f.first.toNat ∧ f.first.toNat ≤ 7 ∧ 1 ≤ f.second.toNat then
        some { method := .refetch f.first.toNat f.second.toNat, onFail := onFail } else none
    | 6 => if isEnd then some { method := .mark, onFail := .endPlan } else none
    | _ => none

/-- All the steps of a plan, or none when one is wrong. -/
def readPlan : List StepFields → Option (List PlanStep)
  | [] => some []
  | f :: fs =>
    match readPlanStep f, readPlan fs with
    | some st, some rest => some (st :: rest)
    | _, _ => none

/-- A watch condition's code, 1 to 8 in the order of R165. -/
def readCondition (b : Byte) : Option WatchCondition :=
  match b.toNat with
  | 1 => some .damageRate | 2 => some .forced | 3 => some .fill | 4 => some .span | 5 => some .stall
  | 6 => some .refetchExhausted | 7 => some .mediaNeeded | 8 => some .driveChange
  | _ => none

/-- A fault kind's code, 1 to 11 in the order of R171. -/
def readKind (b : Byte) : Option FaultKind :=
  match b.toNat with
  | 1 => some .sequence | 2 => some .stray | 3 => some .overrun | 4 => some .storeFull | 5 => some .storeCorrected
  | 6 => some .storeUncorrectable | 7 => some .driveSilent | 8 => some .driveWriteFail | 9 => some .noticeOverflow
  | 10 => some .controlMalformed | 11 => some .ingestLoss
  | _ => none

/-- An action's code: RECORD 0, NOTIFY 1, STOP 2, HALT 3 (12). -/
def readAction (b : Byte) : Option FaultAction :=
  match b.toNat with
  | 0 => some .record | 1 => some .notify | 2 => some .stop | 3 => some .halt
  | _ => none

/-- STOP is allowed for stream and drive kinds (R173). -/
def FaultKind.allowsStop : FaultKind → Bool
  | .sequence => true | .stray => true | .overrun => true | .driveSilent => true | .driveWriteFail => true
  | .storeFull => false | .storeCorrected => false | .storeUncorrectable => false | .noticeOverflow => false
  | .controlMalformed => false | .ingestLoss => false

/-- A booking, when every field is in its range (R166 check 2). The threshold of another condition than DAMAGE_RATE is
not examined and not kept, and neither is the presence byte before it: a value above 1 there is no BAD_PARAMETER, though R157
has a field with an undefined code judged so (the model's choice, log 36). With DAMAGE_RATE it must be 1. -/
def readBooking (f : WatchFields) : Option Booking :=
  match readCondition f.condition, readFlag f.mode, readFlag f.action with
  | some c, some every, some suspend =>
    let drive : Bool := c == .mediaNeeded || c == .driveChange
    let scopeFits := decide (f.scope.toNat ≤ if drive then 8 else 12)
    let thresholdFits :=
      c != .damageRate || (f.present == 1 && 1 ≤ f.threshold.toNat && f.threshold.toNat ≤ 72)
    if scopeFits && thresholdFits && !(suspend && drive) then
      some { fired := false, condition := c, scope := f.scope.toNat,
             threshold := if c = .damageRate then some f.threshold.toNat else none, every := every, suspend := suspend,
             tag := f.tag, suspension := none }
    else none
  | _, _, _ => none

/-- All the kinds of a CLEAR_FAULTS, or none when one is unknown. -/
def readKinds : List Byte → Option (List FaultKind)
  | [] => some []
  | b :: bs =>
    match readKind b, readKinds bs with
    | some k, some ks => some (k :: ks)
    | _, _ => none

/-- All the pairs of a SET_FAULT_ACTIONS, or none when a kind or action is unknown, a kind appears twice, or STOP is set
on a part kind (R175). -/
def readActions : List (Byte × Byte) → Option (List (FaultKind × FaultAction))
  | [] => some []
  | p :: ps =>
    match readKind p.1, readAction p.2, readActions ps with
    | some k, some a, some rest =>
      if (a = .stop ∧ k.allowsStop = false) ∨ rest.any (fun q => q.1 == k) = true then none else some ((k, a) :: rest)
    | _, _, _ => none

/-- A rate factor (R114). -/
def readFactor (b : Byte) : Option RateFactor :=
  match b.toNat with
  | 1 => some .x1 | 2 => some .x2 | 4 => some .x4 | 8 => some .x8
  | _ => none

/-! ### Drives' answers -/

/-- The news field and capacity field of an answer: NONE 0, MEDIA_READY 1, MEDIA_GONE 2, MEDIA_FULL 3 (12 "Codes"; a
higher code: log 21). The capacity is read only with MEDIA_READY (R115). -/
def readNews (code : Byte) (capacity : Word32) : News :=
  match code.toNat with
  | 0 => .nothing
  | 1 => .mediaReady capacity
  | 2 => .mediaGone
  | 3 => .mediaFull
  | _ =>
    match Config.newsOfCode code with
    | 0 => .nothing
    | 1 => .mediaReady capacity
    | 2 => .mediaGone
    | _ => .mediaFull

/-- The body of an answer with news and capacity, five bytes; none for another length (R178). -/
def readNewsBody (body : List Byte) : Option News :=
  if body.length = 5 then some (readNews (body.getD 0 0) (readLe32 (body.drop 1))) else none

/-- The body of a WRITE_DONE: the remaining capacity, four bytes. -/
def readDoneBody (body : List Byte) : Option Word32 :=
  if body.length = 4 then some (readLe32 body) else none

/-- The body of a DRIVE_ANSWER: a byte count of 0 to 32 and that many bytes (log 22). -/
def readDriveBytes (body : List Byte) : Option (List Byte) :=
  match body with
  | [] => none
  | n :: bytes => if n.toNat = bytes.length ∧ bytes.length ≤ 32 then some bytes else none

/-- Capacity news as the controller hands it on after a write: MEDIA_READY, or MEDIA_FULL at 0 (R128). -/
def newsOfCapacity (capacity : Word32) : News := if capacity = 0 then .mediaFull else .mediaReady capacity

end Sys2Proof.Machine
end

