-- ==== Sys2Proof/Machine/Frames.lean ====
section
/-! DEFINITION. Arrival and close of frames: FRAME_OPEN, STRIPE, resend and FRAME_CLOSE units as the Stream Table takes
them, damage assessment, and the return of frame records to the pool (R3 to R14). -/

namespace Sys2Proof.Machine

/-- A stripe record at FRAME_OPEN (R3). -/
def StripeRec.expected : StripeRec :=
  { state := .expected, cause := none, slot := none, generation := none, method := none, donors := [], resume := 0 }

/-- A frame record taken at FRAME_OPEN (R3). -/
def FrameRec.opened (cfg : StreamConfig) (i : StreamIx) (number timecode : Word32) : FrameRec :=
  { stream := i, number := number, timecode := timecode, kind := none, state := .opened, ordinal := none,
    stripes := List.replicate cfg.stripes StripeRec.expected, damaged := 0, unresolved := cfg.stripes, outSeq := none,
    need := sectorNeed cfg.stripes cfg.stripeSize, stripeCount := cfg.stripes, stripeSize := cfg.stripeSize,
    note := none }

/-- A stripe at close: one still EXPECTED becomes DAMAGED with cause ABSENT and no slot (R11 step 1). -/
def StripeRec.close (st : StripeRec) : StripeRec :=
  if st.state = .expected then { st with state := .damaged, cause := some .absent, slot := none } else st

/-- The DAMAGED stripes of one cause. -/
def countCause (c : Cause) (sts : List StripeRec) : Nat :=
  (sts.filter fun st => st.state == .damaged && st.cause == some c).length

/-- A frame record at close, with its close ordinal (R4, R11 steps 1 to 4). -/
def FrameRec.close (f : FrameRec) (o : Word48) : FrameRec :=
  let sts := f.stripes.map StripeRec.close
  let d := (sts.filter fun st => st.state == .damaged).length
  { f with stripes := sts, damaged := d, ordinal := some o, unresolved := d,
           state := if d = 0 then .resolved else .closed }

namespace State

/-- The number of the OPEN frame of a stream's window, if it has one (R5). -/
def openNumber (s : State) (i : StreamIx) : Option Word32 :=
  ((s.stream i).window.find? fun f => f.state == .opened).map (·.number)

/-- A frame closes (R11): ABSENT stripes, the damage counts, the close ordinal, the repair queue and DAMAGE_RATE, and
the return of its predecessor's PARKED stripes. -/
def closeFrame (s : State) (i : StreamIx) (n : Word32) : State :=
  match s.frame i n with
  | none => s
  | some f =>
    let g := f.close s.engine.closeOrdinal
    let s1 := s.modFrame i n fun _ => g
    let s2 := ((s1.bumpBy i .damagedFlagged (BitVec.ofNat 32 (countCause .flagged g.stripes))).bumpBy i .damagedCorrupt
      (BitVec.ofNat 32 (countCause .corrupt g.stripes))).bumpBy i .damagedAbsent
      (BitVec.ofNat 32 (countCause .absent g.stripes))
    let s3 := s2.modEngine fun e => { e with closeOrdinal := e.closeOrdinal + 1 }
    let s4 :=
      if g.damaged = 0 then s3
      else (s3.enqueueFrame i n).occur .damageRate (streamId i) (BitVec.ofNat 32 g.damaged)
    match predecessorOf n (s4.stream i).window with
    | some p => s4.unparkFrame i p.number
    | none => s4

/-- Closes the stream's OPEN frame, if it has one. -/
def closeOpen (s : State) (i : StreamIx) : State :=
  match s.openNumber i with
  | some n => s.closeFrame i n
  | none => s

/-- The cadence timer starts (R94): position 0, the next expiry one period later. It stays STOPPED when the same piece of
work has halted the part (R93). -/
def startCadence (s : State) (i : StreamIx) : State :=
  s.modStream i fun r => { r with cadence := { r.cadence with position := 0, running := !s.monitor.halted } }

/-- A PRIMING stream whose window is full enters RUNNING and its cadence starts (R14). -/
def endPriming (s : State) (i : StreamIx) (cfg : StreamConfig) : State :=
  if (s.stream i).state = .priming ∧ (s.stream i).window.length = cfg.depth then
    (s.modStream i fun r => { r with state := .running }).startCadence i
  else s

/-- A refused FRAME_OPEN (R7 steps 2 and 5). -/
def refuseFrame (s : State) (i : StreamIx) (k : FaultKind) (number : Word32) : State :=
  (s.bump i .framesRefused).raise k (streamId i) number

/-- The gap of R7 step 4. -/
def countGap (s : State) (i : StreamIx) (number : Word32) : State :=
  match (s.stream i).lastNumber with
  | some last => s.bumpBy i .gapFrames (number - last - 1)
  | none => s

/-- A FRAME_OPEN whose number is in order: implicit close, numbering, room, acceptance (R7 steps 3 to 6, R14). -/
def admitFrame (s : State) (i : StreamIx) (cfg : StreamConfig) (number timecode : Word32) : State :=
  let s1 := s.closeOpen i
  let s2 := (s1.countGap i number).modStream i fun r => { r with lastNumber := some number }
  if (s2.stream i).window.length < cfg.depth ∧ s2.recordFree = true then
    let s3 := s2.modStream i fun r => { r with window := r.window ++ [FrameRec.opened cfg i number timecode] }
    ((s3.bump i .framesAccepted).endPriming i cfg).judgeFlow i
  else s2.refuseFrame i .overrun number

/-- A FRAME_OPEN unit at the Stream Table (R7). -/
def takeFrameOpen (s : State) (i : StreamIx) (number timecode : Word32) : State :=
  match (s.stream i).state.takesFrames, (s.stream i).config with
  | true, some cfg =>
    match (s.stream i).lastNumber with
    | some last =>
      if number ≤ last then s.refuseFrame i .sequence number else s.admitFrame i cfg number timecode
    | none => s.admitFrame i cfg number timecode
  | _, _ => s.stray i number

end State

/-- The stripe record after an arrival on slot `x` (R8's table, R9). -/
def StripeRec.arrived (st : StripeRec) (x : Slot) (verdict : Option Cause) : StripeRec :=
  match verdict with
  | none => { st with state := .sound, cause := none, slot := some x, generation := some 0 }
  | some c => { st with state := .damaged, cause := some c, slot := some x, generation := none }

namespace State

/-- A STRIPE that passed the five checks (R8, R9): a slot, the write, the judgement, and the old slot given up. -/
def storeStripe (s : State) (j : Job) (b : StripeBody) : State :=
  match s.askSlot j.stream with
  | (none, s1) => s1
  | (some x, s1) =>
    let s2 := s1.modStore (·.write x b.payload)
    (s2.releaseOld j).modStripe j (·.arrived x (judgePayload b))

/-- A STRIPE unit without the resend flag at the Stream Table (R8). -/
def takeStripeUnit (s : State) (i : StreamIx) (b : StripeBody) : State :=
  match (s.stream i).state.takesFrames, (s.frame i b.number) with
  | true, some f =>
    if f.state ≠ .opened then s.stray i b.number
    else
      match f.stripeAt b.index with
      | none => s.stray i b.number
      | some st =>
        if b.payload.length ≠ f.stripeSize then s.stray i b.number
        else if st.state = .sound then s.stray i b.number
        else s.storeStripe { stream := i, number := b.number, stripe := b.index } b
  | _, _ => s.stray i b.number

/-- A STRIPE unit with the resend flag (R10, R80): STRAY for a STOPPED stream, else matched to a context or late. -/
def takeResend (s : State) (i : StreamIx) (b : StripeBody) : State :=
  if (s.stream i).state = .stopped then s.stray i b.number
  else
    match s.awaiting { stream := i, number := b.number, stripe := b.index } with
    | some (c, busy) =>
      match busy.op with
      | .refetch tryNo left wait _ _ =>
        s.assessResend c busy tryNo left wait b.payload (judgePayload b).isNone
      | .neighbour _ _ _ | .blend _ _ _ _ | .verify _ => s.bump i .lateResends
    | none => s.bump i .lateResends

/-- A FRAME_CLOSE unit at the Stream Table (R12). -/
def takeFrameClose (s : State) (i : StreamIx) (number : Word32) : State :=
  match (s.stream i).state.takesFrames, s.frame i number with
  | true, some f => if f.state = .opened then s.closeFrame i number else s.stray i number
  | _, _ => s.stray i number

/-- A frame record returns to the pool: each stripe that names a slot gives up its hold, in ascending index (R3;
order: log 10). -/
def returnRecord (s : State) (f : FrameRec) : State := s.releaseAll (f.stripes.filterMap (·.slot))

end State

end Sys2Proof.Machine
end

