-- ==== Sys2Proof/Machine/ReturnPath.lean ====
section
/-! DEFINITION. The Return Path Transmitter: queueing replies, the arbiter of the four classes, and the rebuilding of
the flow set when the ingest link comes UP (R162 to R164, R19). -/

namespace Sys2Proof.Machine

namespace ReturnPath

/-- The unit the arbiter takes next and what is left: the first of the first non-empty class, in the order FLOW,
REFETCH_ASK, REPLY, NOTICE (R163). An ask whose sending begins still has its context waiting on it, since a withdrawn
one is removed (R164). -/
def next (r : ReturnPath) : Option (ReturnUnit × ReturnPath) :=
  match r.flowSet, r.asks, r.replies, r.outbox with
  | f :: rest, _, _, _ => some (.flow f, { r with flowSet := rest })
  | [], a :: rest, _, _ => some (.ask a true, { r with asks := rest })
  | [], [], q :: rest, _ => some (.reply q.reply, { r with replies := rest })
  | [], [], [], n :: rest => some (.notice n, { r with outbox := rest })
  | [], [], [], [] => none

/-- The immediate replies waiting unsent (R162). -/
def immediates (r : ReturnPath) : Nat := (r.replies.filter (·.immediate)).length

end ReturnPath

namespace State

/-- With no unit being sent and the link UP, the next unit begins, if there is one (R163; log 5). -/
def kick (s : State) : State :=
  match s.linkUp, s.ret.sending, s.ret.next with
  | true, none, some (u, r) => { s with ret := { r with sending := some u } }
  | _, _, _ => s

/-- Queues a reply in an immediate or a reserved place (R162). -/
def queueReply (s : State) (immediate : Bool) (tag : Word16) (a : Answer) : State :=
  { s with ret := { s.ret with
      replies := s.ret.replies ++ [{ immediate := immediate, reply := { tag := tag, answer := a } }] } }

/-- An immediate reply DONE (R154, R162). -/
def done (s : State) (tag : Word16) (r : Results) : State := s.queueReply true tag (.done r)

/-- An immediate reply REFUSED (R154, R162). -/
def refuse (s : State) (tag : Word16) (why : Reason) : State := s.queueReply true tag (.refused why)

/-- A deferred reply takes its command's reserved place (R159, R162). -/
def deferred (s : State) (tag : Word16) (a : Answer) : State := s.queueReply false tag a

/-- The flow set as R19 rebuilds it when the link comes UP: a PAUSE for every PAUSED stream, and a RESUME for every
FLOWING stream that had an unsent RESUME (order: log 29). -/
def rebuiltFlow (s : State) : List FlowUnit :=
  ((allStreams.filter fun i => (s.stream i).paused).map fun i => { stream := i, pause := true }) ++
  ((allStreams.filter fun i =>
      !(s.stream i).paused && s.ret.flowSet.any fun f => f.stream == i && !f.pause).map
    fun i => { stream := i, pause := false })

/-- A return unit has ended (R163, R164): a transmitted ask is told to its context, and nothing is being sent. -/
def unitSent (s : State) : State :=
  let s1 := { s with ret := { s.ret with sending := none } }
  match s.ret.sending with
  | some (.ask a true) => s1.askTransmitted a
  | some (.ask _ false) => s1
  | some (.flow _) | some (.reply _) | some (.notice _) => s1
  | none => s

end State

end Sys2Proof.Machine
end

