-- ==== Sys2Proof/Machine/Drives.lean ====
section
/-! DEFINITION. The Drive Table: conditions and news, silence and misses, leaving service and spans, bindings, the
dispatch answer, the burn queues (R126, R127, R137 to R153). -/

namespace Sys2Proof.Machine

/-- News as it is applied (R139): MEDIA_READY with capacity 0 is MEDIA_FULL. -/
def News.normal (n : News) : News :=
  match n with
  | .mediaReady c => if c = 0 then .mediaFull else .mediaReady c
  | .nothing => .nothing
  | .mediaGone => .mediaGone
  | .mediaFull => .mediaFull

/-- The remaining capacity after news (R139). -/
def News.remaining (n : News) (before : Option Word32) : Option Word32 :=
  match n with
  | .mediaReady c => some c
  | .mediaFull => some 0
  | .mediaGone => none
  | .nothing => before

/-- The condition after news, by the condition and the remaining capacity held before it (R139). An ABSENT drive takes
its condition from the news alone. -/
def News.condition (n : News) (before : Condition) (held : Option Word32) : Condition :=
  match before, n with
  | .held, _ => .held
  | .fault, _ => .fault
  | c, .nothing => c
  | .full, .mediaReady c => if (held.getD 0) < c then .ready else .full
  | .absent, .mediaReady _ | .noMedia, .mediaReady _ | .ready, .mediaReady _ => .ready
  | .absent, .mediaFull | .noMedia, .mediaFull | .ready, .mediaFull | .full, .mediaFull => .full
  | .absent, .mediaGone | .noMedia, .mediaGone | .ready, .mediaGone | .full, .mediaGone => .noMedia

/-- The condition at the end of a release, judged from the medium (R150). -/
def conditionOfMedium (remaining : Option Word32) : Condition :=
  match remaining with
  | none => .noMedia
  | some r => if r = 0 then .full else .ready

/-- The conditions in which the head frame returns to WAITING_SPACE (R120). -/
def Condition.stopsTransfer : Condition → Bool
  | .absent => true | .noMedia => true | .held => true | .fault => true | .ready => false | .full => false

/-- A change into one of these is a drive's leaving service (R141). -/
def Condition.outOfService : Condition → Bool
  | .absent => true | .noMedia => true | .fault => true | .held => false | .ready => false | .full => false

/-- The output sequence of a queued frame. -/
def FrameRec.seq (f : FrameRec) : Word32 := f.outSeq.getD 0

namespace State

/-! ### Burn queues (R138) -/

/-- A frame joins the tail of a burn queue, and the committed capacity rises (R138). The head of a queue that was empty
is WAITING_SPACE (R120). -/
def appendFrame (s : State) (a : DriveIx) (f : FrameRec) : State :=
  s.modDrive a fun d =>
    { d with queue := d.queue ++ [f], committed := d.committed + f.need,
             transfer := if d.queue.isEmpty then .waitingSpace else d.transfer,
             carry := if d.queue.isEmpty then [] else d.carry }

/-- The head frame leaves a burn queue, and the committed capacity falls (R138); the next frame, if any, becomes the
head in WAITING_SPACE, and nothing is owed for it. -/
def dropHead (s : State) (a : DriveIx) : State :=
  s.modDrive a fun d =>
    { d with queue := d.queue.tail, committed := d.committed - (d.queue.head?.map (·.need)).getD 0,
             transfer := .waitingSpace, carry := [], abandonOwed := false, withdrawn := false }

/-- The head frame is discarded (R133): it leaves the queue and its record returns to the pool. -/
def discardHead (s : State) (a : DriveIx) : State :=
  match (s.drive a).queue.head? with
  | some f => (s.dropHead a).returnRecord f
  | none => s

/-- The head frame returns to WAITING_SPACE (R120): bytes kept for its next WRITE unit are gone. -/
def headWaiting (s : State) (a : DriveIx) : State :=
  s.modDrive a fun d => { d with transfer := .waitingSpace, carry := [] }

/-! ### Relays (R134) -/

/-- A relay ends, and the deferred PASS_TO_DRIVE reply is queued (R134, R151). -/
def endRelay (s : State) (a : DriveIx) (answer : Answer) : State :=
  match (s.drive a).relay with
  | .none => s
  | .pending tag _ => (s.modDrive a fun d => { d with relay := .none }).deferred tag answer
  | .outstanding tag => (s.modDrive a fun d => { d with relay := .none }).deferred tag answer

/-! ### Roles (R142, R145, R146) -/

/-- The drive bound ACTIVE for a stream. -/
def activeOf (s : State) (i : StreamIx) : Option DriveIx := allDrives.find? fun a => (s.drive a).binding == .active i

/-- The drive bound STANDBY for a stream. -/
def standbyOf (s : State) (i : StreamIx) : Option DriveIx := allDrives.find? fun a => (s.drive a).binding == .standby i

/-- The roles of a stream's two drives are exchanged (R145, R146). -/
def swapRoles (s : State) (i : StreamIx) (old new : DriveIx) : State :=
  (s.modDrive new fun d => { d with binding := .active i }).modDrive old fun d => { d with binding := .standby i }

/-- The tests of R146 step 2 on the head frame of the leaving drive. A frame owed an ABANDON is never moved. -/
def mayMove (s : State) (old new : DriveIx) (f : FrameRec) : Bool :=
  !(s.drive old).abandonOwed && !(s.drive old).withdrawn &&
    decide ((s.drive new).queue.length < Config.burnQueueDepth) &&
    decide (f.need ≤ (s.drive new).uncommitted) &&
    (match (s.drive new).queue.getLast? with
     | none => true
     | some t => decide (t.seq < f.seq))

/-- Frames move from the head of the leaving drive's queue to the tail of the new ACTIVE's, until one fails (R146 step
2). A queue holds at most four frames. -/
def moveFrames : Nat → DriveIx → DriveIx → State → State
  | 0, _, _, s => s
  | n + 1, old, new, s =>
    match (s.drive old).queue.head? with
    | none => s
    | some f =>
      if s.mayMove old new f then moveFrames n old new ((s.dropHead old).appendFrame new f) else s

/-- A drive has left service (R146, R147). -/
def leaveService (s : State) (a : DriveIx) : State :=
  match (s.drive a).binding with
  | .active i =>
    match s.standbyOf i with
    | some b =>
      if (s.drive b).condition = .ready then
        moveFrames Config.burnQueueDepth a b
          ((s.swapRoles i a b).occur .span (streamId i) (BitVec.ofNat 32 (driveAddress b)))
      else s
    | none => s
  | .standby _ => s
  | .none => s

/-! ### Conditions (R139 to R141) -/

/-- A drive leaves HELD: its relay ends without an answer (R134). -/
def leftHeld (s : State) (a : DriveIx) (before c : Condition) : State :=
  if before = .held ∧ c ≠ .held then s.endRelay a (.refused .noAnswer) else s

/-- A drive enters FULL from another condition: MEDIA_NEEDED occurs (R140). -/
def enteredFull (s : State) (a : DriveIx) (before c : Condition) : State :=
  if c = .full ∧ before ≠ .full then
    s.occur .mediaNeeded (driveAddress a) ((s.drive a).remaining.getD 0)
  else s

/-- A change of condition after which the head frame is asked for space again (R120, R139): into a condition that stops
frames, or into READY from NO_MEDIA or FULL, SENDING included; a SPACE_OK that brings that change grants the space after it
(`grantSpace`; log 33). -/
def renewsAsk (before c : Condition) : Bool :=
  c.stopsTransfer || (c == .ready && (before == .noMedia || before == .full))

/-- A drive's condition is set, with all that follows from the change (R120, R134, R139, R140, R141, R146, R147). An ABSENT drive
that returns as NO_MEDIA leaves service by that change, and spans if it is bound ACTIVE and a READY STANDBY stands by, though
R141 has a returning drive keep its queue and its binding: the model's choice (log 35). -/
def setCondition (s : State) (a : DriveIx) (c : Condition) : State :=
  let before := (s.drive a).condition
  let s1 := ((s.modDrive a fun d => { d with condition := c }).leftHeld a before c).enteredFull a before c
  let s2 := if renewsAsk before c then s1.headWaiting a else s1
  if c.outOfService && before != c then s2.leaveService a else s2

/-- News is applied to a drive's record (R139). -/
def applyNews (s : State) (a : DriveIx) (news : News) : State :=
  let d := s.drive a
  (s.modDrive a fun d => { d with remaining := news.normal.remaining d.remaining }).setCondition a
    (news.normal.condition d.condition d.remaining)

/-- The answer that ends a pending release (R150). -/
def endRelease (s : State) (a : DriveIx) (news : News) : State :=
  let s1 := s.modDrive a fun d =>
    { d with releasePending := false, remaining := news.normal.remaining d.remaining }
  s1.setCondition a (conditionOfMedium (s1.drive a).remaining)

/-- A silent drive's record (R127, R141). -/
def goAbsent (s : State) (a : DriveIx) : State :=
  s.modDrive a fun d => { d with condition := .absent, remaining := none, misses := 0 }

/-- A drive's requested ask and its pending release end (R127, R141). -/
def endAsks (s : State) (a : DriveIx) : State :=
  s.modDrive a fun d => { d with statusRequested := false, releasePending := false }

/-- An ABSENT drive owes no ABANDON: the frame it was or would be owed for is discarded (R127, R133). -/
def discardOwed (s : State) (a : DriveIx) : State :=
  if (s.drive a).abandonOwed || (s.drive a).withdrawn then s.discardHead a else s

/-- A third consecutive miss declares the drive silent (R127, R141). -/
def silent (s : State) (a : DriveIx) : State :=
  let s1 := ((s.goAbsent a).raise .driveSilent (driveAddress a) 3).occur .driveChange (driveAddress a) 0
  ((((s1.headWaiting a).endAsks a).discardOwed a).endRelay a (.refused .noAnswer)).leaveService a

/-- A missed answer is counted (R126): a miss of an ABSENT address is none. -/
def countMiss (s : State) (a : DriveIx) : State :=
  if (s.drive a).condition = .absent then s
  else
    let s1 := s.modDrive a fun d => { d with misses := d.misses + 1, missCount := d.missCount + 1 }
    if Config.silentMisses ≤ (s1.drive a).misses then s1.silent a else s1

/-- An answer taken sets the consecutive misses to 0 (R126). -/
def answered (s : State) (a : DriveIx) : State := s.modDrive a fun d => { d with misses := 0 }

/-- A PRESENCE_ANSWER's news, never NONE (R128). -/
def presenceNews (n : News) : News :=
  match n with
  | .nothing => .mediaGone
  | .mediaReady c => .mediaReady c
  | .mediaGone => .mediaGone
  | .mediaFull => .mediaFull

/-- A PRESENCE_ANSWER is taken (R128, R130): an ABSENT drive comes back, and DRIVE_CHANGE occurs. -/
def presenceTaken (s : State) (a : DriveIx) (n : News) : State :=
  let s1 := (s.answered a).applyNews a (presenceNews n)
  if (s.drive a).condition = .absent then s1.occur .driveChange (driveAddress a) 1 else s1

/-! ### Binding (R142, R143) -/

/-- A named drive is in use (R142 check 1): bound to another stream, or with a frame in its queue. -/
def driveInUse (s : State) (i : StreamIx) (a : DriveIx) : Bool :=
  (match (s.drive a).binding.stream with
   | some j => j != i
   | none => false) || !(s.drive a).queue.isEmpty

/-- The choice of ACTIVE and STANDBY at START_STREAM, or the reason of its refusal (R142). -/
def chooseDrives (s : State) (i : StreamIx) (cfg : StreamConfig) : Except Reason (DriveIx × Option DriveIx) :=
  if s.driveInUse i cfg.primary || (cfg.partner.map (s.driveInUse i)).getD false then .error .inUse
  else if (s.drive cfg.primary).condition = .ready then .ok (cfg.primary, cfg.partner)
  else
    match cfg.partner with
    | some b => if (s.drive b).condition = .ready then .ok (b, some cfg.primary) else .error .noDrive
    | none => .error .noDrive

/-- Both bindings are made (R142). -/
def bindDrives (s : State) (i : StreamIx) (active : DriveIx) (standby : Option DriveIx) : State :=
  let s1 := s.modDrive active fun d => { d with binding := .active i }
  match standby with
  | some b => s1.modDrive b fun d => { d with binding := .standby i }
  | none => s1

/-- A stream's bindings are released (R143). -/
def unbindDrives (s : State) (i : StreamIx) : State :=
  allDrives.foldl (fun s a =>
    if (s.drive a).binding.stream = some i then s.modDrive a fun d => { d with binding := .none } else s) s

end State

/-! ### The dispatch answer (R144, R145) -/

/-- The Drive Table's answer to a request for a target drive (R98). -/
inductive TargetAnswer where
  | take (a : DriveIx)
  | wait
  | noDrive
deriving DecidableEq, Repr

namespace State

/-- TAKE or WAIT of a drive that is READY with room, by its queue (R144). -/
def takeOrWait (s : State) (a : DriveIx) : TargetAnswer :=
  if (s.drive a).queue.length < Config.burnQueueDepth then .take a else .wait

/-- A drive is READY and has uncommitted capacity for a frame (R144). -/
def readyFor (s : State) (a : DriveIx) (need : Nat) : Bool :=
  (s.drive a).condition == .ready && decide (need ≤ (s.drive a).uncommitted)

/-- On a capacity failure the drive becomes FULL (R140, R144, R145). -/
def capacityFailed (s : State) (a : DriveIx) (before : Condition) : State :=
  if before = .ready then s.setCondition a .full else s

/-- A span at dispatch (R145). -/
def spanned (s : State) (i : StreamIx) (a b : DriveIx) (before : Condition) : State :=
  ((s.swapRoles i a b).capacityFailed a before).occur .span (streamId i) (BitVec.ofNat 32 (driveAddress b))

/-- A request for a target drive (R144), with the span it may make (R145). -/
def askDrive (s : State) (i : StreamIx) (need : Nat) : TargetAnswer × State :=
  match s.activeOf i with
  | none => (.noDrive, s)
  | some a =>
    if s.readyFor a need then (s.takeOrWait a, s)
    else
      let before := (s.drive a).condition
      match s.standbyOf i with
      | some b =>
        if s.readyFor b need then ((s.spanned i a b before).takeOrWait b, s.spanned i a b before)
        else (.noDrive, s.capacityFailed a before)
      | none => (.noDrive, s.capacityFailed a before)

end State

end Sys2Proof.Machine
end

