-- ==== Sys2Proof/Machine/Wire.lean ====
section
/-! DEFINITION. The bytes of every unit the part sends, on the return direction and on the burn link, and of the note
sector (12 "Unit Layouts"). The packing choices where the layouts leave one open are log 15. -/

namespace Sys2Proof.Machine

/-! ### Codes (12 "Codes") -/

/-- A small number as one byte. -/
def byteOf (n : Nat) : Byte := BitVec.ofNat 8 n

/-- OFF and ON, NO and YES, and the other two-valued settings. -/
def flagCode (b : Bool) : Byte := if b then 1 else 0

def StreamState.code : StreamState → Byte
  | .unconfigured => 0 | .configured => 1 | .priming => 2 | .running => 3 | .stalled => 4 | .draining => 5
  | .stopped => 6

def FrameState.code : FrameState → Byte
  | .opened => 0 | .closed => 1 | .resolved => 2 | .queuedForBurn => 3

def Cause.code : Cause → Byte
  | .flagged => 1 | .corrupt => 2 | .absent => 3

def Method.code : Method → Byte
  | .neighbour => 1 | .previous => 2 | .blend => 3 | .refetch => 4 | .fallback => 5 | .mark => 6

def NoteOutcome.code : NoteOutcome → Byte
  | .repaired => 1 | .marked => 2 | .storeFlaw => 3

def FrameKind.code : FrameKind → Byte
  | .normal => 1 | .forced => 2 | .fill => 3

def Condition.code : Condition → Byte
  | .absent => 0 | .noMedia => 1 | .ready => 2 | .full => 3 | .held => 4 | .fault => 5

def FaultAction.code : FaultAction → Byte
  | .record => 0 | .notify => 1 | .stop => 2 | .halt => 3

def FaultKind.code (k : FaultKind) : Byte := byteOf (k.ix.val + 1)

def WatchCondition.code : WatchCondition → Byte
  | .damageRate => 1 | .forced => 2 | .fill => 3 | .span => 4 | .stall => 5 | .refetchExhausted => 6
  | .mediaNeeded => 7 | .driveChange => 8

def Reason.code : Reason → Byte
  | .unknownCommand => 1 | .badParameter => 2 | .wrongState => 3 | .busy => 4 | .inUse => 5 | .noDrive => 6
  | .planMissing => 7 | .planInUse => 8 | .halted => 9 | .starting => 10 | .aborted => 11 | .noAnswer => 12

def ReadPurpose.code : ReadPurpose → Byte
  | .verify => 1 | .compose => 2 | .burn => 3

def ReadResult.code : ReadResult → Byte
  | .clean => 0 | .corrected => 1 | .flawed => 2

def RateFactor.code (f : RateFactor) : Byte := byteOf f.toNat

def TransferMode.code : TransferMode → Byte
  | .frame => 0 | .block => 1

def Fallback.code : Fallback → Byte
  | .reference => 0 | .mark => 1

def RelayState.code : RelayState → Byte
  | .none => 0 | .pending => 1 | .outstanding => 2

def Transfer.code : Transfer → Byte
  | .waitingSpace => 0 | .spaceAsked => 1 | .sending _ => 2 | .awaitingDone => 3

/-- A field that may be absent: a presence byte, then its bytes, or zeros of its width. -/
def optField {α : Type} (width : Nat) (enc : α → List Byte) : Option α → List Byte
  | some x => 1 :: enc x
  | none => 0 :: zeroBytes width

/-- A list: one count byte, then its items. -/
def listField {α : Type} (enc : α → List Byte) (xs : List α) : List Byte := byteOf xs.length :: xs.flatMap enc

/-- A slot number or a small count in two bytes. -/
def le16Of (n : Nat) : List Byte := le16Bytes (BitVec.ofNat 16 n)

/-- A capacity, a sector need or a duration in four bytes. -/
def le32Of (n : Nat) : List Byte := le32Bytes (BitVec.ofNat 32 n)

/-! ### The repair note (12 "The repair note") -/

/-- The first and the second donor frame of an entry, zero when there is none. -/
def donorBytes (donors : List Word32) : List Byte := le32Bytes (donors.getD 0 0) ++ le32Bytes (donors.getD 1 0)

/-- One entry: 16 bytes. -/
def NoteEntry.bytes (e : NoteEntry) : List Byte :=
  [byteOf e.index, (e.cause.map Cause.code).getD 0, e.outcome.code, (e.method.map Method.code).getD 0,
   byteOf e.donors.length, match e.generation with
     | some g => byteOf g
     | none => 0xFF#8,
   0, 0] ++ donorBytes e.donors

/-- The header: 32 bytes. -/
def RepairNote.header (n : RepairNote) : List Byte :=
  [byteOf (streamId n.stream), n.kind.code, byteOf n.stripes, byteOf n.entries.length] ++ le32Bytes n.outSeq ++
    le32Bytes n.number ++ le32Bytes n.timecode ++ le16Of (32 + 16 * n.entries.length) ++ zeroBytes 14

/-- The note padded with zero bytes to one sector (R124). -/
def RepairNote.sector (n : RepairNote) : List Byte :=
  let bytes := n.header ++ n.entries.flatMap NoteEntry.bytes
  bytes ++ zeroBytes (Config.sectorBytes - bytes.length)

/-! ### Units on the burn link -/

/-- The unit kind of a unit sent by the part. -/
def BurnUnit.kind : BurnUnit → Byte
  | .presenceAsk => 0x11 | .statusAsk => 0x12 | .spaceAsk _ _ _ => 0x13 | .write _ _ _ _ _ => 0x14
  | .note _ _ _ => 0x15 | .abandon _ _ => 0x16 | .driveCommand _ => 0x17

/-- The body of a unit sent by the part. -/
def BurnUnit.body : BurnUnit → List Byte
  | .presenceAsk => []
  | .statusAsk => []
  | .spaceAsk i q need => byteOf (streamId i) :: (le32Bytes q ++ le32Of need)
  | .write i q first count data => byteOf (streamId i) :: (le32Bytes q ++ le32Of first ++ byteOf count :: data)
  | .note i q sector => byteOf (streamId i) :: (le32Bytes q ++ sector)
  | .abandon i q => byteOf (streamId i) :: le32Bytes q
  | .driveCommand bytes => listField (fun b => [b]) bytes

/-- The whole unit, with correct length and check (R178). -/
def BurnUnit.bytes (u : BurnUnit) (address : DriveIx) (factor : RateFactor) : List Byte :=
  [u.kind, byteOf (driveAddress address), factor.code, 0] ++ le16Of u.body.length ++ u.body ++
    le16Bytes (burnCheck u.kind (byteOf (driveAddress address)) factor.code 0 (BitVec.ofNat 16 u.body.length) u.body)

/-! ### Results (12 "Parameters and results") -/

/-- The configuration's fields in the order of R2's table: 15 bytes. -/
def StreamConfig.bytes (c : StreamConfig) : List Byte :=
  [byteOf c.stripes] ++ le16Of c.stripeSize ++
  [byteOf c.planFlagged.val, byteOf c.planCorrupt.val, byteOf c.planAbsent.val, byteOf c.depth] ++ le16Of c.period ++
  [c.pattern, byteOf (driveAddress c.primary), byteOf ((c.partner.map driveAddress).getD 0), byteOf c.genLimit,
   c.fallback.code, flagCode !c.fillAllowed]

/-- STREAM_STATUS (R22). -/
def StreamReport.bytes (r : StreamReport) : List Byte :=
  r.state.code :: optField 15 StreamConfig.bytes r.config ++
  [flagCode r.paused, flagCode r.occupancyReason, byteOf r.suspensions] ++
  listField (fun w : WindowItem =>
    le32Bytes w.number ++ [w.state.code, byteOf w.damaged, byteOf w.unresolved]) r.window ++
  optField 4 le32Bytes r.lastNumber ++ optField 4 le32Bytes r.lastDispatched ++ le32Bytes r.nextSeq ++
  [flagCode r.stopOutstanding] ++ r.counters.flatMap le32Bytes

/-- STORE_STATUS (R31). The holder count and the free-list flag of the slot asked for share one presence byte (the model's
choice, log 15). -/
def StoreReport.bytes (r : StoreReport) : List Byte :=
  le16Of r.free ++ le16Of r.inUse ++ optField 2 (fun x : Slot => le16Of x.val) r.head ++ [flagCode r.correction] ++
  optField 4 (fun e : LogEvent => le16Of e.slot.val ++ [e.purpose.code, e.result.code]) r.lastEvent ++
  le16Bytes r.corrected ++ le16Bytes r.flawed ++
  optField 3 (fun p : Nat × Bool => le16Of p.1 ++ [flagCode p.2]) r.slot

/-- One way of a directory set (R51): one byte, which is both the mark that the entry is valid and the presence byte of its six
fields together, then the fields' 15 bytes, zero for an invalid entry (the model's choice, log 15). -/
def wayBytes (w : Option DirEntry) : List Byte :=
  optField 15 (fun e : DirEntry => [byteOf (streamId e.stream), byteOf e.stripe] ++ le32Bytes e.number ++
    [byteOf e.generation] ++ le16Of e.slot.val ++ le48Bytes e.ordinal) w

/-- READ_DIRECTORY (R51). -/
def DirectoryReport.bytes (r : DirectoryReport) : List Byte :=
  le16Of r.valid ++ le48Bytes r.ordinal ++ le32Bytes r.evictions ++ le32Bytes r.flaws ++
  listField (fun x : DirSet => wayBytes x.way0 ++ wayBytes x.way1) r.sets

/-- A plan step: method, on-failure action, first and second parameter (R53). -/
def PlanStep.bytes (st : PlanStep) : List Byte :=
  let onFail : Byte := match st.onFail with
    | .next => 0
    | .endPlan => 1
  match st.method with
  | .neighbour e => [1, onFail, flagCode e, 0]
  | .previous age => [2, onFail, byteOf age, 0]
  | .blend age => [3, onFail, byteOf age, 0]
  | .refetch tries wait => [4, onFail, byteOf tries, byteOf wait]
  | .mark => [6, onFail, 0, 0]

/-- READ_PLAN (R56). -/
def planBytes (plan : Option (List PlanStep)) (users : List PlanUser) : List Byte :=
  flagCode plan.isSome :: listField PlanStep.bytes (plan.getD []) ++
  listField (fun u : PlanUser => byteOf (streamId u.stream) :: listField (fun c : Cause => [c.code]) u.causes) users

/-- One busy context of ENGINE_STATUS (R91). The fields of a REFETCH step are there for an AWAITING_RESEND context alone,
with no presence byte and no bytes otherwise (the model's choice, log 15). -/
def ContextReport.bytes (c : ContextReport) : List Byte :=
  [if c.composing then 1 else 2, byteOf (streamId c.job.stream)] ++ le32Bytes c.job.number ++
  [byteOf c.job.stripe, byteOf c.plan, byteOf c.step, c.method.code] ++
  listField (fun x : Slot => le16Of x.val) c.slots ++
  (match c.refetch with
   | some r => [byteOf r.tryNo, byteOf r.triesLeft, flagCode r.sent] ++ optField 4 le32Of r.timeLeft
   | none => [])

/-- ENGINE_STATUS (R91). -/
def EngineReport.bytes (r : EngineReport) : List Byte :=
  r.contexts.flatMap (fun c => match c with
    | some b => b.bytes
    | none => [0]) ++
  [byteOf r.queueLength] ++
  optField 12 (fun q : QueueReport => byteOf (streamId q.stream) :: (le32Bytes q.number ++ le48Bytes q.ordinal ++
    [byteOf q.damaged])) r.first ++
  [byteOf r.passedOver] ++ le16Of r.parked ++ le48Bytes r.closeOrdinal

/-- SET_SLOT_PATTERN (R96). -/
def CadenceReport.bytes (r : CadenceReport) : List Byte :=
  [r.pattern.getD 0, byteOf r.position.val] ++ optField 1 (fun p : BitVec 8 => [p]) r.pendingPattern ++
  [flagCode r.running]

/-- One address of a SURVEY reply (R131). -/
def SurveyItem.bytes (x : SurveyItem) : List Byte :=
  x.condition.code :: optField 8 (fun p : Word32 × Nat => le32Bytes p.1 ++ le32Of p.2) x.capacity

/-- The binding and its stream. The stream of a binding none is one zero byte with no presence byte before it: the binding's code
says that it is absent (the model's choice, log 15). -/
def Binding.bytes : Binding → List Byte
  | .none => [0, 0]
  | .active i => [1, byteOf (streamId i)]
  | .standby i => [2, byteOf (streamId i)]

/-- One drive of a DRIVE_STATUS reply (R152). The mark of a frame owed an ABANDON, which only a head can be, is one byte after the
head's transfer field, sent for an empty queue too, not a field of each frame's item (the model's choice, log 15). -/
def DriveReport.bytes (d : DriveReport) : List Byte :=
  d.condition.code :: optField 4 le32Bytes d.remaining ++ le32Of d.committed ++ le32Of d.uncommitted ++
  d.binding.bytes ++
  listField (fun f : BurnItem => byteOf (streamId f.stream) :: (le32Bytes f.outSeq ++ [f.kind.code] ++
    le32Of f.need ++ [byteOf f.entryCount])) d.queue ++
  optField 5 (fun t : Transfer => t.code :: (match t with
    | .sending k => le32Of k
    | .waitingSpace | .spaceAsked | .awaitingDone => le32Of 0)) d.transfer ++
  [flagCode d.abandonOwed, flagCode d.releasePending, d.relay.code, byteOf d.misses] ++ le32Bytes d.framesWritten ++
  le32Bytes d.spaceRefusals ++ le32Bytes d.missCount

/-- A watch in a READ_FAULTS reply (R176): its state, and the fields of one that is not FREE. -/
def watchBytes (w : Option Booking) : List Byte :=
  match w with
  | none => [0]
  | some b =>
    [if b.fired then 2 else 1, b.condition.code, byteOf b.scope] ++ optField 1 (fun t : Nat => [byteOf t]) b.threshold ++
    [flagCode b.every, flagCode b.suspend] ++ le24Bytes b.tag ++
    optField 1 (fun i : StreamIx => [byteOf (streamId i)]) b.suspension

/-- READ_FAULTS (R176). -/
def FaultsReport.bytes (r : FaultsReport) : List Byte :=
  flagCode r.halted :: r.faults.flatMap (fun e => flagCode e.pending :: (le16Bytes e.count ++
    optField 1 (fun n : Nat => [byteOf n]) e.firstScope ++ [e.action.code])) ++
  [byteOf r.notices] ++ r.watches.flatMap watchBytes

/-- IDENTIFY (R160). 12 names no width for the revision: it is sent in one byte, as a code is (the model's choice, log 15). -/
def identifyBytes (halted : Bool) : List Byte :=
  le16Bytes Config.vendorCode ++ le16Bytes Config.partCode ++ [1, flagCode halted, 12, 8] ++ le16Of 16384 ++
  le16Of 512 ++ [96, 16, 4, 16]

/-- The results of a reply. The eight items of SURVEY are sent without a count byte, as the four contexts of ENGINE_STATUS are,
their number being fixed by the rule; DRIVE_STATUS sends its drives as a list: both are the model's choice (log 15). -/
def Results.bytes : Results → List Byte
  | .empty => []
  | .streamStatus r => r.bytes
  | .setStore before => [flagCode before]
  | .storeStatus r => r.bytes
  | .purged n => le16Of n
  | .directory r => r.bytes
  | .loadPlan wasLoaded => [flagCode wasLoaded]
  | .readPlan plan users => planBytes plan users
  | .engine r => r.bytes
  | .slotPattern r => r.bytes
  | .setLink factor mode => [factor.code, mode.code]
  | .survey drives => drives.flatMap SurveyItem.bytes
  | .driveStatus drives => listField DriveReport.bytes drives
  | .holdDrive wasHeld before => [flagCode wasHeld, before.code]
  | .driveBytes bytes => listField (fun b => [b]) bytes
  | .watch fired suspension =>
    (if fired then 2 else 1) :: optField 1 (fun i : StreamIx => [byteOf (streamId i)]) suspension
  | .faults r => r.bytes
  | .clearedCounts counts => listField le16Bytes counts
  | .formerActions actions => listField (fun a : FaultAction => [a.code]) actions
  | .identify halted => identifyBytes halted
  | .resetPart wasHalted => [flagCode wasHalted]

/-! ### Units toward the ingest server -/

/-- The unit kind, the stream field and the body of a unit on the return direction. -/
def ReturnUnit.parts : ReturnUnit → Byte × Byte × List Byte
  | .reply r =>
    (0x81, 0, le16Bytes r.tag ++ (match r.answer with
      | .done res => [0, 0] ++ res.bytes
      | .refused why => [1, why.code]))
  | .flow f => (0x82, byteOf (streamId f.stream), [if f.pause then 0 else 1])
  | .ask a _ => (0x83, byteOf (streamId a.job.stream),
      le32Bytes a.job.number ++ [byteOf a.job.stripe, byteOf a.tryNo])
  | .notice n =>
    (0x84, 0, (match n.source with
      | .watch id tag => [0, byteOf id.val, byteOf n.scope] ++ le24Bytes tag
      | .fault k => [1, k.code, byteOf n.scope] ++ zeroBytes 3) ++ le32Bytes n.detail)

/-- The whole unit, with correct length and check (R178). -/
def ReturnUnit.bytes (u : ReturnUnit) : List Byte :=
  [u.parts.1, u.parts.2.1] ++ le16Of u.parts.2.2.length ++ u.parts.2.2 ++
    le16Bytes (ingestCheck u.parts.1 u.parts.2.1 (BitVec.ofNat 16 u.parts.2.2.length) u.parts.2.2)

end Sys2Proof.Machine
end

