-- ==== Sys2Proof/Machine/BurnLink.lean ====
section
/-! DEFINITION. The Burn Link Controller: turns, the frame exchange, answers and misses, polling and surveys, withdrawing
frames, relays, and what RESET_PART makes of the link (R114 to R136). -/

namespace Sys2Proof.Machine

namespace State

/-! ### Units and exchanges -/

/-- An exchange begins with a unit to a drive, at the factor in force (R114, R115). -/
def startUnit (s : State) (a : DriveIx) (p : Purpose) (u : BurnUnit) : State :=
  s.modBurn fun b => { b with exchange := some { drive := a, purpose := p, factor := b.factor, phase := .sending u } }

/-- The phase of the exchange in flight changes. -/
def setPhase (s : State) (p : Phase) : State :=
  s.modBurn fun b => { b with exchange := b.exchange.map fun e => { e with phase := p } }

/-- No exchange is in flight. -/
def clearExchange (s : State) : State := s.modBurn fun b => { b with exchange := none }

/-! ### Abandoning (R133) -/

/-- The ABANDON for a drive's head frame begins (R133). -/
def startAbandon (s : State) (a : DriveIx) : State :=
  match (s.drive a).queue.head? with
  | some f => s.startUnit a .abandon (.abandon f.stream f.seq)
  | none => s

/-- A withdrawn head frame is now owed an ABANDON (R133). -/
def oweAbandon (s : State) (a : DriveIx) : State :=
  s.modDrive a fun d => { d with abandonOwed := true, withdrawn := false }

/-- A frame turn ends (R116); in FRAME mode an ABANDON owed for the frame is sent straight on (R133), unless the part is
HALTED (R135). -/
def endTurn (s : State) (a : DriveIx) : State :=
  let s1 := s.clearExchange
  if (s1.drive a).abandonOwed && s1.burn.mode == .frame && !s1.monitor.halted then s1.startAbandon a else s1

/-! ### Frame data (R122, R123) -/

end State

/-- The stripes whose first byte lies in data sectors `first` to `first + count − 1` (R123), each waiting for its read,
or blank at once when it has no slot (R122). -/
def readParts (f : FrameRec) (first count : Nat) : List ReadPart :=
  (f.stripes.zipIdx.filter fun p =>
    decide (Config.sectorBytes * first ≤ p.2 * f.stripeSize) &&
      decide (p.2 * f.stripeSize < Config.sectorBytes * (first + count))).map fun p =>
    { stripe := p.2, slot := p.1.slot,
      data := match p.1.slot with
        | some _ => none
        | none => some (zeroBytes f.stripeSize) }

/-- Every read of a WRITE unit is complete (R123). -/
def partsDone (parts : List ReadPart) : Bool := parts.all fun p => p.data.isSome

/-- The bytes on hand for a WRITE unit: those kept from the reads of the unit before, then those of its own reads. -/
def unitData (carry : List Byte) (parts : List ReadPart) : List Byte := carry ++ parts.flatMap fun p => p.data.getD []

/-- The data of a WRITE unit of `count` sectors: the first bytes on hand, padded with zero bytes (R122). -/
def sectorData (count : Nat) (onHand : List Byte) : List Byte :=
  let n := Config.sectorBytes * count
  onHand.take n ++ zeroBytes (n - onHand.length)

/-- A read part with its data. -/
def ReadPart.filled (p : ReadPart) (stripe : Nat) (data : List Byte) : ReadPart :=
  if p.stripe = stripe then { p with data := some data } else p

/-- Puts an entry at its index position (R107, R123). -/
def insertEntry (e : NoteEntry) : List NoteEntry → List NoteEntry
  | [] => [e]
  | x :: t => if e.index < x.index then e :: x :: t else x :: insertEntry e t

/-- Marks the entry of a stripe STORE_FLAW, adding one when it has none (R123). -/
def flawEntry (k : Nat) (entries : List NoteEntry) : List NoteEntry :=
  if entries.any fun e => e.index == k then
    entries.map fun e => if e.index = k then { e with outcome := .storeFlaw } else e
  else
    insertEntry { index := k, cause := none, outcome := .storeFlaw, method := none, donors := [],
                  generation := some 0 } entries

namespace State

/-- The note of a drive's head frame takes a STORE_FLAW mark (R123). -/
def markFlaw (s : State) (a : DriveIx) (k : Nat) : State :=
  s.modDrive a fun d =>
    match d.queue with
    | [] => d
    | f :: rest =>
      { d with queue :=
          { f with note := f.note.map fun n => { n with entries := flawEntry k n.entries } } :: rest }

/-- The WRITE unit begins, its data all read; the bytes over are kept for the next one (R122, R123). -/
def sendWrite (s : State) (a : DriveIx) (f : FrameRec) (first count : Nat) (parts : List ReadPart) : State :=
  let onHand := unitData (s.drive a).carry parts
  (s.modDrive a fun d => { d with carry := onHand.drop (Config.sectorBytes * count) }).setPhase
    (.sending (.write f.stream f.seq first count (sectorData count onHand)))

/-- A WRITE exchange begins: its BURN reads, and when none is wanted its unit (R122, R123). -/
def startWrite (s : State) (a : DriveIx) (f : FrameRec) (first : Nat) : State :=
  let count := min Config.writeSectors (dataSectors f.stripeCount f.stripeSize - first)
  let parts := readParts f first count
  let s1 := s.modBurn fun b =>
    { b with exchange := some { drive := a, purpose := .frame, factor := b.factor,
                                phase := .reading first count parts } }
  if partsDone parts then s1.sendWrite a f first count parts else s1

/-- The NOTE of a head frame, as its note then stands (R124). -/
def startNote (s : State) (a : DriveIx) (f : FrameRec) : State :=
  s.startUnit a .frame (.note f.stream f.seq ((f.note.map RepairNote.sector).getD (zeroBytes Config.sectorBytes)))

/-- What a drive's frame turn sends, by its head frame's transfer state (R119). -/
def frameUnit (s : State) (a : DriveIx) : State :=
  match (s.drive a).queue.head? with
  | none => s.clearExchange
  | some f =>
    match (s.drive a).transfer with
    | .waitingSpace =>
      (s.modDrive a fun d => { d with transfer := .spaceAsked }).startUnit a .frame
        (.spaceAsk f.stream f.seq f.need)
    | .sending k =>
      if k < dataSectors f.stripeCount f.stripeSize then s.startWrite a f k else s.startNote a f
    | .spaceAsked | .awaitingDone => s.clearExchange

/-- A frame exchange has gone well so far: in FRAME mode the turn goes on, in BLOCK mode it ends (R116); in HALTED it
stops (R135). -/
def continueTurn (s : State) (a : DriveIx) : State :=
  if s.burn.mode = .frame ∧ s.monitor.halted = false then s.frameUnit a else s.clearExchange

/-! ### Surveys (R131, R132) -/

/-- One address of a SURVEY reply (R131): the capacities of a drive with media. -/
def surveyItem (s : State) (a : DriveIx) : SurveyItem :=
  { condition := (s.drive a).condition
    capacity := (s.drive a).remaining.map fun r => (r, (s.drive a).committed) }

/-- The survey ends (R131, R132). -/
def finishSurvey (s : State) (v : Survey) : State :=
  let s1 := s.modBurn fun b => { b with survey := none, item := .idle, exchange := none }
  match v.requester with
  | .startUp => s1.modBurn fun b => { b with pollRunning := true }
  | .surveyCommand tag => s1.deferred tag (.done (.survey (allDrives.map s1.surveyItem)))

/-- The survey asks its next address, ends after address 8, or stops in HALTED (R131, R135). -/
def nextSurvey (s : State) : State :=
  match s.burn.survey with
  | none => s.modBurn fun b => { b with item := .idle, exchange := none }
  | some v =>
    if h : 1 ≤ v.next ∧ v.next ≤ 8 then
      if s.monitor.halted then s.modBurn fun b => { b with item := .idle, exchange := none }
      else
        (s.modBurn fun b => { b with item := .survey, survey := some { v with next := v.next + 1 } }).startUnit
          ⟨v.next - 1, by omega⟩ .survey .presenceAsk
    else s.finishSurvey v

/-- A RUNNING survey has still to ask an address (R131). -/
def surveyWill (s : State) (a : DriveIx) : Bool :=
  match s.burn.survey with
  | some v => decide (v.next ≤ driveAddress a)
  | none => false

/-! ### The poll round (R129, R130) -/

/-- The addresses in turn above a pointer, wrapping, the pointer's own last (R119, R130). -/
def addressesAbove (p : DriveIx) : List DriveIx := [p + 1, p + 2, p + 3, p + 4, p + 5, p + 6, p + 7, p]

/-- The discovery part of the poll round (R130). -/
def discover (s : State) : State :=
  match (addressesAbove s.burn.discovery).find? fun a =>
      (s.drive a).condition == .absent && !s.surveyWill a with
  | some a => (s.modBurn fun b => { b with item := .idle, discovery := a }).startUnit a .discovery .presenceAsk
  | none => s.modBurn fun b => { b with item := .idle, exchange := none }

/-- The poll round goes on from address `n` (R129; log 18): the next present drive with no work is asked, or the
discovery part is made; in HALTED it stops (R135). A READY or FULL drive whose head an abort within the round has made owed an
ABANDON has no work by R119 and is polled, though its queue is not empty: the model's choice (log 18). -/
def nextPoll (s : State) (n : Nat) : State :=
  if s.monitor.halted then s.modBurn fun b => { b with item := .idle, exchange := none }
  else
    match allDrives.find? fun a =>
        decide (n ≤ driveAddress a) && (s.drive a).present && !(s.drive a).hasWork && !s.surveyWill a with
    | some a => (s.modBurn fun b => { b with item := .poll (driveAddress a + 1) }).startUnit a .pollStatus .statusAsk
    | none => s.discover

/-- An exchange other than a frame's has ended: the item it belongs to goes on, or the turn ends (R118, R129, R131). -/
def endExchange (s : State) : State :=
  let s1 := s.clearExchange
  match s1.burn.item with
  | .idle => s1
  | .survey => s1.nextSurvey
  | .poll n => s1.nextPoll n

/-! ### The turn boundary (R118) -/

/-- A drive with a PENDING relay, and its bytes. -/
def pendingRelay (s : State) : Option (DriveIx × List Byte) :=
  allDrives.findSome? fun a =>
    match (s.drive a).relay with
    | .pending _ bytes => some (a, bytes)
    | .outstanding _ => none
    | .none => none

/-- A rotation turn for a drive with work (R119). -/
def rotationTurn (s : State) (a : DriveIx) : State :=
  let s1 := s.modBurn fun b => { b with rotation := a }
  match (s1.drive a).relay with
  | .outstanding _ => s1.startUnit a .relayTurn .statusAsk
  | .pending _ _ | .none => s1.frameUnit a

/-- The first pending item, in the order of R118. -/
def startItem (s : State) : State :=
  match allDrives.find? fun a => (s.drive a).abandonOwed with
  | some a => s.startAbandon a
  | none =>
    match s.pendingRelay with
    | some (a, bytes) => s.startUnit a .relayCommand (.driveCommand bytes)
    | none =>
      match allDrives.find? fun a => (s.drive a).statusRequested with
      | some a => s.startUnit a .requested .statusAsk
      | none =>
        if s.burn.survey.isSome then s.nextSurvey
        else if s.burn.pollDue then (s.modBurn fun b => { b with pollDue := false }).nextPoll 1
        else
          match (addressesAbove s.burn.rotation).find? fun a => (s.drive a).hasWork with
          | some a => s.rotationTurn a
          | none => s

/-- The moment is a turn boundary: no exchange in flight, nothing owed by a reset, and the part not HALTED (R118,
R136). -/
def atBoundary (s : State) : Bool :=
  s.burn.exchange.isNone && s.burn.closing.isEmpty && (s.burn.item == .idle) && !s.monitor.halted

/-- A turn boundary (R118). -/
def turnBoundary (s : State) : State := if s.atBoundary then s.startItem.kick else s

/-! ### The end of a unit (R115, R123, R124, R133, R134) -/

/-- The next unit a RESET_PART owes begins, at the factor it was owed with (R136); in HALTED too, where R135 sends nothing
more (the model's choice, log 20). -/
def nextClosing (s : State) : State :=
  match s.burn.closing with
  | [] => s.clearExchange
  | c :: rest =>
    s.modBurn fun b =>
      { b with closing := rest
               exchange := some { drive := c.drive, purpose := .closing, factor := c.factor, phase := .sending c.unit } }

/-- A WRITE unit has been sent (R122, R133). -/
def writeSent (s : State) (a : DriveIx) (first count : Nat) : State :=
  let s1 := s.modDrive a fun d => { d with transfer := .sending (first + count) }
  if (s1.drive a).withdrawn then (s1.oweAbandon a).endTurn a else s1.continueTurn a

/-- A relay's DRIVE_COMMAND has been sent (R134). -/
def relaySent (s : State) (a : DriveIx) : State :=
  match (s.drive a).relay with
  | .pending tag _ => s.modDrive a fun d => { d with relay := .outstanding tag }
  | .outstanding _ | .none => s

/-- What follows the last symbol of a unit, by its kind (R115, R122, R124, R133, R134; log 30). -/
def unitEnded (s : State) (a : DriveIx) (u : BurnUnit) : State :=
  match u with
  | .presenceAsk => s.setPhase (.window .presence)
  | .statusAsk => s.setPhase (.window .status)
  | .spaceAsk _ _ _ => s.setPhase (.window .space)
  | .write _ _ first count _ => s.writeSent a first count
  | .note _ _ _ => (s.modDrive a fun d => { d with transfer := .awaitingDone }).setPhase (.window .done)
  | .abandon _ _ => s.clearExchange.discardHead a
  | .driveCommand _ => (s.relaySent a).clearExchange

/-- The unit being sent has ended (R115); with none being sent, nothing ends (log 1). -/
def burnUnitSent (s : State) : State :=
  match s.burn.exchange with
  | none => s
  | some e =>
    match e.phase with
    | .reading _ _ _ => s
    | .window _ => s
    | .sending u => (if e.purpose = .closing then s.nextClosing else s.unitEnded e.drive u).kick

/-! ### BURN reads (R123) -/

/-- A BURN read of a stripe completes (R123): judged now, a FLAWED one marked in the note; when every read of the unit is
complete, the unit begins (log 17), in HALTED too: a WRITE whose reads run is the exchange in flight, and it runs to its end
(R135; the model's choice, log 31). A read that is not in flight does not complete (log 1). -/
def burnReadDone (s : State) (k : Nat) (flips : List Flip) : State :=
  match s.burn.exchange with
  | none => s
  | some e =>
    match e.phase with
    | .sending _ => s
    | .window _ => s
    | .reading first count parts =>
      match (parts.find? fun p => p.stripe == k && p.data.isNone).bind (·.slot), (s.drive e.drive).queue.head? with
      | some x, some f =>
        let r := (s.modStore (·.strikeAll flips)).readSlot .burn x f.stripeSize
        let s1 := if r.1 then r.2.2.markFlaw e.drive k else r.2.2
        let parts1 := parts.map (·.filled k r.2.1)
        (if partsDone parts1 then s1.sendWrite e.drive f first count parts1
         else s1.setPhase (.reading first count parts1)).kick
      | _, _ => s

/-! ### Answers (R115, R121, R124, R125, R128, R130, R134) -/

/-- The exchange whose window of a kind is open to an answer from an address (R115). -/
def openWindow (s : State) (w : WindowKind) (address : Byte) : Option Exchange :=
  match s.burn.exchange with
  | some e => if e.phase = .window w ∧ driveOf address = some e.drive then some e else none
  | none => none

/-- A PRESENCE_ANSWER is taken (R128, R130). -/
def takePresence (s : State) (e : Exchange) (n : News) : State := (s.presenceTaken e.drive n).endExchange

/-- A requested status ask has ended, and its request is cleared (R118). -/
def requestEnded (s : State) (e : Exchange) : State :=
  if e.purpose = .requested then s.modDrive e.drive fun d => { d with statusRequested := false } else s

/-- A STATUS_ANSWER is taken (R118, R128, R134, R150). -/
def takeStatus (s : State) (e : Exchange) (n : News) : State :=
  let s1 := (s.answered e.drive).requestEnded e
  (if e.purpose = .requested ∧ (s1.drive e.drive).releasePending = true then s1.endRelease e.drive n
   else s1.applyNews e.drive n).endExchange

/-- The condition is still READY or FULL (R121). -/
def takesFramesStill (s : State) (a : DriveIx) : Bool :=
  (s.drive a).condition == .ready || (s.drive a).condition == .full

/-- A SPACE_OK whose news leaves the drive READY or FULL: the frame enters SENDING (R121), also when that news has taken the
drive from FULL to READY, for which R139 has the head asked for space again: the model's choice (log 33). -/
def grantSpace (s : State) (a : DriveIx) : State :=
  if s.takesFramesStill a then s.modDrive a fun d => { d with transfer := .sending 0, carry := [] } else s

/-- A SPACE_OK is taken (R121, R133). -/
def takeSpaceOk (s : State) (e : Exchange) (n : News) : State :=
  let s1 := ((s.answered e.drive).applyNews e.drive n).grantSpace e.drive
  if (s1.drive e.drive).withdrawn then (s1.oweAbandon e.drive).endTurn e.drive
  else if s1.takesFramesStill e.drive then s1.continueTurn e.drive
  else s1.clearExchange

/-- A withdrawn frame whose exchange ended without a reservation is discarded at once (R133). -/
def discardWithdrawn (s : State) (a : DriveIx) : State := if (s.drive a).withdrawn then s.discardHead a else s

/-- A SPACE_NO is taken (R121, R133). -/
def takeSpaceNo (s : State) (e : Exchange) (n : News) : State :=
  let s1 := ((s.answered e.drive).modDrive e.drive fun d => { d with spaceRefusals := d.spaceRefusals + 1 }).headWaiting
    e.drive
  ((s1.applyNews e.drive n).discardWithdrawn e.drive).clearExchange

/-- A WRITE_DONE is taken (R124). -/
def takeWriteDone (s : State) (e : Exchange) (capacity : Word32) : State :=
  let s1 := (s.answered e.drive).modDrive e.drive fun d => { d with framesWritten := d.framesWritten + 1 }
  let s2 := (s1.dropHead e.drive).applyNews e.drive (newsOfCapacity capacity)
  (match (s.drive e.drive).queue.head? with
   | some f => s2.returnRecord f
   | none => s2).clearExchange

/-- The frame of a withdrawn exchange that ended in the done window is owed an ABANDON (R133). -/
def oweWithdrawn (s : State) (a : DriveIx) : State := if (s.drive a).withdrawn then s.oweAbandon a else s

/-- A WRITE_FAIL is taken (R125, R133, R141). -/
def takeWriteFail (s : State) (e : Exchange) (n : News) : State :=
  let seq := ((s.drive e.drive).queue.head?.map (·.seq)).getD 0
  let s1 := (((s.answered e.drive).headWaiting e.drive).applyNews e.drive n).raise .driveWriteFail
    (driveAddress e.drive) seq
  ((s1.setCondition e.drive .fault).oweWithdrawn e.drive).endTurn e.drive

/-- A DRIVE_ANSWER is taken (R134). -/
def takeDriveAnswer (s : State) (e : Exchange) (bytes : List Byte) : State :=
  ((s.answered e.drive).endRelay e.drive (.done (.driveBytes bytes))).endExchange

/-- A drive's relay is OUTSTANDING. -/
def relayOpen (s : State) (a : DriveIx) : Bool :=
  match (s.drive a).relay with
  | .outstanding _ => true
  | .pending _ _ => false
  | .none => false

/-! ### Missed answers (R126, R133, R150) -/

/-- A status ask was missed (R118, R126, R150). -/
def missStatus (s : State) (e : Exchange) : State :=
  let s1 := (s.countMiss e.drive).requestEnded e
  (if e.purpose = .requested ∧ (s1.drive e.drive).releasePending = true then
     s1.modDrive e.drive fun d => { d with statusRequested := true }
   else s1).endExchange

/-- The effect of a missed answer, by the window that closed (R126, R133). -/
def missed (s : State) (e : Exchange) (w : WindowKind) : State :=
  match w with
  | .presence => (s.countMiss e.drive).endExchange
  | .status => s.missStatus e
  | .space => (((s.headWaiting e.drive).countMiss e.drive).discardWithdrawn e.drive).clearExchange
  | .done => (((s.headWaiting e.drive).countMiss e.drive).oweWithdrawn e.drive).endTurn e.drive

/-- A window closes with no answer taken (R126); with none open, none is missed (log 1). -/
def windowMissed (s : State) : State :=
  match s.burn.exchange with
  | none => s
  | some e =>
    match e.phase with
    | .reading _ _ _ => s
    | .sending _ => s
    | .window w => (s.missed e w).kick

/-! ### Withdrawing a stream's frames (R17, R133) -/

/-- An exchange is in flight for a drive's head frame: its SPACE_ASK, a WRITE, or its NOTE (R133; log 19). A WRITE is in
flight from the start of its BURN reads, so that an abort during them lets the unit be sent whole before the ABANDON (the
model's choice, log 31). -/
def frameInFlight (s : State) (a : DriveIx) : Bool :=
  match s.burn.exchange with
  | some e => e.drive == a && e.purpose == .frame
  | none => false

/-- The head frame stays to be withdrawn: marked while its exchange runs, or owed an ABANDON when it has a reservation
and no unit in flight (R133). -/
def withdrawHead (s : State) (a : DriveIx) : State :=
  if s.frameInFlight a then s.modDrive a fun d => { d with withdrawn := true } else s.oweAbandon a

/-- The head frame has begun its transfer, its SPACE_ASK is in flight, or it is owed an ABANDON, until which it stays at
the head (R17 step 4, R133). -/
def headEngaged (s : State) (a : DriveIx) : Bool :=
  (s.drive a).abandonOwed ||
  match (s.drive a).transfer with
  | .waitingSpace => s.frameInFlight a
  | .spaceAsked | .sending _ | .awaitingDone => true

/-- The frames of a queue that belong to a stream leave it, head to tail, but for an engaged head (R17, R133). -/
def withdrawQueue (s : State) (i : StreamIx) (a : DriveIx) : State :=
  match (s.drive a).queue with
  | [] => s
  | f :: rest =>
    if f.stream = i ∧ s.headEngaged a = true then
      let gone := rest.filter fun g => g.stream == i
      let kept := f :: rest.filter fun g => g.stream != i
      (gone.foldl returnRecord (s.modDrive a fun d =>
        { d with queue := kept, committed := (kept.map (·.need)).sum })).withdrawHead a
    else
      let gone := (f :: rest).filter fun g => g.stream == i
      let kept := (f :: rest).filter fun g => g.stream != i
      gone.foldl returnRecord (s.modDrive a fun d =>
        { d with queue := kept, committed := (kept.map (·.need)).sum })

/-- ABORT_STREAM withdraws every frame of the stream from the burn queues (R17, R133). The drives are taken in ascending address,
which orders the slots given up on the free list: R17 gives the drives no order, and this one is the model's choice
(log 10). -/
def withdrawFrames (s : State) (i : StreamIx) : State := allDrives.foldl (fun s a => s.withdrawQueue i a) s

/-! ### RESET_PART on the link (R136) -/

/-- A drive is sent an ABANDON by a RESET_PART (R136 step 2): it is present, and its head frame is SPACE_ASKED, SENDING
or AWAITING_DONE, or it is owed one; not when that ABANDON is the unit being sent, which is finished (step 1). -/
def closesDrive (s : State) (a : DriveIx) : Bool :=
  (s.drive a).present && !(s.drive a).queue.isEmpty &&
    ((s.drive a).abandonOwed || (s.drive a).transfer != .waitingSpace) &&
    (match s.burn.exchange with
     | some e => !(e.drive == a && e.purpose == .abandon)
     | none => true)

/-- The ABANDON a RESET_PART owes a drive, at the factor in force before the reset (R115, R136). -/
def closingUnit (s : State) (a : DriveIx) : List Closing :=
  if s.closesDrive a then
    match (s.drive a).queue.head? with
    | some f => [{ drive := a, factor := s.burn.factor, unit := .abandon f.stream f.seq }]
    | none => []
  else []

/-- The unit being sent as a RESET_PART leaves it: finished, and nothing more of its exchange (R136 step 1). -/
def finishingUnit (s : State) : Option Exchange :=
  match s.burn.exchange with
  | some e =>
    match e.phase with
    | .sending u => some { drive := e.drive, purpose := .closing, factor := e.factor, phase := .sending u }
    | .reading _ _ _ => none
    | .window _ => none
  | none => none

/-- The controller after RESET_PART (R136; log 20): its RESET_PART values, with the units still to be sent on the link. A reset
while an earlier one's units are still owed keeps them. -/
def resetBurn (s : State) : Burn :=
  let owed := s.burn.closing ++ allDrives.flatMap s.closingUnit
  match s.finishingUnit, owed with
  | some e, cs => { Burn.reset with exchange := some e, closing := cs }
  | none, [] => Burn.reset
  | none, c :: cs =>
    { Burn.reset with
      exchange := some { drive := c.drive, purpose := .closing, factor := c.factor, phase := .sending c.unit }
      closing := cs }

end State

end Sys2Proof.Machine
end

