-- ==== Sys2Proof/Machine/Cadence.lean ====
section
/-! DEFINITION. Cadence units and dispatch: the dispatch decision, forcing, the hand-off, the repair note, fill frames,
slips, drain completion, the expiry, and SET_SLOT_PATTERN's effect (R93 to R110, R16). -/

namespace Sys2Proof.Machine

/-! ### The repair note (R106, R107) -/

/-- A stripe has an entry in the note (R107). -/
def StripeRec.hasEntry (st : StripeRec) : Bool := st.cause.isSome || st.state != .sound

/-- The note entry of a stripe (R107). -/
def StripeRec.entry (st : StripeRec) (k : Nat) : NoteEntry :=
  { index := k, cause := st.cause, outcome := if st.state = .marked then .marked else .repaired, method := st.method,
    donors := st.donors, generation := st.generation }

/-- The entries of a frame's note, in ascending stripe index (R107). -/
def noteEntries (stripes : List StripeRec) : List NoteEntry :=
  (stripes.zipIdx.filter fun p => p.1.hasEntry).map fun p => p.1.entry p.2

/-- A frame record as it stands in a burn queue, with its kind, output sequence and note (R104, R106, R108). -/
def FrameRec.queued (f : FrameRec) (kind : FrameKind) (seq : Word32) : FrameRec :=
  { f with
    kind := some kind, outSeq := some seq, state := .queuedForBurn
    note := some { stream := f.stream, outSeq := seq, number := f.number, timecode := f.timecode, kind := kind,
                   stripes := f.stripeCount, entries := noteEntries f.stripes } }

/-- A fill frame's record before it takes an output sequence (R108 step 1). -/
def FrameRec.fill (cfg : StreamConfig) (i : StreamIx) (number : Word32) (stripes : List StripeRec) : FrameRec :=
  { stream := i, number := number, timecode := 0, kind := some .fill, state := .queuedForBurn, ordinal := none,
    stripes := stripes, damaged := 0, unresolved := 0, outSeq := none, need := sectorNeed cfg.stripes cfg.stripeSize,
    stripeCount := cfg.stripes, stripeSize := cfg.stripeSize, note := none }

/-- A fill stripe that found a donor (R109). -/
def StripeRec.lent (d : Donor) : StripeRec :=
  { state := .repaired, cause := none, slot := some d.slot, generation := some d.generation, method := some .fallback,
    donors := [d.number], resume := 0 }

/-- A blank fill stripe (R109). -/
def StripeRec.blank : StripeRec :=
  { state := .marked, cause := none, slot := none, generation := none, method := some .mark, donors := [],
    resume := 0 }

namespace State

/-- Takes a stream's next output sequence: the value and the state after (R105). -/
def takeSeq (s : State) (i : StreamIx) : Word32 × State :=
  ((s.stream i).nextSeq, s.modStream i fun r => { r with nextSeq := r.nextSeq + 1 })

/-! ### Forcing (R102, R103) -/

/-- A forced stripe adopts a donor (R102, FOUND): +1 on the donor slot, then −1 on the arrival slot. -/
def forceAdopt (s : State) (j : Job) (d : Donor) : State :=
  (((s.claim d.slot).releaseOld j).resolveStripe j fun st =>
    { st with state := .repaired, slot := some d.slot, method := some .fallback, donors := [d.number],
              generation := some d.generation }).bump j.stream .repairedFallback

/-- One unresolved stripe is settled by the stream's forced fallback (R102). -/
def forceStripe (s : State) (cfg : StreamConfig) (j : Job) : State :=
  match cfg.fallback with
  | .mark => s.markStripe j .mark
  | .reference =>
    match s.dir.lookup j.stream j.stripe (Directory.forcing j.number) with
    | some d => s.forceAdopt j d
    | none => s.markStripe j .mark

/-- The unresolved stripes of a frame, in ascending index. -/
def unresolvedStripes (s : State) (i : StreamIx) (n : Word32) : List Nat :=
  match s.frame i n with
  | some f => (f.stripes.zipIdx.filter fun p => p.1.state == .damaged).map (·.2)
  | none => []

/-- A frame is forced (R102, R103). -/
def forceFrame (s : State) (i : StreamIx) (cfg : StreamConfig) (n : Word32) : State :=
  let s1 := s.giveUp i n
  let s2 := (s1.unresolvedStripes i n).foldl
    (fun s k => s.forceStripe cfg { stream := i, number := n, stripe := k }) s1
  (s2.bump i .forcedFrames).occur .forced (streamId i) n

/-! ### Hand-off (R104) -/

/-- The hand-off of the window head to drive `a` (R104). -/
def handOff (s : State) (i : StreamIx) (cfg : StreamConfig) (a : DriveIx) (kind : FrameKind) : State :=
  match (s.stream i).window with
  | [] => s
  | f :: rest =>
    let s1 := (s.modStream i fun r => { r with window := rest }).judgeFlow i
    let p := s1.takeSeq i
    let s2 := p.2.modStream i fun r => { r with lastDispatched := some f.number }
    (s2.insertFrame i f.number cfg.genLimit f.stripes).appendFrame a (f.queued kind p.1)

/-- The head is dispatched to drive `a` (R101): closed if OPEN, forced if then CLOSED, handed off. -/
def dispatchHead (s : State) (i : StreamIx) (cfg : StreamConfig) (a : DriveIx) : State :=
  match (s.stream i).window.head? with
  | none => s
  | some f =>
    let s1 := if f.state = .opened then s.closeFrame i f.number else s
    match s1.frame i f.number with
    | some g =>
      if g.state = .closed then (s1.forceFrame i cfg f.number).handOff i cfg a .forced
      else s1.handOff i cfg a .normal
    | none => s1.handOff i cfg a .normal

/-! ### Fill frames (R108, R109) -/

/-- The stripes of a fill frame from index `k` on, `n` of them, each resolved by a fill-test lookup (R109). -/
def fillStripes (i : StreamIx) (number : Word32) : Nat → Nat → State → List StripeRec × State
  | 0, _, s => ([], s)
  | n + 1, k, s =>
    match s.dir.lookup i k (Directory.filling number) with
    | some d =>
      let rest := fillStripes i number n (k + 1) ((s.claim d.slot).bump i .repairedFallback)
      (StripeRec.lent d :: rest.1, rest.2)
    | none =>
      let rest := fillStripes i number n (k + 1) (s.bump i .marked)
      (StripeRec.blank :: rest.1, rest.2)

/-- A fill frame is made and handed off to drive `a` (R108). -/
def fillFrame (s : State) (i : StreamIx) (cfg : StreamConfig) (a : DriveIx) : State :=
  let number := (s.stream i).lastDispatched.getD 0
  let p := fillStripes i number cfg.stripes 0 s
  let q := p.2.takeSeq i
  ((q.2.appendFrame a ((FrameRec.fill cfg i number p.1).queued .fill q.1)).bump i .fillFrames).occur .fill
    (streamId i) number

/-! ### The dispatch decision (R97 to R100, R110) -/

/-- A slip (R100). -/
def slip (s : State) (i : StreamIx) : State := s.bump i .slips

/-- A RUNNING stream that got NONE enters STALLED, and STALL occurs (R99). -/
def enterStall (s : State) (i : StreamIx) : State :=
  if (s.stream i).state = .running then
    ((s.modStream i fun r => { r with state := .stalled }).judgeFlow i).occur .stall (streamId i)
      (((s.stream i).window.head?.map (·.number)).getD 0)
  else s

/-- A STALLED stream that got TAKE enters RUNNING (R99). -/
def leaveStall (s : State) (i : StreamIx) : State :=
  if (s.stream i).state = .stalled then (s.modStream i fun r => { r with state := .running }).judgeFlow i else s

/-- The target drive is asked and the slot decided by its answer (R98, R99). -/
def decideByDrive (s : State) (i : StreamIx) (cfg : StreamConfig) : State :=
  match s.askDrive i (sectorNeed cfg.stripes cfg.stripeSize) with
  | (.take a, s1) =>
    let s2 := s1.leaveStall i
    if (s2.stream i).window.isEmpty then s2.fillFrame i cfg a else s2.dispatchHead i cfg a
  | (.wait, s1) => s1.slip i
  | (.noDrive, s1) => (s1.enterStall i).slip i

/-- A session ends (R16, R17 step 5): the stream is CONFIGURED, the cadence unit back at its configured pattern, the
bindings and the suspensions released. -/
def endSession (s : State) (i : StreamIx) : State :=
  let s1 := s.modStream i fun r =>
    { r with state := .configured
             cadence := { r.cadence with running := false, position := 0, pattern := r.config.map (·.pattern),
                                         pendingPattern := none } }
  ((s1.unbindDrives i).releaseSuspensions i).judgeFlow i

/-- An outstanding STOP_STREAM is answered, and its flag cleared (R16, R17 step 6). -/
def answerStop (s : State) (i : StreamIx) (answer : Answer) : State :=
  match (s.stream i).stopTag with
  | some tag => (s.modStream i fun r => { r with stopTag := none }).deferred tag answer
  | none => s

/-- Drain completion (R16, R110). -/
def completeDrain (s : State) (i : StreamIx) : State := (s.endSession i).answerStop i (.done .empty)

/-- The dispatch decision of a dispatch slot (R97). -/
def dispatchSlot (s : State) (i : StreamIx) : State :=
  match (s.stream i).config with
  | none => s
  | some cfg =>
    if (s.stream i).window.isEmpty then
      if (s.stream i).state = .draining then s.completeDrain i
      else if cfg.fillAllowed && s.recordFree then s.decideByDrive i cfg
      else s.slip i
    else s.decideByDrive i cfg

/-! ### The expiry (R94) -/

end State

/-- The position and patterns after an expiry (R94 steps 2, 3). -/
def Cadence.advance (c : Cadence) : Cadence :=
  match c.pendingPattern with
  | none => { c with position := c.position + 1 }
  | some p =>
    if c.position = 7 then { c with position := 0, pattern := some p, pendingPattern := none }
    else { c with position := c.position + 1 }

/-- The pattern holds 1 at the current position (R94 step 1). -/
def Cadence.atSlot (c : Cadence) : Bool :=
  match c.pattern with
  | some p => p.getLsbD c.position.val
  | none => false

namespace State

/-- A cadence period ends (R94): an expiry of a stopped timer does not occur (log 1). A slot that completes the drain
leaves the position 0 (R95; log 24). -/
def cadenceExpired (s : State) (i : StreamIx) : State :=
  let r := s.stream i
  if r.cadence.running then
    if r.cadence.atSlot then
      let s1 := s.dispatchSlot i
      if r.state = .draining ∧ r.window = [] then s1
      else s1.modStream i fun r => { r with cadence := r.cadence.advance }
    else s.modStream i fun r => { r with cadence := r.cadence.advance }
  else s

end State

end Sys2Proof.Machine
end

