-- ==== Sys2Proof/Machine/Control.lean ====
section
/-! DEFINITION. The Control Interpreter: the owning rule of each of the twenty-eight commands, the common checks, the
control queue, and RESET_PART (R2, R13 to R17, R22, R30, R31, R48, R51, R54, R56, R91, R96, R117, R131, R148 to R152,
R154 to R161, R166, R170, R175, R176). Each owner takes the tag and the parameters as they arrived. -/

namespace Sys2Proof.Machine

namespace State

/-! ### Streams (R2, R13, R15, R17, R22) -/

/-- An accepted CONFIGURE_STREAM (R2, R47, R93). -/
def configure (s : State) (i : StreamIx) (cfg : StreamConfig) : State :=
  (s.modStream i fun r =>
    { r with state := .configured, config := some cfg
             cadence := { r.cadence with period := some cfg.period, pattern := some cfg.pattern,
                                         pendingPattern := none } }).invalidate fun e => e.stream == i

/-- CONFIGURE_STREAM (R2). -/
def ownConfigureStream (tag : Word16) (id : Byte) (fields : ConfigFields) (s : State) : State :=
  match streamOf id with
  | none => s.refuse tag .badParameter
  | some i =>
    if (s.stream i).state ≠ .unconfigured ∧ (s.stream i).state ≠ .configured then s.refuse tag .wrongState
    else
      match readStreamConfig fields with
      | none => s.refuse tag .badParameter
      | some cfg => (s.configure i cfg).done tag .empty

/-- A plan is LOADED (R52). -/
def planLoaded (s : State) (p : Fin 16) : Bool := s.plans[p].isSome

/-- The record of a stream that enters PRIMING (R13). -/
def prime (s : State) (i : StreamIx) : State :=
  s.modStream i fun r =>
    { r with state := .priming, counters := Vector.replicate 17 0, nextSeq := 0, lastNumber := none,
             lastDispatched := none, window := [], paused := false }

/-- START_STREAM (R13, R142). -/
def ownStartStream (tag : Word16) (id : Byte) (s : State) : State :=
  match streamOf id with
  | none => s.refuse tag .badParameter
  | some i =>
    match (s.stream i).state, (s.stream i).config with
    | .configured, some cfg =>
      if s.planLoaded cfg.planFlagged && s.planLoaded cfg.planCorrupt && s.planLoaded cfg.planAbsent then
        match s.chooseDrives i cfg with
        | .ok (active, standby) => ((s.bindDrives i active standby).prime i).done tag .empty
        | .error why => s.refuse tag why
      else s.refuse tag .planMissing
    | _, _ => s.refuse tag .wrongState

/-- A STOP_STREAM taken (R15): the OPEN frame closes, the stream drains, its PARKED stripes return to DAMAGED, and from
PRIMING the cadence starts. -/
def beginDrain (s : State) (i : StreamIx) (tag : Word16) : State :=
  let before := (s.stream i).state
  let s1 := (s.closeOpen i).modStream i fun r => { r with state := .draining, stopTag := some tag }
  let s2 := s1.unparkStream i
  (if before = .priming then s2.startCadence i else s2).judgeFlow i

/-- STOP_STREAM (R15; an id outside 1 to 12: log 14). -/
def ownStopStream (tag : Word16) (id : Byte) (s : State) : State :=
  match streamOf id with
  | none => s.refuse tag .badParameter
  | some i =>
    match (s.stream i).state with
    | .priming | .running | .stalled => (s.beginDrain i tag).takeWork
    | .draining => s.refuse tag .busy
    | .unconfigured | .configured | .stopped => s.refuse tag .wrongState

/-- The window's records return to the pool, head to tail (R17 step 2). -/
def emptyWindow (s : State) (i : StreamIx) : State :=
  (s.stream i).window.foldl returnRecord (s.modStream i fun r => { r with window := [] })

/-- An ABORT_STREAM taken (R17 steps 1 to 6, R87, R133). -/
def abort (s : State) (i : StreamIx) : State :=
  ((((s.abandonWork i).emptyWindow i).withdrawFrames i).endSession i).answerStop i (.refused .aborted)

/-- ABORT_STREAM (R17). -/
def ownAbortStream (tag : Word16) (id : Byte) (s : State) : State :=
  match streamOf id with
  | none => s.refuse tag .badParameter
  | some i =>
    if (s.stream i).state.started then ((s.abort i).done tag .empty).takeWork else s.refuse tag .wrongState

/-- What STREAM_STATUS reports (R22). -/
def streamReport (s : State) (i : StreamIx) : StreamReport :=
  let r := s.stream i
  { state := r.state, config := r.config, paused := r.paused, occupancyReason := r.occupancyReason,
    suspensions := s.suspensions i
    window := r.window.map fun f =>
      { number := f.number, state := f.state, damaged := f.damaged, unresolved := f.unresolved }
    lastNumber := r.lastNumber, lastDispatched := r.lastDispatched, nextSeq := r.nextSeq,
    stopOutstanding := r.stopTag.isSome, counters := r.counters.toList }

/-- STREAM_STATUS (R22). -/
def ownStreamStatus (tag : Word16) (id : Byte) (s : State) : State :=
  match streamOf id with
  | none => s.refuse tag .badParameter
  | some i => s.done tag (.streamStatus (s.streamReport i))

/-! ### Store and directory (R30, R31, R48, R51) -/

/-- SET_STORE (R30). -/
def ownSetStore (tag : Word16) (setting : Byte) (s : State) : State :=
  match readFlag setting with
  | none => s.refuse tag .badParameter
  | some on => (s.modStore fun st => { st with correction := on }).done tag (.setStore s.store.correction)

/-- What STORE_STATUS reports (R31). -/
def storeReport (s : State) (x : Option Slot) : StoreReport :=
  { free := s.store.freeList.length, inUse := Config.slots - s.store.freeList.length, head := s.store.freeList.head?,
    correction := s.store.correction, lastEvent := s.store.lastEvent, corrected := s.store.corrected,
    flawed := s.store.flawed, slot := x.map fun x => (s.store.count x, s.store.freeList.elem x) }

/-- STORE_STATUS (R31). -/
def ownStoreStatus (tag : Word16) (present : Byte) (slot : Word16) (s : State) : State :=
  match readFlag present with
  | none => s.refuse tag .badParameter
  | some false => s.done tag (.storeStatus (s.storeReport none))
  | some true =>
    if h : slot.toNat < 16384 then s.done tag (.storeStatus (s.storeReport (some ⟨slot.toNat, h⟩)))
    else s.refuse tag .badParameter

/-- PURGE_DIRECTORY (R48). -/
def ownPurgeDirectory (tag : Word16) (id : Byte) (s : State) : State :=
  if id = 0 then (s.invalidate fun _ => true).done tag (.purged (s.dir.matching fun _ => true))
  else
    match streamOf id with
    | none => s.refuse tag .badParameter
    | some i => (s.invalidate fun e => e.stream == i).done tag (.purged (s.dir.matching fun e => e.stream == i))

/-- What READ_DIRECTORY reports (R51). -/
def directoryReport (s : State) (first count : Nat) : DirectoryReport :=
  { valid := s.dir.validCount, ordinal := s.dir.nextOrdinal, evictions := s.dir.evictions, flaws := s.dir.flaws,
    sets := (List.range count).map fun k => s.dir.row (Fin.ofNat 256 (first + k)) }

/-- READ_DIRECTORY (R51). -/
def ownReadDirectory (tag : Word16) (first count : Byte) (s : State) : State :=
  if 1 ≤ count.toNat ∧ count.toNat ≤ 16 ∧ first.toNat + count.toNat - 1 ≤ 255 then
    s.done tag (.directory (s.directoryReport first.toNat count.toNat))
  else s.refuse tag .badParameter

/-! ### Plans and engine (R54 to R56, R91) -/

/-- The causes for which a configuration names a plan (R56). -/
def causesNaming (cfg : StreamConfig) (p : Fin 16) : List Cause :=
  [Cause.flagged, Cause.corrupt, Cause.absent].filter fun c => cfg.planFor c == p

/-- The causes for which a started stream names a plan (R55, R56). -/
def planCauses (s : State) (p : Fin 16) (i : StreamIx) : List Cause :=
  match (s.stream i).state.started, (s.stream i).config with
  | true, some cfg => causesNaming cfg p
  | _, _ => []

/-- The users of a plan (R56), in ascending stream id, the causes of each in the order FLAGGED, CORRUPT, ABSENT (the model's
choice, log 15). -/
def planUsers (s : State) (p : Fin 16) : List PlanUser :=
  (allStreams.map fun i => { stream := i, causes := s.planCauses p i }).filter fun u => !u.causes.isEmpty

/-- LOAD_PLAN (R54, R55). -/
def ownLoadPlan (tag : Word16) (plan count : Byte) (steps : List StepFields) (s : State) : State :=
  match finOf 16 plan with
  | none => s.refuse tag .badParameter
  | some p =>
    if 1 ≤ count.toNat ∧ count.toNat ≤ 8 ∧ steps.length = count.toNat then
      match readPlan steps with
      | none => s.refuse tag .badParameter
      | some loaded =>
        if s.planUsers p = [] then
          { s with plans := s.plans.set p (some loaded) }.done tag (.loadPlan (s.planLoaded p))
        else s.refuse tag .planInUse
    else s.refuse tag .badParameter

/-- READ_PLAN (R56). -/
def ownReadPlan (tag : Word16) (plan : Byte) (s : State) : State :=
  match finOf 16 plan with
  | none => s.refuse tag .badParameter
  | some p => s.done tag (.readPlan s.plans[p] (s.planUsers p))

/-- The time left on a running refetch timer in ms, rounded up: a free value from 1 to the wait (R91; log 3). -/
def drawTimeLeft (fresh wait : Nat) : Nat := 1 + Config.timeLeft fresh % wait

/-- What ENGINE_STATUS reports of a context (R91), drawing a free value with `fresh` for a running timer. The slots it holds
are listed inputs first, the lower neighbour before the higher and the donor before the successor, and the result last: R91
gives them no order, and this one is the model's choice (log 15). -/
def contextReport (s : State) (fresh : Nat) (c : Fin 4) : Option ContextReport :=
  (s.context c).map fun b =>
    { composing := b.op.composing, job := b.job, plan := ((s.jobPlan b.job).map (·.val)).getD 0, step := b.step,
      method := b.op.method, slots := b.op.inputs ++ b.op.result.toList
      refetch :=
        match b.op with
        | .refetch tryNo left wait sent timer =>
          some { tryNo := tryNo, triesLeft := left, sent := sent
                 timeLeft := if timer then some (drawTimeLeft (fresh + c.val) wait) else none }
        | .neighbour _ _ _ | .blend _ _ _ _ | .verify _ => none }

/-- What ENGINE_STATUS reports (R91). -/
def engineReport (s : State) : EngineReport :=
  { contexts := allContexts.map (s.contextReport s.freshIndex)
    queueLength := s.engine.queue.length
    first := s.engine.queue.head?.map fun q =>
      { stream := q.stream, number := q.number, ordinal := q.ordinal,
        damaged := ((s.frame q.stream q.number).map (·.damagedNow)).getD 0 }
    passedOver := (s.engine.queue.filter fun q => (s.stream q.stream).state == .stopped).length
    parked := s.engine.parked, closeOrdinal := s.engine.closeOrdinal }

/-- ENGINE_STATUS (R91). The counter of free values moves past those a reply may have drawn (log 23). -/
def ownEngineStatus (tag : Word16) (s : State) : State :=
  { s with freshIndex := s.freshIndex + 4 }.done tag (.engine s.engineReport)

/-! ### Cadence (R96) -/

/-- SET_SLOT_PATTERN on a stream that is not UNCONFIGURED (R96). -/
def changePattern (r : StreamRec) (p : BitVec 8) : StreamRec :=
  if r.state = .configured then
    { r with config := r.config.map fun cfg => { cfg with pattern := p }, cadence := { r.cadence with pattern := some p } }
  else { r with cadence := { r.cadence with pendingPattern := some p } }

/-- What SET_SLOT_PATTERN reports (R96). -/
def cadenceReport (c : Cadence) : CadenceReport :=
  { pattern := c.pattern, position := c.position, pendingPattern := c.pendingPattern, running := c.running }

/-- SET_SLOT_PATTERN (R96). -/
def ownSetSlotPattern (tag : Word16) (id pattern : Byte) (s : State) : State :=
  match streamOf id with
  | none => s.refuse tag .badParameter
  | some i =>
    if pattern = 0 then s.refuse tag .badParameter
    else if (s.stream i).state = .unconfigured then s.refuse tag .wrongState
    else
      (s.modStream i fun r => changePattern r pattern).done tag (.slotPattern (cadenceReport (s.stream i).cadence))

/-! ### The burn link and the drives (R117, R131, R148 to R152) -/

/-- The link is at rest for SET_LINK (R117 check 2): no stream started, every burn queue empty. -/
def linkIdle (s : State) : Bool :=
  (allStreams.all fun i => !(s.stream i).state.started) && (allDrives.all fun a => (s.drive a).queue.isEmpty)

/-- SET_LINK (R117). -/
def ownSetLink (tag : Word16) (factor mode : Byte) (s : State) : State :=
  match readFactor factor, readFlag mode with
  | some f, some block =>
    if s.linkIdle then
      (s.modBurn fun b => { b with factor := f, mode := if block then .block else .frame }).done tag
        (.setLink s.burn.factor s.burn.mode)
    else s.refuse tag .wrongState
  | _, _ => s.refuse tag .badParameter

/-- SURVEY (R131). -/
def ownSurvey (tag : Word16) (s : State) : State :=
  if s.burn.survey.isSome then s.refuse tag .busy
  else s.modBurn fun b => { b with survey := some { requester := .surveyCommand tag, next := 1 } }

/-- What DRIVE_STATUS says of a relay (R152). -/
def relayReport (r : Relay) : RelayState :=
  match r with
  | .none => .none
  | .pending _ _ => .pending
  | .outstanding _ => .outstanding

/-- What DRIVE_STATUS reports of one drive (R152). -/
def driveReport (s : State) (a : DriveIx) : DriveReport :=
  let d := s.drive a
  { condition := d.condition, remaining := d.remaining, committed := d.committed, uncommitted := d.uncommitted,
    binding := d.binding
    queue := d.queue.map fun f =>
      { stream := f.stream, outSeq := f.seq, kind := f.kind.getD .normal, need := f.need,
        entryCount := (f.note.map fun n => n.entries.length).getD 0 }
    transfer := if d.queue.isEmpty then none else some d.transfer
    abandonOwed := d.abandonOwed, releasePending := d.releasePending, relay := relayReport d.relay, misses := d.misses,
    framesWritten := d.framesWritten, spaceRefusals := d.spaceRefusals, missCount := d.missCount }

/-- DRIVE_STATUS (R152). -/
def ownDriveStatus (tag : Word16) (address : Byte) (s : State) : State :=
  if address = 0 then s.done tag (.driveStatus (allDrives.map s.driveReport))
  else
    match driveOf address with
    | some a => s.done tag (.driveStatus [s.driveReport a])
    | none => s.refuse tag .badParameter

/-- A HOLD_DRIVE taken (R148). -/
def hold (s : State) (a : DriveIx) : State :=
  (s.setCondition a .held).modDrive a fun d => { d with releasePending := false, statusRequested := false }

/-- A drive is bound ACTIVE. -/
def boundActive (s : State) (a : DriveIx) : Bool :=
  match (s.drive a).binding with
  | .active _ => true
  | .standby _ => false
  | .none => false

/-- HOLD_DRIVE (R148). -/
def ownHoldDrive (tag : Word16) (address : Byte) (s : State) : State :=
  match driveOf address with
  | none => s.refuse tag .badParameter
  | some a =>
    if (s.drive a).condition = .absent then s.refuse tag .noDrive
    else if s.boundActive a || !(s.drive a).queue.isEmpty then s.refuse tag .inUse
    else (s.hold a).done tag (.holdDrive ((s.drive a).condition == .held) (s.drive a).condition)

/-- RELEASE_DRIVE (R149). -/
def ownReleaseDrive (tag : Word16) (address : Byte) (s : State) : State :=
  match driveOf address with
  | none => s.refuse tag .badParameter
  | some a =>
    if (s.drive a).condition ≠ .held then s.refuse tag .wrongState
    else if (s.drive a).relay ≠ .none then s.refuse tag .busy
    else if (s.drive a).releasePending then s.done tag .empty
    else (s.modDrive a fun d => { d with releasePending := true, statusRequested := true }).done tag .empty

/-- PASS_TO_DRIVE (R151). -/
def ownPassToDrive (tag : Word16) (address count : Byte) (bytes : List Byte) (s : State) : State :=
  match driveOf address with
  | none => s.refuse tag .badParameter
  | some a =>
    if 1 ≤ count.toNat ∧ count.toNat ≤ 32 ∧ bytes.length = count.toNat then
      if (s.drive a).condition ≠ .held ∨ (s.drive a).releasePending = true then s.refuse tag .wrongState
      else if (s.drive a).relay ≠ .none then s.refuse tag .busy
      else s.modDrive a fun d => { d with relay := .pending tag bytes }
    else s.refuse tag .badParameter

/-! ### Watches and faults (R166, R170, R175, R176) -/

/-- BOOK_WATCH (R166). -/
def ownBookWatch (tag : Word16) (id : Byte) (fields : WatchFields) (s : State) : State :=
  match finOf 16 id with
  | none => s.refuse tag .badParameter
  | some w =>
    match readBooking fields with
    | none => s.refuse tag .badParameter
    | some b => if (s.watch w).isSome then s.refuse tag .inUse else (s.setWatch w (some b)).done tag .empty

/-- A command on a booked watch (R170): what the watch becomes is `after`. -/
def changeBooked (tag : Word16) (id : Byte) (after : Booking → Option Booking) (s : State) : State :=
  match finOf 16 id with
  | none => s.refuse tag .badParameter
  | some w =>
    match s.watch w with
    | none => s.refuse tag .wrongState
    | some b => (s.changeWatch w b after).done tag (.watch b.fired b.suspension)

/-- CANCEL_WATCH (R170). -/
def ownCancelWatch (tag : Word16) (id : Byte) (s : State) : State := changeBooked tag id (fun _ => none) s

/-- REARM_WATCH (R170). -/
def ownRearmWatch (tag : Word16) (id : Byte) (s : State) : State :=
  changeBooked tag id (fun b => some { b with fired := false }) s

/-- RELEASE_WATCH (R170). -/
def ownReleaseWatch (tag : Word16) (id : Byte) (s : State) : State := changeBooked tag id (fun b => some b) s

/-- What READ_FAULTS reports (R176). -/
def faultsReport (s : State) : FaultsReport :=
  { halted := s.monitor.halted, faults := FaultKind.all.map s.fault, notices := s.ret.outbox.length,
    watches := allWatches.map s.watch }

/-- READ_FAULTS (R176). -/
def ownReadFaults (tag : Word16) (s : State) : State := s.done tag (.faults s.faultsReport)

/-- One fault kind is cleared (R176), with the store log's count it is tied to (R32). -/
def clearFault (s : State) (k : FaultKind) : State :=
  let s1 := s.setFault k { s.fault k with pending := false, count := 0, firstScope := none }
  match k with
  | .storeCorrected => s1.modStore fun st => { st with corrected := 0 }
  | .storeUncorrectable => s1.modStore fun st => { st with flawed := 0 }
  | .sequence | .stray | .overrun | .storeFull | .driveSilent | .driveWriteFail | .noticeOverflow
  | .controlMalformed | .ingestLoss => s1

/-- CLEAR_FAULTS (R176). A kind named twice is cleared once, and its count is reported for each naming (log 16). -/
def ownClearFaults (tag : Word16) (count : Byte) (kinds : List Byte) (s : State) : State :=
  if 1 ≤ count.toNat ∧ count.toNat ≤ 11 ∧ kinds.length = count.toNat then
    match readKinds kinds with
    | none => s.refuse tag .badParameter
    | some ks => (ks.foldl clearFault s).done tag (.clearedCounts (ks.map fun k => (s.fault k).count))
  else s.refuse tag .badParameter

/-- One fault kind takes a new action (R175). -/
def setAction (s : State) (p : FaultKind × FaultAction) : State :=
  s.setFault p.1 { s.fault p.1 with action := p.2 }

/-- SET_FAULT_ACTIONS (R175). -/
def ownSetFaultActions (tag : Word16) (count : Byte) (pairs : List (Byte × Byte)) (s : State) : State :=
  if 1 ≤ count.toNat ∧ count.toNat ≤ 11 ∧ pairs.length = count.toNat then
    match readActions pairs with
    | none => s.refuse tag .badParameter
    | some ps => (ps.foldl setAction s).done tag (.formerActions (ps.map fun p => (s.fault p.1).action))
  else s.refuse tag .badParameter

/-! ### The part (R160, R161) -/

/-- IDENTIFY (R160). -/
def ownIdentify (tag : Word16) (s : State) : State := s.done tag (.identify s.monitor.halted)

end State

/-- The return path after RESET_PART (R161 step 3, R162): the unit being sent is finished, and every queued reply is
kept. An ask being sent has no context waiting on it any more (R92). -/
def ReturnPath.afterReset (r : ReturnPath) : ReturnPath :=
  { sending :=
      match r.sending with
      | some (.ask a _) => some (.ask a false)
      | some (.flow f) => some (.flow f)
      | some (.reply q) => some (.reply q)
      | some (.notice n) => some (.notice n)
      | none => none
    flowSet := [], asks := [], replies := r.replies, outbox := [] }

/-- The store after RESET_PART (R35): the contents stay, and every slot is free. -/
def Store.afterReset (st : Store) : Store :=
  { Store.reset with freeList := allSlots, sweeping := false, dram := st.dram, flips := st.flips }

namespace State

/-- The reset of RESET_PART (R161 step 2). -/
def resetPart (s : State) : State :=
  { State.reset with
    store := s.store.afterReset, burn := s.resetBurn, ret := s.ret.afterReset, linkUp := s.linkUp,
    controlQueue := s.controlQueue, pending := s.pending, freshIndex := s.freshIndex }

/-- RESET_PART (R161): the DONE reply is queued, then the reset is taken. -/
def ownResetPart (tag : Word16) (s : State) : State := (s.done tag (.resetPart s.monitor.halted)).resetPart

end State

/-- The commands taken while the part is HALTED (R158). -/
def takenInHalted : Command → Bool
  | .identify => true
  | .readFaults => true
  | .storeStatus _ _ => true
  | .resetPart => true
  | .configureStream _ _ | .startStream _ | .stopStream _ | .abortStream _ | .streamStatus _ | .setStore _
  | .purgeDirectory _ | .readDirectory _ _ | .loadPlan _ _ _ | .readPlan _ | .engineStatus | .setSlotPattern _ _
  | .setLink _ _ | .survey | .driveStatus _ | .holdDrive _ | .releaseDrive _ | .passToDrive _ _ _ | .bookWatch _ _
  | .cancelWatch _ | .rearmWatch _ | .releaseWatch _ | .clearFaults _ _ | .setFaultActions _ _ => false

namespace State

/-- A command goes to its owning rule (R156 step 5, "Command catalogue"). -/
def owner (tag : Word16) (c : Command) (s : State) : State :=
  match c with
  | .configureStream id f => ownConfigureStream tag id f s
  | .startStream id => ownStartStream tag id s
  | .stopStream id => ownStopStream tag id s
  | .abortStream id => ownAbortStream tag id s
  | .streamStatus id => ownStreamStatus tag id s
  | .setStore v => ownSetStore tag v s
  | .storeStatus p x => ownStoreStatus tag p x s
  | .purgeDirectory id => ownPurgeDirectory tag id s
  | .readDirectory k n => ownReadDirectory tag k n s
  | .loadPlan p n steps => ownLoadPlan tag p n steps s
  | .readPlan p => ownReadPlan tag p s
  | .engineStatus => ownEngineStatus tag s
  | .setSlotPattern id p => ownSetSlotPattern tag id p s
  | .setLink f m => ownSetLink tag f m s
  | .survey => ownSurvey tag s
  | .driveStatus a => ownDriveStatus tag a s
  | .holdDrive a => ownHoldDrive tag a s
  | .releaseDrive a => ownReleaseDrive tag a s
  | .passToDrive a n bytes => ownPassToDrive tag a n bytes s
  | .bookWatch w f => ownBookWatch tag w f s
  | .cancelWatch w => ownCancelWatch tag w s
  | .rearmWatch w => ownRearmWatch tag w s
  | .releaseWatch w => ownReleaseWatch tag w s
  | .readFaults => ownReadFaults tag s
  | .clearFaults n ks => ownClearFaults tag n ks s
  | .setFaultActions n ps => ownSetFaultActions tag n ps s
  | .identify => ownIdentify tag s
  | .resetPart => ownResetPart tag s

/-- The detail of CONTROL_MALFORMED (R157): the reason code above the tag, which is 0 for reason code 1. -/
def malformedDetail (code : Nat) (tag : Word16) : Word32 :=
  BitVec.ofNat 16 code ++ (if code = 1 then 0#16 else tag)

/-- A malformed unit is discarded, and CONTROL_MALFORMED is raised (R157). -/
def malformed (code : Nat) (tag : Word16) (s : State) : State :=
  s.raise .controlMalformed 0 (malformedDetail code tag)

/-- The common checks, in order (R156). -/
def judgeUnit (u : ControlUnit) (s : State) : State :=
  match u.form with
  | .malformed code => s.malformed code u.tag
  | .unknown => if s.store.sweeping then s.refuse u.tag .starting else s.refuse u.tag .unknownCommand
  | .command c =>
    if s.store.sweeping then s.refuse u.tag .starting
    else if s.monitor.halted && !takenInHalted c then s.refuse u.tag .halted
    else owner u.tag c s

/-- The unit at the head of the control queue is taken (R155). -/
def takeUnit (s : State) : State :=
  match s.controlQueue with
  | [] => s
  | u :: rest => judgeUnit u { s with controlQueue := rest }

/-- The interpreter can take a unit: one waits, and an immediate reply has a free place (R155, R162). -/
def canTake (s : State) : Bool := !s.controlQueue.isEmpty && decide (s.ret.immediates < Config.immediateReplies)

/-- The interpreter takes units while it can; the return path begins its next unit after each. -/
def drainFor : Nat → State → State
  | 0, s => s
  | n + 1, s => if s.canTake then drainFor n (s.takeUnit).kick else s

/-- The interpreter and the return path come to rest (R155, R163; log 4, log 5). The queue holds at most eight units. -/
def settle (s : State) : State := drainFor 9 s.kick

/-- A unit on stream 0 reaches the control queue (R155): a full queue discards it as malformed with reason code 4. -/
def enqueueUnit (u : ControlUnit) (s : State) : State :=
  if s.controlQueue.length < Config.controlQueueDepth then { s with controlQueue := s.controlQueue ++ [u] }
  else s.malformed 4 u.tag

/-- A unit on stream 0 arrives (R155). -/
def arriveControl (u : ControlUnit) (s : State) : State := (enqueueUnit u s).settle

end State

end Sys2Proof.Machine
end

