-- ==== Sys2Proof/Machine/PartEvents.lean ====
section
/-! DEFINITION. Meanings of the events of the part, its ingest link and its return path: POWER_ON, SWEEP_COMPLETION,
LINK_DOWN, LINK_UP, RETURN_UNIT_END (R20, R34, R163, R164). -/

namespace Sys2Proof.Machine

/-- The outcome type of every meaning. -/
abbrev Out := Host.Outcome State Fault Refusal

namespace State

/-- Power-on (R34 and the reset values of every block): the queue of commands waiting and the counter of free values are
the model's own and stay. -/
def poweredOn (s : State) : State := { State.reset with pending := s.pending, freshIndex := s.freshIndex }

/-- The sweep's last slot is written (R34, R26): zero data with matching check words everywhere, every slot free. -/
def sweepDone (s : State) : State :=
  if s.store.sweeping then
    s.modStore fun st => { st with sweeping := false, freeList := allSlots, holders := [], dram := [], flips := [] }
  else s

/-- The ingest link goes DOWN (R20): INGEST_LOSS is raised. -/
def linkLost (s : State) : State :=
  if s.linkUp then { s with linkUp := false }.raise .ingestLoss 0 0 else s

/-- The ingest link comes UP (R20, R19, R163): the flow set is rebuilt, then sending resumes. -/
def linkReturned (s : State) : State :=
  if s.linkUp then s else { s with linkUp := true, ret := { s.ret with flowSet := s.rebuiltFlow } }.settle

/-- A return unit ends (R163, R164): the arbiter starts the next one, and the interpreter goes on when a reply's place
has come free (R155). -/
def returnUnitEnded (s : State) : State := if s.ret.sending.isSome then s.unitSent.settle else s

end State

/-- POWER_ON. -/
def execPowerOn (s : State) : Out := .next s.poweredOn

/-- SWEEP_COMPLETION. -/
def execSweepCompletion (s : State) : Out := .next s.sweepDone

/-- LINK_DOWN. -/
def execLinkDown (s : State) : Out := .next s.linkLost

/-- LINK_UP. -/
def execLinkUp (s : State) : Out := .next s.linkReturned

/-- RETURN_UNIT_END (R163, R164). -/
def execReturnUnitEnd (s : State) : Out := .next s.returnUnitEnded

end Sys2Proof.Machine
end

