-- ==== Sys2Proof/Machine/BurnEvents.lean ====
section
/-! DEFINITION. Meanings of the burn link's events: the poll timer, turn boundaries, the end of units and reads, the
drives' answers, missed answers, relay windows (R115, R118, R121 to R134). An answer that is not taken changes nothing
(R115). -/

namespace Sys2Proof.Machine

/-- The unit kinds sent by drives (12 "Burn link units"). -/
abbrev kindPresenceAnswer : Byte := 0x21
abbrev kindStatusAnswer : Byte := 0x22
abbrev kindSpaceOk : Byte := 0x23
abbrev kindSpaceNo : Byte := 0x24
abbrev kindWriteDone : Byte := 0x25
abbrev kindWriteFail : Byte := 0x26
abbrev kindDriveAnswer : Byte := 0x27

namespace State

/-- The exchange an answer of a kind ends: accepted (R178), inside an open window of the right sort, from the address
asked (R115). -/
def answering (s : State) (kind : Byte) (w : WindowKind) (u : BurnAnswer) : Option Exchange :=
  if burnAccepted kind u then s.openWindow w u.address else none

/-- An answer with news (R128): taken by `take`, or ignored. -/
def answerNews (s : State) (kind : Byte) (w : WindowKind) (u : BurnAnswer) (take : State → Exchange → News → State) :
    State :=
  match s.answering kind w u, readNewsBody u.body with
  | some e, some n => (take s e n).kick
  | _, _ => s

/-- A WRITE_DONE (R124). -/
def answerDone (s : State) (u : BurnAnswer) : State :=
  match s.answering kindWriteDone .done u, readDoneBody u.body with
  | some e, some capacity => (s.takeWriteDone e capacity).kick
  | _, _ => s

/-- A DRIVE_ANSWER, which answers a STATUS_ASK while a relay is outstanding (R115, R134). -/
def answerRelay (s : State) (u : BurnAnswer) : State :=
  match s.answering kindDriveAnswer .status u, readDriveBytes u.body with
  | some e, some bytes => if s.relayOpen e.drive then (s.takeDriveAnswer e bytes).kick else s
  | _, _ => s

/-- The poll timer expires (R129): a stopped timer has no expiry (log 1). -/
def pollExpired (s : State) : State :=
  if s.burn.pollRunning then s.modBurn fun b => { b with pollDue := true } else s

/-- A relay window of 2 s expires (R134). -/
def relayExpired (s : State) (a : DriveIx) : State :=
  if s.relayOpen a then (s.endRelay a (.refused .noAnswer)).kick else s

end State

/-- POLL_TIMER_EXPIRY (R129). -/
def execPollTimerExpiry (s : State) : Out := .next s.pollExpired

/-- TURN_BOUNDARY (R118). -/
def execTurnBoundary (s : State) : Out := .next s.turnBoundary

/-- BURN_UNIT_END (R115). -/
def execBurnUnitEnd (s : State) : Out := .next s.burnUnitSent

/-- BURN_READ_COMPLETION (R123). -/
def execBurnReadCompletion (k : Byte) (flips : List Flip) (s : State) : Out :=
  .next (s.burnReadDone k.toNat flips)

/-- PRESENCE_ANSWER (R128, R130). -/
def execPresenceAnswer (u : BurnAnswer) (s : State) : Out :=
  .next (s.answerNews kindPresenceAnswer .presence u State.takePresence)

/-- STATUS_ANSWER (R128). -/
def execStatusAnswer (u : BurnAnswer) (s : State) : Out :=
  .next (s.answerNews kindStatusAnswer .status u State.takeStatus)

/-- SPACE_OK (R121). -/
def execSpaceOk (u : BurnAnswer) (s : State) : Out := .next (s.answerNews kindSpaceOk .space u State.takeSpaceOk)

/-- SPACE_NO (R121). -/
def execSpaceNo (u : BurnAnswer) (s : State) : Out := .next (s.answerNews kindSpaceNo .space u State.takeSpaceNo)

/-- WRITE_DONE (R124). -/
def execWriteDone (u : BurnAnswer) (s : State) : Out := .next (s.answerDone u)

/-- WRITE_FAIL (R125). -/
def execWriteFail (u : BurnAnswer) (s : State) : Out :=
  .next (s.answerNews kindWriteFail .done u State.takeWriteFail)

/-- DRIVE_ANSWER (R134). -/
def execDriveAnswer (u : BurnAnswer) (s : State) : Out := .next (s.answerRelay u)

/-- MISSED_ANSWER (R126). -/
def execMissedAnswer (s : State) : Out := .next s.windowMissed

/-- RELAY_WINDOW_EXPIRY (R134). -/
def execRelayWindowExpiry (a : Fin 8) (s : State) : Out := .next (s.relayExpired a)

end Sys2Proof.Machine
end

