-- ==== Sys2Proof/Machine/Commands.lean ====
section
/-! DEFINITION. Meanings of the command rows: the arrival, intact, of the control unit of each command, which joins the
control queue and is taken by its owning rule as soon as the interpreter can (R154 to R156; log 4). The owning rules stand
in Control.lean. -/

namespace Sys2Proof.Machine

namespace State

/-- The control unit of a command arrives (R155; log 4). -/
def command (s : State) (tag : Word16) (c : Command) : State := s.arriveControl { tag := tag, form := commandForm c }

end State

/-- UNKNOWN_COMMAND (R156): a control unit whose code names no command. -/
def execUnknownCommand (tag : Word16) (code : Byte) (params : List Byte) (s : State) : Out :=
  .next (s.arriveControl { tag := tag, form := readCommand code params })

/-- CONFIGURE_STREAM (R2). -/
def execConfigureStream (tag : Word16) (stream : Byte) (fields : ConfigFields) (s : State) : Out :=
  .next (s.command tag (.configureStream stream fields))

/-- START_STREAM (R13). -/
def execStartStream (tag : Word16) (stream : Byte) (s : State) : Out :=
  .next (s.command tag (.startStream stream))

/-- STOP_STREAM (R15). -/
def execStopStream (tag : Word16) (stream : Byte) (s : State) : Out :=
  .next (s.command tag (.stopStream stream))

/-- ABORT_STREAM (R17). -/
def execAbortStream (tag : Word16) (stream : Byte) (s : State) : Out :=
  .next (s.command tag (.abortStream stream))

/-- STREAM_STATUS (R22). -/
def execStreamStatus (tag : Word16) (stream : Byte) (s : State) : Out :=
  .next (s.command tag (.streamStatus stream))

/-- SET_STORE (R30). -/
def execSetStore (tag : Word16) (setting : Byte) (s : State) : Out :=
  .next (s.command tag (.setStore setting))

/-- STORE_STATUS (R31). -/
def execStoreStatus (tag : Word16) (present : Byte) (slot : Word16) (s : State) : Out :=
  .next (s.command tag (.storeStatus present slot))

/-- PURGE_DIRECTORY (R48). -/
def execPurgeDirectory (tag : Word16) (stream : Byte) (s : State) : Out :=
  .next (s.command tag (.purgeDirectory stream))

/-- READ_DIRECTORY (R51). -/
def execReadDirectory (tag : Word16) (first : Byte) (count : Byte) (s : State) : Out :=
  .next (s.command tag (.readDirectory first count))

/-- LOAD_PLAN (R54). -/
def execLoadPlan (tag : Word16) (plan : Byte) (count : Byte) (steps : List StepFields) (s : State) : Out :=
  .next (s.command tag (.loadPlan plan count steps))

/-- READ_PLAN (R56). -/
def execReadPlan (tag : Word16) (plan : Byte) (s : State) : Out :=
  .next (s.command tag (.readPlan plan))

/-- ENGINE_STATUS (R91). -/
def execEngineStatus (tag : Word16) (s : State) : Out :=
  .next (s.command tag .engineStatus)

/-- SET_SLOT_PATTERN (R96). -/
def execSetSlotPattern (tag : Word16) (stream : Byte) (pattern : Byte) (s : State) : Out :=
  .next (s.command tag (.setSlotPattern stream pattern))

/-- SET_LINK (R117). -/
def execSetLink (tag : Word16) (factor : Byte) (mode : Byte) (s : State) : Out :=
  .next (s.command tag (.setLink factor mode))

/-- SURVEY (R131). -/
def execSurvey (tag : Word16) (s : State) : Out :=
  .next (s.command tag .survey)

/-- DRIVE_STATUS (R152). -/
def execDriveStatus (tag : Word16) (address : Byte) (s : State) : Out :=
  .next (s.command tag (.driveStatus address))

/-- HOLD_DRIVE (R148). -/
def execHoldDrive (tag : Word16) (address : Byte) (s : State) : Out :=
  .next (s.command tag (.holdDrive address))

/-- RELEASE_DRIVE (R149). -/
def execReleaseDrive (tag : Word16) (address : Byte) (s : State) : Out :=
  .next (s.command tag (.releaseDrive address))

/-- PASS_TO_DRIVE (R151). -/
def execPassToDrive (tag : Word16) (address : Byte) (count : Byte) (bytes : List Byte) (s : State) : Out :=
  .next (s.command tag (.passToDrive address count bytes))

/-- BOOK_WATCH (R166). -/
def execBookWatch (tag : Word16) (watch : Byte) (fields : WatchFields) (s : State) : Out :=
  .next (s.command tag (.bookWatch watch fields))

/-- CANCEL_WATCH (R170). -/
def execCancelWatch (tag : Word16) (watch : Byte) (s : State) : Out :=
  .next (s.command tag (.cancelWatch watch))

/-- REARM_WATCH (R170). -/
def execRearmWatch (tag : Word16) (watch : Byte) (s : State) : Out :=
  .next (s.command tag (.rearmWatch watch))

/-- RELEASE_WATCH (R170). -/
def execReleaseWatch (tag : Word16) (watch : Byte) (s : State) : Out :=
  .next (s.command tag (.releaseWatch watch))

/-- READ_FAULTS (R176). -/
def execReadFaults (tag : Word16) (s : State) : Out :=
  .next (s.command tag .readFaults)

/-- CLEAR_FAULTS (R176). -/
def execClearFaults (tag : Word16) (count : Byte) (kinds : List Byte) (s : State) : Out :=
  .next (s.command tag (.clearFaults count kinds))

/-- SET_FAULT_ACTIONS (R175). -/
def execSetFaultActions (tag : Word16) (count : Byte) (pairs : List (Byte × Byte)) (s : State) : Out :=
  .next (s.command tag (.setFaultActions count pairs))

/-- IDENTIFY (R160). -/
def execIdentify (tag : Word16) (s : State) : Out :=
  .next (s.command tag .identify)

/-- RESET_PART (R161). -/
def execResetPart (tag : Word16) (s : State) : Out :=
  .next (s.command tag .resetPart)

end Sys2Proof.Machine
end

