-- ==== Sys2Proof/Machine/EngineEvents.lean ====
section
/-! DEFINITION. Meanings of CADENCE_EXPIRY and of the Repair Engine's events: COMPOSE_COMPLETION, VERIFY_COMPLETION,
REFETCH_TIMER_EXPIRY (R62, R64, R66, R76, R82, R83, R94). An event that cannot occur in the state changes nothing
(log 1). -/

namespace Sys2Proof.Machine

namespace State

/-- An expiry, and the work contexts it frees then take (R94, R72). -/
def cadenceEvent (s : State) (i : StreamIx) : State :=
  if (s.stream i).cadence.running then (s.cadenceExpired i).takeWork.kick else s

/-- A compose completes (R62, R66, R76): the bits given have flipped by then (log 8). -/
def composeCompleted (s : State) (c : Fin 4) (flips : List Flip) : State :=
  match s.context c with
  | none => s
  | some b =>
    let s1 := s.modStore (·.strikeAll flips)
    match b.op with
    | .neighbour inputs result gen => (s1.composeDone c b result inputs [] gen).takeWork.kick
    | .blend d succNumber y result =>
      (s1.composeDone c b result [d.slot, y] [d.number, succNumber] d.generation).takeWork.kick
    | .verify _ => s
    | .refetch _ _ _ _ _ => s

/-- A verify completes (R64, R76). -/
def verifyCompleted (s : State) (c : Fin 4) (flips : List Flip) : State :=
  match s.context c with
  | none => s
  | some b =>
    match b.op with
    | .verify d => ((s.modStore (·.strikeAll flips)).verifyDone c b d).takeWork.kick
    | .neighbour _ _ _ | .blend _ _ _ _ | .refetch _ _ _ _ _ => s

/-- A running refetch timer reaches its end (R82). -/
def refetchTimerEnded (s : State) (c : Fin 4) : State :=
  match s.context c with
  | none => s
  | some b =>
    match b.op with
    | .refetch tryNo left wait _ true => (s.refetchExpired c b tryNo left wait).takeWork.kick
    | .refetch _ _ _ _ false => s
    | .neighbour _ _ _ | .blend _ _ _ _ | .verify _ => s

end State

/-- CADENCE_EXPIRY (R94). -/
def execCadenceExpiry (i : Fin 12) (s : State) : Out := .next (s.cadenceEvent i)

/-- COMPOSE_COMPLETION (R76). -/
def execComposeCompletion (c : Fin 4) (flips : List Flip) (s : State) : Out := .next (s.composeCompleted c flips)

/-- VERIFY_COMPLETION (R64). -/
def execVerifyCompletion (c : Fin 4) (flips : List Flip) (s : State) : Out := .next (s.verifyCompleted c flips)

/-- REFETCH_TIMER_EXPIRY (R82). -/
def execRefetchTimerExpiry (c : Fin 4) (s : State) : Out := .next (s.refetchTimerEnded c)

end Sys2Proof.Machine
end

