-- ==== Sys2Proof/Machine/IngestUnits.lean ====
section
/-! DEFINITION. Meanings of the units that arrive on the ingest link: acceptance, routing, and the frame units (R6 to R12,
R154, R155, R178). -/

namespace Sys2Proof.Machine

namespace State

/-- A unit to a stream 1 to 12 is discarded before routing: a frame unit during the sweep and while the part is HALTED
(R6, R174), a unit of another kind during the sweep, in which no such unit is STRAY (R171; log 13). -/
def discards (s : State) (kind : Byte) : Bool :=
  s.store.sweeping || (s.monitor.halted && (kind == kindFrameOpen || kind == kindStripe || kind == kindFrameClose))

/-- A FRAME_OPEN unit to a stream (R7, R178): one of the wrong length is STRAY. -/
def routeFrameOpen (s : State) (i : StreamIx) (body : List Byte) : State :=
  match readFrameOpenBody body with
  | some (number, timecode) => (s.takeFrameOpen i number timecode).takeWork
  | none => s.stray i (carriedNumber kindFrameOpen body)

/-- A STRIPE unit to a stream, with or without the resend flag (R8, R10, R178): one shorter than 8 bytes is STRAY. -/
def routeStripe (s : State) (i : StreamIx) (body : List Byte) : State :=
  match readStripeBody body with
  | some b => if b.resend then (s.takeResend i b).takeWork else s.takeStripeUnit i b
  | none => s.stray i (carriedNumber kindStripe body)

/-- A FRAME_CLOSE unit to a stream (R12, R178). -/
def routeFrameClose (s : State) (i : StreamIx) (body : List Byte) : State :=
  match readFrameCloseBody body with
  | some number => (s.takeFrameClose i number).takeWork
  | none => s.stray i (carriedNumber kindFrameClose body)

/-- A unit to a stream 1 to 12, by its kind (R6). -/
def routeStream (s : State) (i : StreamIx) (kind : Byte) (body : List Byte) : State :=
  if s.discards kind then s
  else if kind = kindFrameOpen then s.routeFrameOpen i body
  else if kind = kindStripe then s.routeStripe i body
  else if kind = kindFrameClose then s.routeFrameClose i body
  else s.stray i (carriedNumber kind body)

/-- An accepted unit, by its stream field (R6). -/
def route (s : State) (kind stream : Byte) (body : List Byte) : State :=
  if stream = 0 then s.arriveControl (readControl kind body)
  else
    match streamOf stream with
    | some i => (s.routeStream i kind body).kick
    | none => (s.raise .stray 0 (carriedNumber kind body)).kick

/-- A unit at the Ingest Port (R6, R178): one that fails a test of acceptance has no effect. -/
def receive (s : State) (kind : Byte) (u : IngestUnit) : State :=
  if ingestAccepted kind u then s.route kind u.stream u.body else s

/-- A run of bytes between the link's framing marks (R178): one too short to be a unit has no effect. -/
def receiveBytes (s : State) (bytes : List Byte) : State :=
  match frameIngest bytes with
  | some (kind, u) => s.receive kind u
  | none => s

end State

/-- FRAME_OPEN (R7). -/
def execFrameOpen (u : IngestUnit) (s : State) : Out := .next (s.receive kindFrameOpen u)

/-- STRIPE without the resend flag (R8, R9). -/
def execStripe (u : IngestUnit) (s : State) : Out := .next (s.receive kindStripe u)

/-- STRIPE with the resend flag (R10, R80, R81). -/
def execStripeResend (u : IngestUnit) (s : State) : Out := .next (s.receive kindStripe u)

/-- FRAME_CLOSE (R12). -/
def execFrameClose (u : IngestUnit) (s : State) : Out := .next (s.receive kindFrameClose u)

/-- CONTROL (R154 to R157). -/
def execControl (u : IngestUnit) (s : State) : Out := .next (s.receive kindControl u)

/-- UNKNOWN_UNIT_KIND: any unit that arrives, as its bytes (R6, R178). -/
def execUnknownUnitKind (bytes : List Byte) (s : State) : Out := .next (s.receiveBytes bytes)

end Sys2Proof.Machine
end

