-- ==== Sys2Proof/Machine/Dispatch.lean ====
section
/-! DEFINITION. The effect of each command on everything but the queue of commands waiting: one arm per constructor of
Instr, one meaning each. -/

namespace Sys2Proof.Machine

def exec (i : Instr) (s : State) : Host.Outcome State Fault Refusal :=
  match i with
  | .powerOn => Sys2Proof.Machine.execPowerOn s
  | .sweepCompletion => Sys2Proof.Machine.execSweepCompletion s
  | .linkDown => Sys2Proof.Machine.execLinkDown s
  | .linkUp => Sys2Proof.Machine.execLinkUp s
  | .frameOpen u => Sys2Proof.Machine.execFrameOpen u s
  | .stripe u => Sys2Proof.Machine.execStripe u s
  | .stripeResend u => Sys2Proof.Machine.execStripeResend u s
  | .frameClose u => Sys2Proof.Machine.execFrameClose u s
  | .control u => Sys2Proof.Machine.execControl u s
  | .unknownCommand tag code params => Sys2Proof.Machine.execUnknownCommand tag code params s
  | .configureStream tag stream fields => Sys2Proof.Machine.execConfigureStream tag stream fields s
  | .startStream tag stream => Sys2Proof.Machine.execStartStream tag stream s
  | .stopStream tag stream => Sys2Proof.Machine.execStopStream tag stream s
  | .abortStream tag stream => Sys2Proof.Machine.execAbortStream tag stream s
  | .streamStatus tag stream => Sys2Proof.Machine.execStreamStatus tag stream s
  | .setStore tag setting => Sys2Proof.Machine.execSetStore tag setting s
  | .storeStatus tag present slot => Sys2Proof.Machine.execStoreStatus tag present slot s
  | .purgeDirectory tag stream => Sys2Proof.Machine.execPurgeDirectory tag stream s
  | .readDirectory tag first count => Sys2Proof.Machine.execReadDirectory tag first count s
  | .loadPlan tag plan count steps => Sys2Proof.Machine.execLoadPlan tag plan count steps s
  | .readPlan tag plan => Sys2Proof.Machine.execReadPlan tag plan s
  | .engineStatus tag => Sys2Proof.Machine.execEngineStatus tag s
  | .setSlotPattern tag stream pattern => Sys2Proof.Machine.execSetSlotPattern tag stream pattern s
  | .setLink tag factor mode => Sys2Proof.Machine.execSetLink tag factor mode s
  | .survey tag => Sys2Proof.Machine.execSurvey tag s
  | .driveStatus tag address => Sys2Proof.Machine.execDriveStatus tag address s
  | .holdDrive tag address => Sys2Proof.Machine.execHoldDrive tag address s
  | .releaseDrive tag address => Sys2Proof.Machine.execReleaseDrive tag address s
  | .passToDrive tag address count bytes => Sys2Proof.Machine.execPassToDrive tag address count bytes s
  | .bookWatch tag watch fields => Sys2Proof.Machine.execBookWatch tag watch fields s
  | .cancelWatch tag watch => Sys2Proof.Machine.execCancelWatch tag watch s
  | .rearmWatch tag watch => Sys2Proof.Machine.execRearmWatch tag watch s
  | .releaseWatch tag watch => Sys2Proof.Machine.execReleaseWatch tag watch s
  | .readFaults tag => Sys2Proof.Machine.execReadFaults tag s
  | .clearFaults tag count kinds => Sys2Proof.Machine.execClearFaults tag count kinds s
  | .setFaultActions tag count pairs => Sys2Proof.Machine.execSetFaultActions tag count pairs s
  | .identify tag => Sys2Proof.Machine.execIdentify tag s
  | .resetPart tag => Sys2Proof.Machine.execResetPart tag s
  | .cadenceExpiry stream => Sys2Proof.Machine.execCadenceExpiry stream s
  | .composeCompletion context flips => Sys2Proof.Machine.execComposeCompletion context flips s
  | .verifyCompletion context flips => Sys2Proof.Machine.execVerifyCompletion context flips s
  | .refetchTimerExpiry context => Sys2Proof.Machine.execRefetchTimerExpiry context s
  | .returnUnitEnd => Sys2Proof.Machine.execReturnUnitEnd s
  | .pollTimerExpiry => Sys2Proof.Machine.execPollTimerExpiry s
  | .turnBoundary => Sys2Proof.Machine.execTurnBoundary s
  | .burnUnitEnd => Sys2Proof.Machine.execBurnUnitEnd s
  | .burnReadCompletion stripe flips => Sys2Proof.Machine.execBurnReadCompletion stripe flips s
  | .presenceAnswer u => Sys2Proof.Machine.execPresenceAnswer u s
  | .statusAnswer u => Sys2Proof.Machine.execStatusAnswer u s
  | .spaceOk u => Sys2Proof.Machine.execSpaceOk u s
  | .spaceNo u => Sys2Proof.Machine.execSpaceNo u s
  | .writeDone u => Sys2Proof.Machine.execWriteDone u s
  | .writeFail u => Sys2Proof.Machine.execWriteFail u s
  | .driveAnswer u => Sys2Proof.Machine.execDriveAnswer u s
  | .missedAnswer => Sys2Proof.Machine.execMissedAnswer s
  | .relayWindowExpiry drive => Sys2Proof.Machine.execRelayWindowExpiry drive s
  | .unknownUnitKind bytes => Sys2Proof.Machine.execUnknownUnitKind bytes s

end Sys2Proof.Machine
end

