-- ==== Sys2Proof/Safety.lean ====
section
/-! DEFINITION. The predicates the statements speak of: when the interpreter is free, and the invariants that every step
keeps. -/

namespace Sys2Proof.Machine

/-- The return path is at rest: it sends a unit, the link is DOWN, or nothing is queued (R163). -/
def State.Rested (s : State) : Prop := s.kick = s

/-- The interpreter takes a command at the moment it arrives (R155): none waits, an immediate reply has a place, the return
path is at rest. -/
def State.TakesUnits (s : State) : Prop :=
  s.controlQueue = [] ∧ s.ret.immediates < Config.immediateReplies ∧ s.Rested

/-- A command arriving now reaches its owning rule (R156): the interpreter takes it, the sweep is over, and the part is
OPERATING. -/
def State.TakesCommands (s : State) : Prop :=
  s.TakesUnits ∧ s.store.sweeping = false ∧ s.monitor.halted = false

/-- Frame units to streams 1 to 12 are routed (R6): the sweep is over and the part is OPERATING. -/
def State.TakesFrames (s : State) : Prop := s.store.sweeping = false ∧ s.monitor.halted = false

/-- The store's tables are in canonical form: keys strictly rising, no entry equal to what an unlisted key reads as. -/
def State.StoreCanonical (s : State) : Prop :=
  Memory.wf s.store.dram = true ∧ Table.wf 0 s.store.holders = true ∧ Table.wf 0#64 s.store.flips = true

/-- The queues keep their bounds: eight control units, thirty-two immediate replies, thirty-two notices (R155, R162,
R177). -/
def State.QueuesFit (s : State) : Prop :=
  s.controlQueue.length ≤ Config.controlQueueDepth ∧ s.ret.immediates ≤ Config.immediateReplies ∧
    s.ret.outbox.length ≤ Config.outboxDepth

/-- Each drive's committed capacity is the sum of the sector needs of the frames its burn queue holds (R138). -/
def State.CommittedSums (s : State) : Prop :=
  ∀ a : DriveIx, (s.drive a).committed = ((s.drive a).queue.map (·.need)).sum

/-- A RESET_PART waits in the control queue. -/
def State.ResetWaits (s : State) : Prop := ∃ u ∈ s.controlQueue, u.form = .command .resetPart

/-- The part is HALTED, and nothing that waits in it will reset it (R158, R174). -/
def State.StaysHalted (s : State) : Prop := s.monitor.halted = true ∧ ¬ s.ResetWaits

/-- A command that brings a RESET_PART to the control queue: its own row, or a unit on stream 0 that carries one. -/
def bringsReset : Instr → Prop
  | .resetPart _ => True
  | .control u => (readControl kindControl u.body).form = .command .resetPart
  | .unknownCommand _ code params => readCommand code params = .command .resetPart
  | .unknownUnitKind bytes =>
    ∃ kind u, frameIngest bytes = some (kind, u) ∧ (readControl kind u.body).form = .command .resetPart
  | _ => False

/-- No context takes work: nothing is in the repair queue, or no context is FREE (R72). -/
def State.NoWork (s : State) : Prop := s.engine.queue = [] ∨ ∀ c, (s.context c).isSome = true

/-- The command row of a command of the catalogue. -/
def commandRow (tag : Word16) : Command → Instr
  | .configureStream id f => .configureStream tag id f
  | .startStream id => .startStream tag id
  | .stopStream id => .stopStream tag id
  | .abortStream id => .abortStream tag id
  | .streamStatus id => .streamStatus tag id
  | .setStore v => .setStore tag v
  | .storeStatus p x => .storeStatus tag p x
  | .purgeDirectory id => .purgeDirectory tag id
  | .readDirectory k n => .readDirectory tag k n
  | .loadPlan p n steps => .loadPlan tag p n steps
  | .readPlan p => .readPlan tag p
  | .engineStatus => .engineStatus tag
  | .setSlotPattern id p => .setSlotPattern tag id p
  | .setLink f m => .setLink tag f m
  | .survey => .survey tag
  | .driveStatus a => .driveStatus tag a
  | .holdDrive a => .holdDrive tag a
  | .releaseDrive a => .releaseDrive tag a
  | .passToDrive a n bytes => .passToDrive tag a n bytes
  | .bookWatch w f => .bookWatch tag w f
  | .cancelWatch w => .cancelWatch tag w
  | .rearmWatch w => .rearmWatch tag w
  | .releaseWatch w => .releaseWatch tag w
  | .readFaults => .readFaults tag
  | .clearFaults n ks => .clearFaults tag n ks
  | .setFaultActions n ps => .setFaultActions tag n ps
  | .identify => .identify tag
  | .resetPart => .resetPart tag

/-! ### What pieces of work make of a state, for the statements -/

/-- A watch condition occurs on the way from `s` to `t` (R167, R168): from the watches, the fault summary and the outbox
of `s`, the occurrence makes those of `t`. -/
def State.Occurred (s t : State) (k : WatchCondition) (scope : Nat) (detail : Word32) : Prop :=
  ∃ u : State, u.monitor = s.monitor ∧ u.ret.outbox = s.ret.outbox ∧
    t.monitor = (u.occur k scope detail).monitor ∧ t.ret.outbox = (u.occur k scope detail).ret.outbox

/-- Nothing was raised and nothing occurred on the way from `s` to `t`. -/
def State.Silent (s t : State) : Prop := t.monitor = s.monitor ∧ t.ret.outbox = s.ret.outbox

/-- A frame with stripe `k` in a resolved state (R4, R90): one stripe fewer is unresolved, and at 0 a CLOSED frame is
RESOLVED. -/
def FrameRec.withResolved (f : FrameRec) (k : Nat) (x : StripeRec) : FrameRec :=
  { f with
    stripes := f.stripes.set k x, unresolved := f.unresolved - 1
    state := if f.unresolved - 1 = 0 ∧ f.state = .closed then .resolved else f.state }

/-- A frame with its damage fixed at close (R4, R11): EXPECTED stripes are ABSENT, the counts, the close ordinal, and the
frame is RESOLVED or CLOSED. -/
def FrameRec.withDamageFixed (f : FrameRec) (o : Word48) : FrameRec :=
  { f with
    stripes := f.stripes.map fun x =>
      if x.state = .expected then { x with state := .damaged, cause := some .absent, slot := none } else x
    damaged := (f.stripes.filter fun x => x.state == .damaged || x.state == .expected).length
    unresolved := (f.stripes.filter fun x => x.state == .damaged || x.state == .expected).length
    ordinal := some o
    state := if (f.stripes.filter fun x => x.state == .damaged || x.state == .expected).length = 0 then .resolved
      else .closed }

/-- The repair queue holds a frame that has a close ordinal (R69, R70). -/
def State.Queued (t : State) (f : FrameRec) (i : StreamIx) : Prop :=
  ∀ o, f.ordinal = some o → ∃ q ∈ t.engine.queue, q.stream = i ∧ q.number = f.number

/-- `t` is what `s` becomes when the stripe `st` of frame `f`, named by job `j`, is MARKED with a method and the context is FREE
(R58, R68, R90). -/
def State.StripeMarked (s t : State) (c : Fin 4) (j : Job) (f : FrameRec) (st : StripeRec) (m : Method) : Prop :=
  t.context c = none ∧
  t.frame j.stream j.number = some (f.withResolved j.stripe { st with
    state := .marked, method := some m, donors := [], generation := none }) ∧
  (t.stream j.stream).counters = (s.stream j.stream).counters.set Counter.marked.ix
    ((s.stream j.stream).counters[Counter.marked.ix] + 1) ∧
  t.store = s.store ∧ t.dir = s.dir ∧ t.drives = s.drives ∧ t.ret = s.ret ∧ t.monitor = s.monitor ∧
  t.engine.queue = s.engine.queue

/-- `t` is what the failure of the first of `steps`, at index `ix` of the plan, makes of `s` (R58, R73), the stripe of job
`j` being `st` of frame `f`: with END or on the last step the stripe is MARKED with the step's method; otherwise the resume
step moves on and the next step begins, and should its immediate check fail it has failed in its turn; or the stripe returns
to DAMAGED and its frame to the queue when no step may start. -/
def State.StepsFail (c : Fin 4) (j : Job) : Nat → List PlanStep → FrameRec → StripeRec → State → State → Prop
  | _, [], _, _, _, _ => True
  | ix, step :: rest, f, st, s, t =>
    (step.onFail = .endPlan ∨ rest = [] → s.StripeMarked t c j f st step.method.name) ∧
    (∀ nxt : PlanStep, step.onFail = .next → rest.head? = some nxt →
      (s.monitor.halted = false → (s.stream j.stream).state ≠ .stopped →
        ∀ e v, (s.modStripe j fun x => { x with resume := ix + 1 }).beginStep c j (ix + 1) nxt.method = (e, v) →
          (e ≠ .failed → t = v) ∧
          (e = .failed → State.StepsFail c j (ix + 1) rest
            { f with stripes := f.stripes.set j.stripe { st with resume := ix + 1 } } { st with resume := ix + 1 } v t)) ∧
      (s.monitor.halted = true ∨ (s.stream j.stream).state = .stopped →
        t.context c = none ∧ t.Queued f j.stream ∧
        t.frame j.stream j.number = some { f with
          stripes := f.stripes.set j.stripe { st with state := .damaged, resume := ix + 1 } } ∧
        t.store = s.store ∧ t.dir = s.dir ∧ t.drives = s.drives ∧ t.ret = s.ret ∧ t.monitor = s.monitor))

/-- `t` is what the failure of the step a context runs makes of `s` (R58, R73), its stripe being `st` of frame `f`. -/
def State.StepFails (s t : State) (c : Fin 4) (b : Busy) (f : FrameRec) (st : StripeRec) : Prop :=
  State.StepsFail c b.job b.step ((s.jobSteps b.job).drop b.step) f st s t

/-- A stripe is usable as a neighbour (R60): SOUND, or REPAIRED by PREVIOUS, BLEND or REFETCH. -/
def StripeRec.UsableAsNeighbour (x : StripeRec) : Prop :=
  x.state = .sound ∨
    (x.state = .repaired ∧ (x.method = some .previous ∨ x.method = some .blend ∨ x.method = some .refetch))

/-- The inputs of a NEIGHBOUR step on stripe `k` of `n` (R61 check 1): the one other stripe beside an edge, with edge copy, or
the two beside an interior stripe. -/
def NeighbourInputs (n k : Nat) (edgeCopy : Bool) (ks : List Nat) : Prop :=
  1 < n ∧ ((k = 0 ∧ edgeCopy = true ∧ ks = [1]) ∨ (k ≠ 0 ∧ k = n - 1 ∧ edgeCopy = true ∧ ks = [n - 2]) ∨
    (0 < k ∧ k < n - 1 ∧ ks = [k - 1, k + 1]))

/-- `t` is what running the steps left of a plan, from index `ix` on, makes of `s` (R73), the stripe of job `j` being `st` of
frame `f`: the first begins, or fails at its immediate check. -/
def State.StepsRun (s t : State) (c : Fin 4) (j : Job) (ix : Nat) (steps : List PlanStep) (f : FrameRec)
    (st : StripeRec) : Prop :=
  ∀ step rest, steps = step :: rest → ∀ e v, s.beginStep c j ix step.method = (e, v) →
    (e ≠ .failed → t = v) ∧ (e = .failed → State.StepsFail c j ix steps f st v t)

/-- The stripe a FREE context takes next (R72): the part is OPERATING, and it is the lowest DAMAGED stripe `st` of the first
frame `f` in the queue whose stream is not STOPPED. -/
def State.NextStripe (s : State) (j : Job) (f : FrameRec) (st : StripeRec) : Prop :=
  s.monitor.halted = false ∧
  (∃ before r after, s.engine.queue = before ++ r :: after ∧ (∀ q ∈ before, (s.stream q.stream).state = .stopped) ∧
    (s.stream r.stream).state ≠ .stopped ∧ j.stream = r.stream ∧ j.number = r.number) ∧
  s.frame j.stream j.number = some f ∧ f.stripes[j.stripe]? = some st ∧ st.state = .damaged ∧
  ∀ m y, m < j.stripe → f.stripes[m]? = some y → y.state ≠ .damaged

/-- The FREE context whose turn it is, the turn standing at context `k` (R72; log 6): the lowest from `k` on, or the lowest of
all when those are busy. -/
def State.TurnOf (s : State) (k : Nat) (c : Fin 4) : Prop :=
  s.context c = none ∧
  ((k ≤ c.val ∧ ∀ d : Fin 4, k ≤ d.val → d < c → s.context d ≠ none) ∨
    (c.val < k ∧ (∀ d : Fin 4, k ≤ d.val → s.context d ≠ none) ∧ ∀ d : Fin 4, d < c → s.context d ≠ none))

/-- `t` is what context `c` makes of `s` when it takes the stripe `st` of frame `f` (R70, R72): the stripe is REPAIRING, the
frame leaves the queue when no other stripe of it is DAMAGED, nothing else changes; then the steps of the stripe's plan run
from its resume step on. -/
def State.Takes (s t : State) (c : Fin 4) (j : Job) (f : FrameRec) (st : StripeRec) : Prop :=
  ∀ (stripes : List StripeRec) (u : State), stripes = f.stripes.set j.stripe { st with state := .repairing } →
    u = { s.modStripe j fun x => { x with state := .repairing } with engine := { s.engine with
      queue := if ∃ y ∈ stripes, y.state = .damaged then s.engine.queue
        else s.engine.queue.filter fun r => !(r.stream == j.stream && r.number == j.number) } } →
    u.StepsRun t c j st.resume ((s.jobSteps j).drop st.resume) { f with stripes := stripes }
      { st with state := .repairing }

/-- `t` is what `n` rounds of taking work make of `s`, the turn standing at context `k` (R72; log 6): in each round the context
whose turn it is takes the next stripe, until none is FREE or there is none to take. -/
def State.WorkTaken : Nat → Nat → State → State → Prop
  | 0, _, s, t => t = s
  | n + 1, k, s, t =>
    ((∀ c, s.context c ≠ none) ∨ (∀ j f st, ¬ s.NextStripe j f st) → t = s) ∧
    (∀ c j f st, s.TurnOf k c → s.NextStripe j f st → ∃ u, s.Takes u c j f st ∧ State.WorkTaken n (c.val + 1) u t)

/-- The flow state of stream `i` is judged on the way from `s` to `t` (R19): from one that fits its pause reasons it comes to
fit them again, and a change queues the FLOW unit, which replaces an unsent one of the stream; no other stream's changes. -/
def State.FlowJudged (s t : State) (i : StreamIx) : Prop :=
  (∀ j, j ≠ i → (t.stream j).paused = (s.stream j).paused) ∧
  ((s.stream i).paused = s.pauseReason i →
    (t.stream i).paused = t.pauseReason i ∧
    t.ret.flowSet = (if (t.stream i).paused = (s.stream i).paused then s.ret.flowSet
      else (s.ret.flowSet.filter fun f => f.stream != i) ++ [{ stream := i, pause := (t.stream i).paused }]))

/-- `t` is what a failed try of a REFETCH step makes of `s` (R82, R83): the ask of the try is withdrawn; with tries left the
next ask is queued, or the stripe returns to DAMAGED and its frame to the queue when no step may start; on the last try
REFETCH_EXHAUSTED occurs and the step fails. -/
def State.TryFails (s t : State) (c : Fin 4) (b : Busy) (n left wait : Nat) (f : FrameRec) (st : StripeRec) : Prop :=
  (0 < left → s.monitor.halted = false → (s.stream b.job.stream).state ≠ .stopped →
    t.context c = some { b with op := .refetch (n + 1) (left - 1) wait false false } ∧
    t.ret.asks = (s.ret.asks.filter fun a => a.context != c) ++ [{ context := c, job := b.job, tryNo := n + 1 }] ∧
    t.streams = s.streams ∧ t.store = s.store ∧ t.dir = s.dir ∧ t.drives = s.drives ∧ t.monitor = s.monitor ∧
    t.ret.replies = s.ret.replies ∧ t.ret.outbox = s.ret.outbox) ∧
  (0 < left → s.monitor.halted = true ∨ (s.stream b.job.stream).state = .stopped →
    t.context c = none ∧ t.Queued f b.job.stream ∧
    t.frame b.job.stream b.job.number =
      some { f with stripes := f.stripes.set b.job.stripe { st with state := .damaged } } ∧
    t.ret.asks = (s.ret.asks.filter fun a => a.context != c) ∧ t.store = s.store ∧ t.dir = s.dir ∧
    t.drives = s.drives ∧ t.monitor = s.monitor) ∧
  (left = 0 → ∃ u : State, s.Occurred u .refetchExhausted (streamId b.job.stream) b.job.number ∧
    u.ret.asks = (s.ret.asks.filter fun a => a.context != c) ∧ u.store = s.store ∧ u.dir = s.dir ∧
    u.plans = s.plans ∧ u.engine = s.engine ∧ u.drives = s.drives ∧
    (∀ i, (u.stream i).window = (s.stream i).window ∧ (u.stream i).config = (s.stream i).config ∧
      (u.stream i).counters = (s.stream i).counters ∧ (u.stream i).state = (s.stream i).state) ∧
    u.StepFails t c b f st)

/-- The note of a frame record with its kind and output sequence (R106, R107): one entry for each stripe that was damaged
or is not SOUND, in ascending index. -/
def FrameRec.noteOf (g : FrameRec) (kind : FrameKind) (seq : Word32) : RepairNote :=
  { stream := g.stream, outSeq := seq, number := g.number, timecode := g.timecode, kind := kind, stripes := g.stripeCount
    entries := g.stripes.zipIdx.filterMap fun p =>
      if p.1.cause ≠ none ∨ p.1.state ≠ .sound then
        some { index := p.2, cause := p.1.cause, outcome := if p.1.state = .marked then .marked else .repaired,
               method := p.1.method, donors := p.1.donors, generation := p.1.generation }
      else none }

/-- A stripe still to be resolved when its frame is forced (R102). -/
def StripeRec.toForce (x : StripeRec) : Bool := x.state == .damaged || x.state == .repairing || x.state == .parked

/-- The donor a forced stripe finds (R40, R102): with fallback REFERENCE, a forcing-test lookup of its key. -/
def State.forcedDonor (s : State) (i : StreamIx) (cfg : StreamConfig) (n : Word32) (k : Nat) : Option Donor :=
  if cfg.fallback = .reference then s.dir.lookup i k (Directory.forcing n) else none

/-- The store after the give-up of a frame (R84, R86): each context that names it gives up its result slot, then its inputs,
in ascending context number (log 10). -/
def State.storeGivenUp (s : State) (i : StreamIx) (n : Word32) : Store :=
  allContexts.foldl (fun w c =>
    match s.context c with
    | some b =>
      if b.job.stream = i ∧ b.job.number = n then (b.op.result.toList ++ b.op.inputs).foldl Store.release w else w
    | none => w) s.store

/-- The store after the forcing of a frame (R102): after the give-up, each unresolved stripe that finds a donor, in ascending
index, claims the donor's slot and then gives up its arrival slot. -/
def State.storeForced (s : State) (i : StreamIx) (cfg : StreamConfig) (f : FrameRec) : Store :=
  f.stripes.zipIdx.foldl (fun w p =>
    match (if p.1.toForce = true then s.forcedDonor i cfg f.number p.2 else none) with
    | some d =>
      match p.1.slot with
      | some y => (w.claim d.slot).release y
      | none => w.claim d.slot
    | none => w) (s.storeGivenUp i f.number)

/-- `t` is what the forcing and the hand-off of the CLOSED frame `f` make of `s` (R43, R102, R103, R104), `g` being the
frame as it stands in the burn queue: its contexts cancelled, its place in the repair queue gone, every unresolved stripe
REPAIRED by FALLBACK or MARKED, the counters, the claims on the store, and then its insertion in the directory. -/
def State.Forced (s t : State) (i : StreamIx) (cfg : StreamConfig) (f g : FrameRec) : Prop :=
  (∀ c b, t.context c = some b → ¬(b.job.stream = i ∧ b.job.number = f.number)) ∧
  (∀ q ∈ t.engine.queue, ¬(q.stream = i ∧ q.number = f.number)) ∧
  g.stripes.length = f.stripes.length ∧
  (∀ k x, f.stripes[k]? = some x → g.stripes[k]? = some
    (if x.toForce = true then
       match s.forcedDonor i cfg f.number k with
       | some d => { x with
           state := .repaired, slot := some d.slot, method := some .fallback, donors := [d.number],
           generation := some d.generation }
       | none => { x with state := .marked, method := some .mark, donors := [], generation := none }
     else x)) ∧
  (t.stream i).counters[Counter.forcedFrames.ix] = (s.stream i).counters[Counter.forcedFrames.ix] + 1 ∧
  (t.stream i).counters[Counter.repairedFallback.ix] = (s.stream i).counters[Counter.repairedFallback.ix] +
    BitVec.ofNat 32 (f.stripes.zipIdx.filter fun p =>
      p.1.toForce && (s.forcedDonor i cfg f.number p.2).isSome).length ∧
  (t.stream i).counters[Counter.marked.ix] = (s.stream i).counters[Counter.marked.ix] +
    BitVec.ofNat 32 (f.stripes.zipIdx.filter fun p =>
      p.1.toForce && (s.forcedDonor i cfg f.number p.2).isNone).length ∧
  t.dir = ({ s with store := s.storeForced i cfg f }.insertFrame i f.number cfg.genLimit g.stripes).dir ∧
  t.store = ({ s with store := s.storeForced i cfg f }.insertFrame i f.number cfg.genLimit g.stripes).store

/-- `t` is what a dispatch slot makes of `s` when drive `a` takes the frame (R99, R101 to R109): frame `g` is at the tail of
its burn queue with its output sequence and note, the stream leaves STALLED, and `g` is the window's head, closed and forced
as it needs, or a fill frame; the flow state is judged (R19). The cadence unit is `after`, unless a HALT on the way has
stopped its timer. -/
def State.Dispatched (s t : State) (i : StreamIx) (cfg : StreamConfig) (a : DriveIx) (after : Cadence) : Prop :=
  ∃ (g : FrameRec) (kind : FrameKind),
    t.drive a = { s.drive a with
      queue := (s.drive a).queue ++ [g], committed := (s.drive a).committed + g.need
      transfer := if (s.drive a).queue = [] then .waitingSpace else (s.drive a).transfer
      carry := if (s.drive a).queue = [] then [] else (s.drive a).carry } ∧
    (∀ b, b ≠ a → t.drive b = s.drive b) ∧ t.burn = s.burn ∧ t.plans = s.plans ∧
    (∀ j, j ≠ i → (t.stream j).window = (s.stream j).window ∧ (t.stream j).counters = (s.stream j).counters ∧
      (t.stream j).state = (s.stream j).state) ∧
    (t.stream i).state = (if (s.stream i).state = .stalled then .running else (s.stream i).state) ∧
    { (t.stream i).cadence with running := after.running } = after ∧ s.FlowJudged t i ∧
    (t.stream i).nextSeq = (s.stream i).nextSeq + 1 ∧ g.kind = some kind ∧ g.outSeq = some (s.stream i).nextSeq ∧
    g.state = .queuedForBurn ∧ g.note = some (g.noteOf kind (s.stream i).nextSeq) ∧
    (∀ f rest, (s.stream i).window = f :: rest →
      (t.stream i).lastDispatched = some f.number ∧ (t.stream i).window.length = rest.length ∧ g.number = f.number ∧
      g.stream = f.stream ∧ g.timecode = f.timecode ∧ g.need = f.need ∧ g.stripeCount = f.stripeCount ∧
      g.stripeSize = f.stripeSize ∧
      (f.state = .resolved → kind = .normal ∧ g.stripes = f.stripes ∧ (t.stream i).window = rest ∧
        (t.stream i).counters = (s.stream i).counters ∧ s.Silent t ∧ t.engine = s.engine ∧
        t.dir = (s.insertFrame i f.number cfg.genLimit f.stripes).dir ∧
        t.store = (s.insertFrame i f.number cfg.genLimit f.stripes).store) ∧
      (f.state = .closed → kind = .forced ∧ s.Occurred t .forced (streamId i) f.number ∧ s.Forced t i cfg f g ∧
        (∀ c : Counter, c ≠ .forcedFrames → c ≠ .repairedFallback → c ≠ .marked →
          (t.stream i).counters[c.ix] = (s.stream i).counters[c.ix])) ∧
      (f.state = .opened → t.engine.closeOrdinal = s.engine.closeOrdinal + 1 ∧
        g.ordinal = some s.engine.closeOrdinal ∧
        ((∀ x ∈ f.stripes, x.state ≠ .expected ∧ x.state ≠ .damaged) → kind = .normal ∧ g.stripes = f.stripes ∧
          t.dir = (s.insertFrame i f.number cfg.genLimit f.stripes).dir ∧
          t.store = (s.insertFrame i f.number cfg.genLimit f.stripes).store) ∧
        ((∃ x ∈ f.stripes, x.state = .expected ∨ x.state = .damaged) → kind = .forced ∧
          (∀ x ∈ g.stripes, x.state ≠ .expected ∧ x.state ≠ .damaged) ∧
          s.Forced t i cfg (f.withDamageFixed s.engine.closeOrdinal) g ∧
          ∃ u : State, s.Occurred u .damageRate (streamId i)
              (BitVec.ofNat 32 (f.stripes.filter fun x => x.state == .damaged || x.state == .expected).length) ∧
            u.Occurred t .forced (streamId i) f.number))) ∧
    ((s.stream i).window = [] → kind = .fill ∧ (t.stream i).window = [] ∧
      g.number = (s.stream i).lastDispatched.getD 0 ∧ (t.stream i).lastDispatched = (s.stream i).lastDispatched ∧
      g.stream = i ∧ g.timecode = 0 ∧ g.stripeCount = cfg.stripes ∧ g.stripeSize = cfg.stripeSize ∧
      g.need = sectorNeed cfg.stripes cfg.stripeSize ∧ g.stripes.length = cfg.stripes ∧
      (∀ k, k < cfg.stripes → g.stripes[k]? = some
        (match s.dir.lookup i k (Directory.filling g.number) with
         | some d => { state := .repaired, cause := none, slot := some d.slot, generation := some d.generation,
                       method := some .fallback, donors := [d.number], resume := 0 }
         | none => { state := .marked, cause := none, slot := none, generation := none, method := some .mark,
                     donors := [], resume := 0 })) ∧
      (t.stream i).counters[Counter.fillFrames.ix] = (s.stream i).counters[Counter.fillFrames.ix] + 1 ∧
      (t.stream i).counters[Counter.repairedFallback.ix] = (s.stream i).counters[Counter.repairedFallback.ix] +
        BitVec.ofNat 32 ((List.range cfg.stripes).filter fun k =>
          (s.dir.lookup i k (Directory.filling g.number)).isSome).length ∧
      (t.stream i).counters[Counter.marked.ix] = (s.stream i).counters[Counter.marked.ix] +
        BitVec.ofNat 32 ((List.range cfg.stripes).filter fun k =>
          (s.dir.lookup i k (Directory.filling g.number)).isNone).length ∧
      (∀ c : Counter, c ≠ .fillFrames → c ≠ .repairedFallback → c ≠ .marked →
        (t.stream i).counters[c.ix] = (s.stream i).counters[c.ix]) ∧
      t.store = ((List.range cfg.stripes).filterMap fun k => s.dir.lookup i k (Directory.filling g.number)).foldl
        (fun st d => st.claim d.slot) s.store ∧
      t.dir = s.dir ∧ t.engine = s.engine ∧ s.Occurred t .fill (streamId i) g.number)

/-! ### The burn link, for the statements -/

/-- `t` is what the begin of a WRITE exchange makes of `s` (R122, R123): up to 8 of the sectors left from `first` on; the
stripes whose first byte lies in them, those with a slot waiting for their read and those without one blank; the exchange
reads while any waits, and the unit begins at once with the bytes on hand, padded with zero bytes, when none does. -/
def State.WriteBegins (s t : State) (a : DriveIx) (f : FrameRec) (first : Nat) : Prop :=
  ∀ (count : Nat) (parts : List ReadPart) (onHand : List Byte),
    count = min 8 ((f.stripeCount * f.stripeSize + 2047) / 2048 - first) →
    parts = (f.stripes.zipIdx.filter fun p =>
      decide (2048 * first ≤ p.2 * f.stripeSize ∧ p.2 * f.stripeSize < 2048 * (first + count))).map (fun p =>
        { stripe := p.2, slot := p.1.slot,
          data := if p.1.slot = none then some (List.replicate f.stripeSize 0) else none }) →
    onHand = (s.drive a).carry ++ parts.flatMap (fun p => p.data.getD []) →
    ((∃ p ∈ parts, p.data = none) → t = { s with burn := { s.burn with exchange := some {
      drive := a, purpose := .frame, factor := s.burn.factor, phase := .reading first count parts } } }) ∧
    ((∀ p ∈ parts, p.data ≠ none) →
      t = (s.setDrive a { s.drive a with carry := onHand.drop (2048 * count) }).startUnit a .frame
        (.write f.stream f.seq first count
          (onHand.take (2048 * count) ++ List.replicate (2048 * count - onHand.length) 0)))

/-- The poll round's status part, from address `m` on, asks a drive (R129, R131): present, with no work, and not one that a
RUNNING survey has still to ask. -/
def State.PollAsks (t : State) (m : Nat) (a : DriveIx) : Prop :=
  m ≤ driveAddress a ∧ (t.drive a).present = true ∧ (t.drive a).hasWork = false ∧
    ∀ v, t.burn.survey = some v → driveAddress a < v.next

/-- The discovery part may ask an address (R130, R131): ABSENT, and not one that a RUNNING survey has still to ask. -/
def State.DiscoveryAsks (t : State) (a : DriveIx) : Prop :=
  (t.drive a).condition = .absent ∧ ∀ v, t.burn.survey = some v → driveAddress a < v.next

/-- `r` is what follows in `t` when an exchange other than a frame's has ended (R118, R129 to R132, R135; log 18): the turn
ends; or a survey asks its next address, or ends after address 8, START_UP with the poll timer started and a SURVEY command
with its reply; or a poll round asks its next drive, or makes the discovery ask; in HALTED both stop. -/
def State.GoesOn (t r : State) : Prop :=
  (t.burn.item = .idle → r = t.clearExchange) ∧
  (∀ v, t.burn.item = .survey → t.burn.survey = some v →
    (∀ a, v.next = driveAddress a →
      (t.monitor.halted = true → r = { t with burn := { t.burn with item := .idle, exchange := none } }) ∧
      (t.monitor.halted = false → r = { t with burn := { t.burn with
        survey := some { v with next := v.next + 1 } } }.startUnit a .survey .presenceAsk)) ∧
    (v.next = 9 →
      (v.requester = .startUp → r = { t with burn := { t.burn with
        survey := none, item := .idle, exchange := none, pollRunning := true } }) ∧
      (∀ tag, v.requester = .surveyCommand tag → r = { t with burn := { t.burn with
        survey := none, item := .idle, exchange := none } }.deferred tag (.done (.survey (allDrives.map fun a =>
          { condition := (t.drive a).condition
            capacity := (t.drive a).remaining.map fun q => (q, (t.drive a).committed) })))))) ∧
  (∀ m, t.burn.item = .poll m →
    (t.monitor.halted = true → r = { t with burn := { t.burn with item := .idle, exchange := none } }) ∧
    (t.monitor.halted = false →
      (∀ a, t.PollAsks m a → (∀ b, b < a → ¬ t.PollAsks m b) →
        r = { t with burn := { t.burn with item := .poll (driveAddress a + 1) } }.startUnit a .pollStatus .statusAsk) ∧
      ((∀ a, ¬ t.PollAsks m a) →
        (∀ k : Nat, 1 ≤ k → k ≤ 8 → t.DiscoveryAsks (t.burn.discovery + Fin.ofNat 8 k) →
          (∀ j : Nat, 1 ≤ j → j < k → ¬ t.DiscoveryAsks (t.burn.discovery + Fin.ofNat 8 j)) →
          r = { t with burn := { t.burn with
            item := .idle, discovery := t.burn.discovery + Fin.ofNat 8 k } }.startUnit
              (t.burn.discovery + Fin.ofNat 8 k) .discovery .presenceAsk) ∧
        ((∀ a, ¬ t.DiscoveryAsks a) → r = { t with burn := { t.burn with item := .idle, exchange := none } }))))

/-- The tests of a frame's move to drive `b`'s queue, behind the first `m` of the frames `q` (R146 step 2): fewer than 4 frames,
room, and a tail of lower output sequence. -/
def State.MayJoin (s : State) (b : DriveIx) (q : List FrameRec) (m : Nat) (f : FrameRec) : Prop :=
  ((s.drive b).queue ++ q.take m).length < 4 ∧
  f.need + ((q.take m).map (·.need)).sum ≤ (s.drive b).uncommitted ∧
  ∀ g, ((s.drive b).queue ++ q.take m).getLast? = some g → g.seq < f.seq

/-- `t` is what the span from drive `a`, bound ACTIVE for stream `i` and leaving service with the frames `q` and a committed
capacity, to drive `b` makes of `s` (R146): the roles are exchanged, and the longest prefix of `q` that fits moves. -/
def State.Spanned (s t : State) (i : StreamIx) (a b : DriveIx) (q : List FrameRec) (committed : Nat) : Prop :=
  (t.drive a).binding = .standby i ∧ (t.drive b).binding = .active i ∧
  ∃ k, k ≤ q.length ∧ (t.drive a).queue = q.drop k ∧ (t.drive b).queue = (s.drive b).queue ++ q.take k ∧
    (t.drive a).committed = committed - ((q.take k).map (·.need)).sum ∧
    (t.drive b).committed = (s.drive b).committed + ((q.take k).map (·.need)).sum ∧
    (∀ m f, m < k → q[m]? = some f → s.MayJoin b q m f) ∧ ∀ f, q[k]? = some f → ¬ s.MayJoin b q k f

/-- `t` is what the third miss in a row of drive `a`, its record being `d`, makes of `s` (R127, R133, R134, R141): ABSENT,
DRIVE_SILENT raised with the address as scope and 3 as detail and then DRIVE_CHANGE, its requests and its relay ended, a
frame withdrawn or owed an ABANDON discarded; an ACTIVE drive with a READY STANDBY spans and the prefix of its queue that fits
moves (R146), and any other keeps its binding and its queue (R147). -/
def State.WentSilent (s t : State) (a : DriveIx) (d : DriveRec) : Prop :=
  (t.drive a).condition = .absent ∧ (t.drive a).remaining = none ∧ (t.drive a).misses = 0 ∧
  (t.drive a).missCount = d.missCount + 1 ∧ (t.drive a).relay = .none ∧
  (t.drive a).releasePending = false ∧ (t.drive a).statusRequested = false ∧
  (t.drive a).transfer = .waitingSpace ∧
  (d.queue ≠ [] ∨ (d.withdrawn = false ∧ d.abandonOwed = false) →
    (t.drive a).abandonOwed = false ∧ (t.drive a).withdrawn = false) ∧
  t.fault .driveSilent = { s.fault .driveSilent with
    pending := true
    count := if (s.fault .driveSilent).count = 65535#16 then 65535#16 else (s.fault .driveSilent).count + 1
    firstScope := if (s.fault .driveSilent).pending = true then (s.fault .driveSilent).firstScope
      else some (driveAddress a) } ∧
  (∃ x y : State, x.monitor = s.monitor ∧ x.ret.outbox = s.ret.outbox ∧
    y = (x.raise .driveSilent (driveAddress a) 3).occur .driveChange (driveAddress a) 0 ∧
    ((∀ i, d.binding ≠ .active i) → y.Silent t) ∧
    (∀ i, d.binding = .active i → (∀ b, s.standbyOf i = some b → (s.drive b).condition ≠ .ready) → y.Silent t) ∧
    (∀ i b, d.binding = .active i → s.standbyOf i = some b → (s.drive b).condition = .ready →
      y.Occurred t .span (streamId i) (BitVec.ofNat 32 (driveAddress b)))) ∧
  (∀ (q : List FrameRec) (committed : Nat),
    (d.withdrawn = true ∨ d.abandonOwed = true → q = d.queue.tail ∧
      committed = d.committed - (d.queue.head?.map (·.need)).getD 0) →
    (d.withdrawn = false → d.abandonOwed = false → q = d.queue ∧ committed = d.committed) →
    ((∀ i b, d.binding = .active i → s.standbyOf i = some b → (s.drive b).condition ≠ .ready) →
      (t.drive a).queue = q ∧ (t.drive a).committed = committed ∧ (t.drive a).binding = d.binding ∧
      ∀ b, b ≠ a → t.drive b = s.drive b) ∧
    (∀ i b, d.binding = .active i → s.standbyOf i = some b → (s.drive b).condition = .ready →
      s.Spanned t i a b q committed ∧ ∀ x, x ≠ a → x ≠ b → t.drive x = s.drive x)) ∧
  (∀ tag, (d.relay = .outstanding tag ∨ ∃ bs, d.relay = .pending tag bs) → t.ret.replies = s.ret.replies ++
    [{ immediate := false, reply := { tag := tag, answer := .refused .noAnswer } }]) ∧
  t.dir = s.dir

/-! ### Reports, for the statements -/

/-- `r` reports the drive record `d` (R137, R152). -/
def DriveReport.Reports (r : DriveReport) (d : DriveRec) : Prop :=
  r.condition = d.condition ∧ r.remaining = d.remaining ∧ r.committed = d.committed ∧
  (d.remaining = none → r.uncommitted = 0) ∧ (∀ q, d.remaining = some q → r.uncommitted = q.toNat - d.committed) ∧
  r.binding = d.binding ∧ r.queue.length = d.queue.length ∧
  (∀ (k : Nat) (f : FrameRec), d.queue[k]? = some f → ∃ x : BurnItem, r.queue[k]? = some x ∧ x.stream = f.stream ∧ x.need = f.need ∧
    (∀ n, f.outSeq = some n → x.outSeq = n) ∧ (∀ kind, f.kind = some kind → x.kind = kind) ∧
    (∀ note, f.note = some note → x.entryCount = note.entries.length)) ∧
  (d.queue = [] → r.transfer = none) ∧ (d.queue ≠ [] → r.transfer = some d.transfer) ∧
  r.abandonOwed = d.abandonOwed ∧ r.releasePending = d.releasePending ∧
  (r.relay = .none ↔ d.relay = .none) ∧ (r.relay = .pending ↔ ∃ tag bytes, d.relay = .pending tag bytes) ∧
  (r.relay = .outstanding ↔ ∃ tag, d.relay = .outstanding tag) ∧ r.misses = d.misses ∧
  r.framesWritten = d.framesWritten ∧ r.spaceRefusals = d.spaceRefusals ∧ r.missCount = d.missCount

end Sys2Proof.Machine
end

