-- ==== Sys2Proof/Certificates/Slice0/Obligations.lean ====
section
/-! DEFINITION. The statements for the provers. A next state is written as what the rules make of the state before it;
`kick` is the arbiter's start of the next return unit at the end of a command (log 5). -/

section

open Sys2Proof Sys2Proof.Machine

/-! ### The step -/

/-- A step takes the command at the front of the queue and executes it with the queue's rest. -/
def Obligations.StepRunsTheFrontCommand : Prop :=
  ∀ (c : Instr) (rest : List Instr) (s : State),
    step { s with pending := c :: rest } = exec c { s with pending := rest }

/-- On an empty queue the block idles: the model's choice (log 2). -/
def Obligations.StepIdlesOnAnEmptyQueue : Prop := ∀ s : State, s.pending = [] → step s = .next s

/-- Every command answers a next state, in every state, and leaves the queue of commands as it was. -/
def Obligations.EveryCommandAnswersNext : Prop :=
  ∀ (c : Instr) (s : State), ∃ t, exec c s = .next t ∧ t.pending = s.pending

/-! ### Invariants of every step -/

/-- Every step keeps the bounds of the control queue, the immediate replies and the outbox (R155, R162, R177). -/
def Obligations.StepKeepsQueueBounds : Prop := ∀ s t : State, s.QueuesFit → step s = .next t → t.QueuesFit

/-- Every step keeps the store's tables in canonical form: the memory, the holder counts, the flips. -/
def Obligations.StepKeepsStoreCanonical : Prop :=
  ∀ s t : State, s.StoreCanonical → step s = .next t → t.StoreCanonical

/-- Every step keeps each drive's committed capacity equal to the sum of the sector needs it holds (R138). -/
def Obligations.StepKeepsCommittedSums : Prop :=
  ∀ s t : State, s.CommittedSums → step s = .next t → t.CommittedSums

/-- A HALTED part in which no RESET_PART waits stays HALTED through every command but POWER_ON and one that brings a
RESET_PART (R158, R174). -/
def Obligations.HaltIsLeftOnlyByReset : Prop :=
  ∀ (c : Instr) (s t : State), s.StaysHalted → c ≠ .powerOn → ¬ bringsReset c → exec c s = .next t → t.StaysHalted

/-- The reset state has the invariants. -/
def Obligations.ResetHasTheInvariants : Prop :=
  State.reset.QueuesFit ∧ State.reset.StoreCanonical ∧ State.reset.CommittedSums

/-! ### Power-on, sweep, link -/

/-- Power-on gives every block its reset values (R1, R19, R20, R21, R23, R29, R30, R34, R36, R52, R69, R71, R77, R93,
R114, R137, R155, R158, R162, R165, R172, R175). -/
def Obligations.PowerOnGivesResetValues : Prop :=
  ∀ s : State, ∃ t, exec .powerOn s = .next t ∧ t.pending = s.pending ∧
    (∀ i, (t.stream i).state = .unconfigured ∧ (t.stream i).config = none ∧ (t.stream i).lastNumber = none ∧
      (t.stream i).lastDispatched = none ∧ (t.stream i).nextSeq = 0 ∧ (t.stream i).stopTag = none ∧
      (t.stream i).window = [] ∧ (t.stream i).paused = false ∧ (∀ c : Counter, (t.stream i).counters[c.ix] = 0) ∧
      (t.stream i).cadence.period = none ∧ (t.stream i).cadence.pattern = none ∧ (t.stream i).cadence.position = 0 ∧
      (t.stream i).cadence.pendingPattern = none ∧ (t.stream i).cadence.running = false) ∧
    t.store.sweeping = true ∧ t.store.freeList = [] ∧ (∀ x, t.store.count x = 0) ∧ t.store.correction = true ∧
    t.store.lastEvent = none ∧ t.store.corrected = 0 ∧ t.store.flawed = 0 ∧
    (∀ k, t.dir.row k = { way0 := none, way1 := none }) ∧ t.dir.nextOrdinal = 0 ∧ t.dir.evictions = 0 ∧
    t.dir.flaws = 0 ∧ (∀ p : Fin 16, t.plans[p] = none) ∧ t.engine.closeOrdinal = 0 ∧ t.engine.queue = [] ∧
    (∀ c, t.context c = none) ∧ t.engine.parked = 0 ∧
    (∀ a, (t.drive a).condition = .absent ∧ (t.drive a).remaining = none ∧ (t.drive a).committed = 0 ∧
      (t.drive a).binding = .none ∧ (t.drive a).queue = [] ∧ (t.drive a).releasePending = false ∧
      (t.drive a).misses = 0 ∧ (t.drive a).framesWritten = 0 ∧ (t.drive a).spaceRefusals = 0 ∧
      (t.drive a).missCount = 0 ∧ (t.drive a).abandonOwed = false ∧ (t.drive a).statusRequested = false ∧
      (t.drive a).relay = .none) ∧
    t.burn.factor = .x8 ∧ t.burn.mode = .frame ∧ driveAddress t.burn.rotation = 8 ∧ driveAddress t.burn.discovery = 8 ∧
    t.burn.pollRunning = false ∧ t.burn.pollDue = false ∧
    t.burn.survey = some { requester := .startUp, next := 1 } ∧ t.burn.exchange = none ∧
    t.ret.flowSet = [] ∧ t.ret.asks = [] ∧ t.ret.replies = [] ∧ t.ret.outbox = [] ∧ t.linkUp = false ∧
    t.controlQueue = [] ∧ (∀ w, t.watch w = none) ∧
    (∀ k, t.fault k = { pending := false, count := 0, firstScope := none, action := k.defaultAction }) ∧
    t.monitor.halted = false

/-- At the end of the sweep the store is READY, every slot is on the free list in ascending order with no holder, and the
DRAM is zero (R23, R26, R34). Nothing else changes. -/
def Obligations.SweepCompletionFreesEverySlot : Prop :=
  (∀ s : State, s.store.sweeping = true → exec .sweepCompletion s = .next { s with store := { s.store with
    sweeping := false, freeList := allSlots, holders := [], dram := [], flips := [] } }) ∧
  allSlots.map Fin.val = List.range 16384

/-- The link's loss sets it DOWN and raises INGEST_LOSS with scope part and detail 0; its return raises nothing, rebuilds
the flow set, and sending resumes (R19, R20, R163, R171). The order of the rebuilt set is the model's choice (log 29). -/
def Obligations.LinkChangesAreTaken : Prop :=
  (∀ s : State, s.linkUp = true → exec .linkDown s = .next ({ s with linkUp := false }.raise .ingestLoss 0 0)) ∧
  (∀ s : State, s.linkUp = false →
    exec .linkUp s = .next ({ s with linkUp := true, ret := { s.ret with flowSet := s.rebuiltFlow } }).settle ∧
    (∀ i, { stream := i, pause := true } ∈ s.rebuiltFlow ↔ (s.stream i).paused = true) ∧
    (∀ i, { stream := i, pause := false } ∈ s.rebuiltFlow ↔
      (s.stream i).paused = false ∧ { stream := i, pause := false } ∈ s.ret.flowSet))

/-! ### The return path -/

/-- The arbiter takes the first unit of the first class that is not empty: FLOW, REFETCH_ASK, REPLY, NOTICE (R163). It
takes one when the link is UP and no unit is being sent. -/
def Obligations.ArbiterTakesTheFirstClass : Prop :=
  (∀ (r : ReturnPath) (f : FlowUnit) (rest : List FlowUnit), r.flowSet = f :: rest →
    r.next = some (.flow f, { r with flowSet := rest })) ∧
  (∀ (r : ReturnPath) (a : Ask) (rest : List Ask), r.flowSet = [] → r.asks = a :: rest →
    r.next = some (.ask a true, { r with asks := rest })) ∧
  (∀ (r : ReturnPath) (q : QueuedReply) (rest : List QueuedReply), r.flowSet = [] → r.asks = [] → r.replies = q :: rest →
    r.next = some (.reply q.reply, { r with replies := rest })) ∧
  (∀ (r : ReturnPath) (n : Notice) (rest : List Notice), r.flowSet = [] → r.asks = [] → r.replies = [] →
    r.outbox = n :: rest → r.next = some (.notice n, { r with outbox := rest })) ∧
  (∀ r : ReturnPath, r.flowSet = [] → r.asks = [] → r.replies = [] → r.outbox = [] → r.next = none) ∧
  (∀ (s : State) (u : ReturnUnit) (r : ReturnPath), s.linkUp = true → s.ret.sending = none → s.ret.next = some (u, r) →
    s.kick = { s with ret := { r with sending := some u } }) ∧
  (∀ s : State, s.linkUp = false ∨ s.ret.sending ≠ none ∨ s.ret.next = none → s.kick = s)

/-- At the end of a return unit nothing is being sent, a transmitted ask starts the refetch timer of the context that
waits on it (R164), and the interpreter and the arbiter go on (R155, R163). -/
def Obligations.ReturnUnitEndGoesOn : Prop :=
  (∀ (s : State) (u : ReturnUnit), s.ret.sending = some u → (∀ a, u ≠ .ask a true) →
    exec .returnUnitEnd s = .next ({ s with ret := { s.ret with sending := none } }).settle) ∧
  (∀ (s : State) (a : Ask) (b : Busy) (n left wait : Nat) (sent timer : Bool), s.ret.sending = some (.ask a true) →
    s.context a.context = some b → b.op = .refetch n left wait sent timer →
    exec .returnUnitEnd s = .next (({ s with ret := { s.ret with sending := none } }).setContext a.context
      (some { b with op := .refetch n left wait true true })).settle)

/-- The interpreter takes units until it cannot: none waits, or no immediate reply has a place (R155). -/
def Obligations.SettleLeavesNothingTakeable : Prop :=
  ∀ s : State, s.controlQueue.length ≤ 8 → s.settle.controlQueue = [] ∨ 32 ≤ s.settle.ret.immediates

/-! ### Units on the ingest link -/

/-- A unit that fails its framing, length or check test has no effect, on either link (R6, R115, R178). Frame units to
streams 1 to 12 are discarded during the sweep and while the part is HALTED (R6, R34, R174). -/
def Obligations.DiscardedUnitsHaveNoEffect : Prop :=
  (∀ (s : State) (i : StreamIx) (u : IngestUnit), s.store.sweeping = true ∨ s.monitor.halted = true → s.Rested →
    streamOf u.stream = some i →
    exec (.frameOpen u) s = .next s ∧ exec (.stripe u) s = .next s ∧ exec (.stripeResend u) s = .next s ∧
      exec (.frameClose u) s = .next s) ∧
  (∀ (u : IngestUnit) (s : State),
    (ingestAccepted kindFrameOpen u = false → exec (.frameOpen u) s = .next s) ∧
    (ingestAccepted kindStripe u = false → exec (.stripe u) s = .next s ∧ exec (.stripeResend u) s = .next s) ∧
    (ingestAccepted kindFrameClose u = false → exec (.frameClose u) s = .next s) ∧
    (ingestAccepted kindControl u = false → exec (.control u) s = .next s)) ∧
  (∀ (bytes : List Byte) (s : State), bytes.length < 6 → exec (.unknownUnitKind bytes) s = .next s) ∧
  (∀ (bytes : List Byte) (kind : Byte) (u : IngestUnit) (s : State), frameIngest bytes = some (kind, u) →
    ingestAccepted kind u = false → exec (.unknownUnitKind bytes) s = .next s) ∧
  (∀ (u : BurnAnswer) (s : State),
    (burnAccepted kindPresenceAnswer u = false → exec (.presenceAnswer u) s = .next s) ∧
    (burnAccepted kindStatusAnswer u = false → exec (.statusAnswer u) s = .next s) ∧
    (burnAccepted kindSpaceOk u = false → exec (.spaceOk u) s = .next s) ∧
    (burnAccepted kindSpaceNo u = false → exec (.spaceNo u) s = .next s) ∧
    (burnAccepted kindWriteDone u = false → exec (.writeDone u) s = .next s) ∧
    (burnAccepted kindWriteFail u = false → exec (.writeFail u) s = .next s) ∧
    (burnAccepted kindDriveAnswer u = false → exec (.driveAnswer u) s = .next s))

/-- A FRAME_OPEN that is in order and finds room is accepted (R3, R7, R14, R19, R21): a new OPEN record at the tail, the last
frame number, the counters, the step from PRIMING to RUNNING, the flow state; nothing else but the return path changes. A
stream's pause reasons are its occupancy above floor(depth/2) in RUNNING, STALLED or DRAINING and each watch suspension held
on it; a change of the flow state queues its FLOW unit (R19). An OPEN frame of the window closes first, its damage fixed (R7,
R11), as `Obligations.FrameCloseFixesTheDamage` says of FRAME_CLOSE, and contexts then take work (R72). A cadence that starts
when that close has halted the part stays STOPPED (log 30). -/
def Obligations.FrameOpenInOrderIsAccepted : Prop :=
  (∀ (s : State) (i : StreamIx),
    ((s.stream i).occupancyReason = true ↔ ∃ cfg, (s.stream i).config = some cfg ∧
      ((s.stream i).state = .running ∨ (s.stream i).state = .stalled ∨ (s.stream i).state = .draining) ∧
      cfg.depth / 2 < (s.stream i).window.length) ∧
    (s.pauseReason i = true ↔ (s.stream i).occupancyReason = true ∨
      ∃ w b, s.watch w = some b ∧ b.suspension = some i)) ∧
  (∀ (s : State) (i : StreamIx) (cfg : StreamConfig) (n timecode : Word32), s.TakesFrames →
    (s.stream i).state.takesFrames = true → (s.stream i).config = some cfg → s.openNumber i = none →
    (∀ last, (s.stream i).lastNumber = some last → last < n) → (s.stream i).window.length < cfg.depth →
    s.recordFree = true → s.NoWork →
    ∃ t, exec (.frameOpen (buildIngest kindFrameOpen (byteOf (streamId i)) (le32Bytes n ++ le32Bytes timecode))) s =
        .next t ∧
      (t.stream i).window = (s.stream i).window ++ [FrameRec.opened cfg i n timecode] ∧
      (t.stream i).lastNumber = some n ∧
      (t.stream i).counters[Counter.framesAccepted.ix] = (s.stream i).counters[Counter.framesAccepted.ix] + 1 ∧
      (t.stream i).counters[Counter.gapFrames.ix] = (s.stream i).counters[Counter.gapFrames.ix] +
        (match (s.stream i).lastNumber with
         | some last => n - last - 1
         | none => 0) ∧
      (∀ c : Counter, c ≠ .framesAccepted → c ≠ .gapFrames →
        (t.stream i).counters[c.ix] = (s.stream i).counters[c.ix]) ∧
      ((s.stream i).state = .priming ∧ (s.stream i).window.length + 1 = cfg.depth →
        (t.stream i).state = .running ∧ (t.stream i).cadence.running = true ∧ (t.stream i).cadence.position = 0) ∧
      (¬((s.stream i).state = .priming ∧ (s.stream i).window.length + 1 = cfg.depth) →
        (t.stream i).state = (s.stream i).state ∧ (t.stream i).cadence = (s.stream i).cadence) ∧
      (t.stream i).paused = t.pauseReason i ∧ (t.stream i).config = (s.stream i).config ∧
      (t.stream i).nextSeq = (s.stream i).nextSeq ∧ (t.stream i).stopTag = (s.stream i).stopTag ∧
      (t.stream i).lastDispatched = (s.stream i).lastDispatched ∧
      (∀ j, j ≠ i → t.stream j = s.stream j) ∧ t.store = s.store ∧ t.dir = s.dir ∧ t.plans = s.plans ∧
      t.engine = s.engine ∧ t.drives = s.drives ∧ t.burn = s.burn ∧ t.monitor = s.monitor ∧
      t.controlQueue = s.controlQueue ∧ t.ret.replies.length ≤ s.ret.replies.length ∧
      ∃ u : State, t = u.kick ∧ u.ret = { s.ret with
        flowSet := if (t.stream i).paused = (s.stream i).paused then s.ret.flowSet
          else (s.ret.flowSet.filter fun f => f.stream != i) ++ [{ stream := i, pause := (t.stream i).paused }] }) ∧
  (∀ (s : State) (i : StreamIx) (cfg : StreamConfig) (n timecode m : Word32), s.TakesFrames →
    (s.stream i).state.takesFrames = true → (s.stream i).config = some cfg → s.openNumber i = some m →
    (∀ last, (s.stream i).lastNumber = some last → last < n) → (s.stream i).window.length < cfg.depth →
    s.recordFree = true →
    ∃ t : State,
      exec (.frameOpen (buildIngest kindFrameOpen (byteOf (streamId i)) (le32Bytes n ++ le32Bytes timecode))) s =
        .next t.takeWork.kick ∧
      (t.stream i).window.length = (s.stream i).window.length + 1 ∧
      (t.stream i).window.getLast? = some (FrameRec.opened cfg i n timecode) ∧
      (∃ f, t.frame i m = some f ∧ f.state ≠ .opened ∧ f.ordinal = some s.engine.closeOrdinal) ∧
      (∀ f, ((s.stream i).window.map (·.number)).Pairwise (· < ·) → s.frame i m = some f →
        t.frame i m = some (f.withDamageFixed s.engine.closeOrdinal)) ∧
      (t.stream i).lastNumber = some n ∧
      (t.stream i).counters[Counter.framesAccepted.ix] = (s.stream i).counters[Counter.framesAccepted.ix] + 1 ∧
      (t.stream i).counters[Counter.gapFrames.ix] = (s.stream i).counters[Counter.gapFrames.ix] +
        (match (s.stream i).lastNumber with
         | some last => n - last - 1
         | none => 0) ∧
      (∀ c : Counter, c ≠ .framesAccepted → c ≠ .gapFrames → c ≠ .damagedFlagged → c ≠ .damagedCorrupt →
        c ≠ .damagedAbsent → (t.stream i).counters[c.ix] = (s.stream i).counters[c.ix]) ∧
      ((s.stream i).state = .priming ∧ (s.stream i).window.length + 1 = cfg.depth →
        (t.stream i).state = .running ∧ (t.stream i).cadence.running = !t.monitor.halted ∧
        (t.stream i).cadence.position = 0) ∧
      (¬((s.stream i).state = .priming ∧ (s.stream i).window.length + 1 = cfg.depth) →
        (t.stream i).state = (s.stream i).state ∧
        (t.stream i).cadence.position = (s.stream i).cadence.position) ∧
      (t.stream i).paused = t.pauseReason i ∧ s.FlowJudged t i ∧
      t.engine.closeOrdinal = s.engine.closeOrdinal + 1 ∧
      (∀ j, j ≠ i → (t.stream j).window = (s.stream j).window ∧ (t.stream j).counters = (s.stream j).counters) ∧
      t.store = s.store ∧ t.dir = s.dir ∧ t.plans = s.plans ∧ t.drives = s.drives ∧ t.burn = s.burn)

/-- A FRAME_OPEN whose number is not above the last is refused with SEQUENCE, and the last number stays; one that finds
the window full or the pool empty is refused with OVERRUN, and still moves the last frame number, an OPEN frame of the
window having closed first (R7). Contexts then take work (R72). -/
def Obligations.FrameOpenIsRefused : Prop :=
  ∀ (s : State) (i : StreamIx) (cfg : StreamConfig) (n timecode : Word32), s.TakesFrames →
    (s.stream i).state.takesFrames = true → (s.stream i).config = some cfg →
    (∀ last, s.NoWork → (s.stream i).lastNumber = some last → n ≤ last →
      exec (.frameOpen (buildIngest kindFrameOpen (byteOf (streamId i)) (le32Bytes n ++ le32Bytes timecode))) s =
        .next ((s.bump i .framesRefused).raise .sequence (streamId i) n).kick) ∧
    (s.NoWork → s.openNumber i = none → (∀ last, (s.stream i).lastNumber = some last → last < n) →
      (cfg.depth ≤ (s.stream i).window.length ∨ s.recordFree = false) →
      exec (.frameOpen (buildIngest kindFrameOpen (byteOf (streamId i)) (le32Bytes n ++ le32Bytes timecode))) s =
        .next (((((s.bumpBy i .gapFrames (match (s.stream i).lastNumber with
          | some last => n - last - 1
          | none => 0)).modStream i fun r => { r with lastNumber := some n }).bump i .framesRefused).raise .overrun
          (streamId i) n)).kick) ∧
    (∀ m, s.openNumber i = some m → (∀ last, (s.stream i).lastNumber = some last → last < n) →
      (cfg.depth ≤ (s.stream i).window.length ∨ s.recordFree = false) →
      exec (.frameOpen (buildIngest kindFrameOpen (byteOf (streamId i)) (le32Bytes n ++ le32Bytes timecode))) s =
        .next ((((((s.closeFrame i m).bumpBy i .gapFrames (match (s.stream i).lastNumber with
          | some last => n - last - 1
          | none => 0)).modStream i fun r => { r with lastNumber := some n }).bump i .framesRefused).raise .overrun
          (streamId i) n).takeWork).kick)

/-- Frame units to a stream that takes none are STRAY with their frame number, a resend only for a STOPPED stream; so is
a FRAME_CLOSE of a frame that is not OPEN, and a frame unit of a wrong length, with the number it carried (R7, R8, R10,
R12, R171, R178; the number of a unit of a wrong length: log 12). -/
def Obligations.FrameUnitsElsewhereAreStray : Prop :=
  ∀ (s : State) (i : StreamIx) (u : IngestUnit), s.TakesFrames → s.NoWork → streamOf u.stream = some i →
    ((s.stream i).state.takesFrames = false →
      (∀ n timecode, ingestAccepted kindFrameOpen u = true → readFrameOpenBody u.body = some (n, timecode) →
        exec (.frameOpen u) s = .next (s.stray i n).kick) ∧
      (∀ b, ingestAccepted kindStripe u = true → readStripeBody u.body = some b → b.resend = false →
        exec (.stripe u) s = .next (s.stray i b.number).kick) ∧
      (∀ n, ingestAccepted kindFrameClose u = true → readFrameCloseBody u.body = some n →
        exec (.frameClose u) s = .next (s.stray i n).kick)) ∧
    (∀ b, (s.stream i).state = .stopped → ingestAccepted kindStripe u = true → readStripeBody u.body = some b →
      b.resend = true → exec (.stripeResend u) s = .next (s.stray i b.number).kick) ∧
    (∀ n, ingestAccepted kindFrameClose u = true → readFrameCloseBody u.body = some n →
      (∀ f, s.frame i n = some f → f.state ≠ .opened) → exec (.frameClose u) s = .next (s.stray i n).kick) ∧
    (ingestAccepted kindFrameOpen u = true → u.body.length ≠ 8 →
      exec (.frameOpen u) s = .next (s.stray i (if 4 ≤ u.body.length then readLe32 u.body else 0)).kick) ∧
    (ingestAccepted kindFrameClose u = true → u.body.length ≠ 4 →
      exec (.frameClose u) s = .next (s.stray i (if 4 ≤ u.body.length then readLe32 u.body else 0)).kick) ∧
    (ingestAccepted kindStripe u = true → u.body.length < 8 →
      exec (.stripe u) s = .next (s.stray i (if 4 ≤ u.body.length then readLe32 u.body else 0)).kick)

/-- A STRIPE that passes the checks of R8 takes the slot at the head of the free list, its payload is written there, the
record is set from the judgement alone, and a slot it held before is given up (R8, R9, R24, R25, R26). -/
def Obligations.StripeArrivalIsStoredAndJudged : Prop :=
  ∀ (s : State) (i : StreamIx) (u : IngestUnit) (b : StripeBody) (f : FrameRec) (st : StripeRec) (x : Slot)
      (rest : List Slot), s.TakesFrames → ingestAccepted kindStripe u = true → streamOf u.stream = some i →
    readStripeBody u.body = some b → b.resend = false → (s.stream i).state.takesFrames = true →
    s.frame i b.number = some f → f.state = .opened → f.stripeAt b.index = some st →
    b.payload.length = f.stripeSize → st.state ≠ .sound → s.store.freeList = x :: rest →
    ∃ t, exec (.stripe u) s = .next t ∧
      t.stripe { stream := i, number := b.number, stripe := b.index } = some
        (if crc16 b.payload ≠ b.paycheck then
           { st with state := .damaged, cause := some .corrupt, slot := some x, generation := none }
         else if b.dropout = true then
           { st with state := .damaged, cause := some .flagged, slot := some x, generation := none }
         else { st with state := .sound, cause := none, slot := some x, generation := some 0 }) ∧
      t.store =
        (match st.slot with
         | some y => (({ s.store with freeList := rest, holders := Table.set 0 x.val 1 s.store.holders } : Store).write x
             b.payload).release y
         | none => ({ s.store with freeList := rest, holders := Table.set 0 x.val 1 s.store.holders } : Store).write x
             b.payload) ∧
      (∀ j, j ≠ i → t.stream j = s.stream j) ∧ (t.stream i).counters = (s.stream i).counters ∧
      (t.stream i).state = (s.stream i).state ∧ t.dir = s.dir ∧ t.engine = s.engine ∧ t.drives = s.drives ∧
      t.burn = s.burn ∧ t.monitor = s.monitor

/-- A STRIPE for a stripe that is SOUND, of another length, beyond the stripes, or of a frame that is not OPEN is STRAY;
without a free slot it raises STORE_FULL and changes nothing else (R8, R33). -/
def Obligations.StripeThatDoesNotFitIsStray : Prop :=
  ∀ (s : State) (i : StreamIx) (u : IngestUnit) (b : StripeBody), s.TakesFrames → ingestAccepted kindStripe u = true →
    streamOf u.stream = some i → readStripeBody u.body = some b → b.resend = false →
    (s.stream i).state.takesFrames = true →
    (s.frame i b.number = none → exec (.stripe u) s = .next (s.stray i b.number).kick) ∧
    (∀ f, s.frame i b.number = some f →
      (f.state ≠ .opened → exec (.stripe u) s = .next (s.stray i b.number).kick) ∧
      (f.state = .opened → f.stripeAt b.index = none → exec (.stripe u) s = .next (s.stray i b.number).kick) ∧
      (∀ st, f.state = .opened → f.stripeAt b.index = some st →
        (b.payload.length ≠ f.stripeSize ∨ st.state = .sound →
          exec (.stripe u) s = .next (s.stray i b.number).kick) ∧
        (b.payload.length = f.stripeSize → st.state ≠ .sound → s.store.freeList = [] →
          exec (.stripe u) s = .next (s.raise .storeFull 0 (BitVec.ofNat 32 (streamId i))).kick)))

/-- A resend that no context awaits only raises the late resends counter (R10, R80). -/
def Obligations.UnmatchedResendIsLate : Prop :=
  ∀ (s : State) (i : StreamIx) (u : IngestUnit) (b : StripeBody), s.TakesFrames → s.NoWork →
    ingestAccepted kindStripe u = true → streamOf u.stream = some i → readStripeBody u.body = some b →
    b.resend = true → (s.stream i).state ≠ .stopped →
    s.awaiting { stream := i, number := b.number, stripe := b.index } = none →
    exec (.stripeResend u) s = .next (s.bump i .lateResends).kick

/-- A matched resend that is SOUND repairs its stripe by REFETCH: the payload on a slot of its own, the old slot given up,
generation 0, no donors, one unresolved stripe fewer, the context FREE, its ask withdrawn (R59, R67, R80, R81). One of a
wrong length, without a free slot, or not SOUND fails the try (R81, R83), as `Obligations.RefetchTimerEndFailsTheTry` says of
the timer. Contexts then take work (R72). -/
def Obligations.MatchedResendRepairs : Prop :=
  ∀ (s : State) (i : StreamIx) (u : IngestUnit) (b : StripeBody) (c : Fin 4) (busy : Busy) (f : FrameRec)
      (st : StripeRec) (n left wait : Nat) (sent timer : Bool), s.TakesFrames →
    ingestAccepted kindStripe u = true → streamOf u.stream = some i → readStripeBody u.body = some b →
    b.resend = true → (s.stream i).state ≠ .stopped →
    s.awaiting { stream := i, number := b.number, stripe := b.index } = some (c, busy) →
    busy.op = .refetch n left wait sent timer → s.frame i b.number = some f → f.stripeAt b.index = some st →
    (∀ (x : Slot) (rest : List Slot), b.payload.length = f.stripeSize → crc16 b.payload = b.paycheck →
      b.dropout = false → s.store.freeList = x :: rest →
      ∃ t : State, exec (.stripeResend u) s = .next t.takeWork.kick ∧ t.context c = none ∧
        t.stripe { stream := i, number := b.number, stripe := b.index } = some { st with
          state := .repaired, slot := some x, method := some .refetch, donors := [], generation := some 0 } ∧
        t.frame i b.number = some (f.withResolved b.index { st with
          state := .repaired, slot := some x, method := some .refetch, donors := [], generation := some 0 }) ∧
        (t.stream i).counters[Counter.repairedRefetch.ix] = (s.stream i).counters[Counter.repairedRefetch.ix] + 1 ∧
        t.store = (match st.slot with
          | some y => (({ s.store with freeList := rest, holders := Table.set 0 x.val 1 s.store.holders } : Store).write
              x b.payload).release y
          | none => ({ s.store with freeList := rest, holders := Table.set 0 x.val 1 s.store.holders } : Store).write x
              b.payload) ∧
        (∀ a ∈ t.ret.asks, a.context ≠ c) ∧ t.dir = s.dir ∧ t.drives = s.drives ∧ t.monitor = s.monitor) ∧
    (b.payload.length ≠ f.stripeSize →
      ∃ t : State, exec (.stripeResend u) s = .next t.takeWork.kick ∧ s.TryFails t c busy n left wait f st) ∧
    (b.payload.length = f.stripeSize → s.store.freeList = [] →
      ∃ t : State, exec (.stripeResend u) s = .next t.takeWork.kick ∧
        ((s.withdrawAsk c).raise .storeFull 0 (BitVec.ofNat 32 (streamId i))).TryFails t c busy n left wait f st) ∧
    (∀ (x : Slot) (rest : List Slot), b.payload.length = f.stripeSize →
      crc16 b.payload ≠ b.paycheck ∨ b.dropout = true → s.store.freeList = x :: rest →
      ∃ t : State, exec (.stripeResend u) s = .next t.takeWork.kick ∧
        State.TryFails { s with store := Store.release (Store.write { s.store with
          freeList := rest, holders := Table.set 0 x.val 1 s.store.holders } x b.payload) x } t c busy n left wait f st)

/-- A FRAME_CLOSE of an OPEN frame fixes its damage (R4, R11, R12, R21): EXPECTED stripes are ABSENT, the damaged and
unresolved counts, the close ordinal, the counters by cause, RESOLVED or CLOSED; a damaged frame is in the repair queue and
DAMAGE_RATE occurs for it; the PARKED stripes of the record before it return to DAMAGED (R11, R78). Contexts then take work
(R72). The window's frame numbers rise strictly (R5). -/
def Obligations.FrameCloseFixesTheDamage : Prop :=
  ∀ (s : State) (i : StreamIx) (u : IngestUnit) (n : Word32) (f : FrameRec) (d : Nat), s.TakesFrames →
    ingestAccepted kindFrameClose u = true → streamOf u.stream = some i → readFrameCloseBody u.body = some n →
    (s.stream i).state.takesFrames = true → ((s.stream i).window.map (·.number)).Pairwise (· < ·) →
    s.frame i n = some f → f.state = .opened →
    d = (f.stripes.filter fun st => st.state == .damaged || st.state == .expected).length →
    ∃ t : State, exec (.frameClose u) s = .next t.takeWork.kick ∧
      t.frame i n = some (f.withDamageFixed s.engine.closeOrdinal) ∧
      t.engine.closeOrdinal = s.engine.closeOrdinal + 1 ∧
      (0 < d → ∃ r ∈ t.engine.queue, r.stream = i ∧ r.number = n) ∧
      (t.stream i).counters[Counter.damagedFlagged.ix] = (s.stream i).counters[Counter.damagedFlagged.ix] +
        BitVec.ofNat 32 (f.stripes.filter fun st => st.state == .damaged && st.cause == some .flagged).length ∧
      (t.stream i).counters[Counter.damagedCorrupt.ix] = (s.stream i).counters[Counter.damagedCorrupt.ix] +
        BitVec.ofNat 32 (f.stripes.filter fun st => st.state == .damaged && st.cause == some .corrupt).length ∧
      (t.stream i).counters[Counter.damagedAbsent.ix] = (s.stream i).counters[Counter.damagedAbsent.ix] +
        BitVec.ofNat 32 (f.stripes.filter fun st => st.state == .expected ||
          (st.state == .damaged && st.cause == some .absent)).length ∧
      (∀ c : Counter, c ≠ .damagedFlagged → c ≠ .damagedCorrupt → c ≠ .damagedAbsent →
        (t.stream i).counters[c.ix] = (s.stream i).counters[c.ix]) ∧
      (d = 0 → s.Silent t) ∧ (0 < d → s.Occurred t .damageRate (streamId i) (BitVec.ofNat 32 d)) ∧
      (∀ (before after : List FrameRec) (p : FrameRec), (s.stream i).window = before ++ p :: f :: after →
        t.frame i p.number = some { p with
          stripes := p.stripes.map fun st => if st.state = .parked then { st with state := .damaged } else st } ∧
        t.engine.parked = s.engine.parked - (p.stripes.filter fun st => st.state == .parked).length ∧
        ((∃ st ∈ p.stripes, st.state = .parked) → t.Queued p i)) ∧
      ((s.stream i).window.head? = some f → t.engine.parked = s.engine.parked) ∧
      (∀ m g, m ≠ n → s.frame i m = some g → (∀ st ∈ g.stripes, st.state ≠ .parked) → t.frame i m = some g) ∧
      t.store = s.store ∧ t.dir = s.dir ∧ t.drives = s.drives ∧ t.engine.contexts = s.engine.contexts ∧
      (∀ j, j ≠ i → (t.stream j).window = (s.stream j).window ∧ (t.stream j).counters = (s.stream j).counters)

/-- Every other unit: a stream 13 to 255 raises STRAY with scope 0 and no counter; CONTROL or an unknown kind to a stream
1 to 12 is STRAY for it once the sweep is over, while the part is HALTED too (R6, R171, R174); during the sweep it is
discarded (log 13). The detail of a frame unit of a wrong length is the model's choice (log 12). -/
def Obligations.UnitsOfOtherKindsAreStray : Prop :=
  ∀ (s : State) (bytes : List Byte) (kind : Byte) (u : IngestUnit), frameIngest bytes = some (kind, u) →
    ingestAccepted kind u = true →
    (13 ≤ u.stream.toNat → exec (.unknownUnitKind bytes) s = .next (s.raise .stray 0
      (if (kind = kindFrameOpen ∨ kind = kindStripe ∨ kind = kindFrameClose) ∧ 4 ≤ u.body.length then readLe32 u.body
       else 0)).kick) ∧
    (∀ i, streamOf u.stream = some i → kind ≠ kindFrameOpen → kind ≠ kindStripe → kind ≠ kindFrameClose →
      (s.store.sweeping = false → exec (.unknownUnitKind bytes) s = .next (s.stray i 0).kick) ∧
      (s.store.sweeping = true → s.Rested → exec (.unknownUnitKind bytes) s = .next s))

/-! ### Control units and the common checks -/

/-- A CONTROL unit that arrives intact while the interpreter is free is taken by the owning rule of its command
(R154, R155, R156); the row of that command does the same. -/
def Obligations.ControlUnitsReachTheirOwner : Prop :=
  (∀ (tag : Word16) (code zero : Byte) (params : List Byte) (c : Command) (s : State), s.TakesCommands →
    params.length ≤ 16388 → readCommand code params = .command c →
    exec (.control (buildIngest kindControl 0 (le16Bytes tag ++ code :: zero :: params))) s =
      .next (State.owner tag c s).kick) ∧
  (∀ (tag : Word16) (c : Command) (s : State), s.TakesCommands → commandForm c = .command c →
    exec (commandRow tag c) s = .next (State.owner tag c s).kick)

/-- A control unit that cannot be taken yet waits at the tail of the control queue, and nothing else changes (R155). -/
def Obligations.ControlUnitWaitsForAReplyPlace : Prop :=
  ∀ (u : IngestUnit) (s : State), ingestAccepted kindControl u = true → u.stream = 0 →
    s.controlQueue.length < 8 → 32 ≤ s.ret.immediates → s.Rested →
    exec (.control u) s = .next { s with controlQueue := s.controlQueue ++ [readControl kindControl u.body] }

/-- A malformed unit on stream 0 is discarded with no reply, and CONTROL_MALFORMED is raised with its reason code above
its tag, which is 0 for reason code 1 (R155, R157): a body below 4 bytes, another kind, a parameter length the layout does
not allow, a full control queue. That another kind is reason code 2 with a body below 4 bytes too is the model's choice
(log 34), and its tag is open (log 11). -/
def Obligations.MalformedUnitsRaiseTheirReason : Prop :=
  (∀ (u : IngestUnit) (s : State), s.TakesUnits → ingestAccepted kindControl u = true → u.stream = 0 →
    u.body.length < 4 → exec (.control u) s = .next (s.raise .controlMalformed 0 0x00010000#32).kick) ∧
  (∀ (bytes : List Byte) (kind : Byte) (u : IngestUnit) (s : State), s.TakesUnits →
    frameIngest bytes = some (kind, u) → ingestAccepted kind u = true → u.stream = 0 → kind ≠ kindControl →
    ∃ tag : Word16, exec (.unknownUnitKind bytes) s = .next (s.raise .controlMalformed 0 (2#16 ++ tag)).kick) ∧
  (∀ (tag : Word16) (code zero : Byte) (params : List Byte) (s : State), s.TakesUnits → params.length ≤ 16388 →
    readCommand code params = .malformed 3 →
    exec (.control (buildIngest kindControl 0 (le16Bytes tag ++ code :: zero :: params))) s =
      .next (s.raise .controlMalformed 0 (3#16 ++ tag)).kick) ∧
  (∀ (tag : Word16) (code zero : Byte) (params : List Byte) (s : State), s.controlQueue.length = 8 →
    params.length ≤ 16388 →
    exec (.control (buildIngest kindControl 0 (le16Bytes tag ++ code :: zero :: params))) s =
      .next (s.raise .controlMalformed 0 (4#16 ++ tag)).settle)

/-- A command code of no command is refused with UNKNOWN_COMMAND, during the sweep with STARTING (R156). -/
def Obligations.UnknownCommandsAreRefused : Prop :=
  ∀ (tag : Word16) (code : Byte) (params : List Byte) (s : State), s.TakesUnits → code.toNat = 0 ∨ 28 < code.toNat →
    (s.store.sweeping = true → exec (.unknownCommand tag code params) s = .next (s.refuse tag .starting).kick) ∧
    (s.store.sweeping = false → exec (.unknownCommand tag code params) s = .next (s.refuse tag .unknownCommand).kick)

/-- During the sweep every command is refused with STARTING; while the part is HALTED IDENTIFY, READ_FAULTS, STORE_STATUS
and RESET_PART are taken and every other command is refused with HALTED (R34, R156, R158). -/
def Obligations.SweepAndHaltFilterCommands : Prop :=
  ∀ (tag : Word16) (c : Command) (s : State), s.TakesUnits → commandForm c = .command c →
    (s.store.sweeping = true → exec (commandRow tag c) s = .next (s.refuse tag .starting).kick) ∧
    (s.store.sweeping = false → s.monitor.halted = true →
      (c = .identify ∨ c = .readFaults ∨ (∃ p x, c = .storeStatus p x) ∨ c = .resetPart →
        exec (commandRow tag c) s = .next (State.owner tag c s).kick) ∧
      (c ≠ .identify → c ≠ .readFaults → (∀ p x, c ≠ .storeStatus p x) → c ≠ .resetPart →
        exec (commandRow tag c) s = .next (s.refuse tag .halted).kick))

/-- IDENTIFY changes nothing but queues its reply, in OPERATING and HALTED alike, and is refused with STARTING during the
sweep; its results are those of R160's table, little-endian at their widths. -/
def Obligations.IdentifyReportsThePart : Prop :=
  (∀ (tag : Word16) (s : State), s.TakesUnits →
    (s.store.sweeping = true → exec (.identify tag) s = .next (s.refuse tag .starting).kick) ∧
    (s.store.sweeping = false → exec (.identify tag) s = .next (s.done tag (.identify s.monitor.halted)).kick)) ∧
  (∀ halted : Bool, (Results.identify halted).bytes =
    [0x71, 0x3A, 0x12, 0x08, 1, if halted then 1 else 0, 12, 8, 0x00, 0x40, 0x00, 0x02, 96, 16, 4, 16])

/-- The commands that only report change nothing but queue their reply (R22, R31, R51, R56, R152, R176); a slot, a range of
sets, a plan id or an address outside its range is refused with BAD_PARAMETER. READ_PLAN gives the plan's steps and its users:
each started stream that names the plan, with its causes (their order is the model's choice, log 15). DRIVE_STATUS gives each
field of a drive's record, and the burn queue from head to tail. -/
def Obligations.StatusCommandsOnlyReport : Prop :=
  ∀ (tag : Word16) (s : State), s.TakesCommands →
    (∀ id i, streamOf id = some i → ∃ r : StreamReport,
      exec (.streamStatus tag id) s = .next (s.done tag (.streamStatus r)).kick ∧ r.state = (s.stream i).state ∧
      r.config = (s.stream i).config ∧ r.paused = (s.stream i).paused ∧
      r.occupancyReason = (s.stream i).occupancyReason ∧ r.suspensions = s.suspensions i ∧
      r.window = (s.stream i).window.map (fun f =>
        { number := f.number, state := f.state, damaged := f.damaged, unresolved := f.unresolved }) ∧
      r.lastNumber = (s.stream i).lastNumber ∧ r.lastDispatched = (s.stream i).lastDispatched ∧
      r.nextSeq = (s.stream i).nextSeq ∧ r.stopOutstanding = (s.stream i).stopTag.isSome ∧
      r.counters = (s.stream i).counters.toList) ∧
    (∀ id, streamOf id = none → exec (.streamStatus tag id) s = .next (s.refuse tag .badParameter).kick) ∧
    (∀ x : Word16, ∃ r : StoreReport, exec (.storeStatus tag 0 x) s = .next (s.done tag (.storeStatus r)).kick ∧
      r.free = s.store.freeList.length ∧ r.inUse = 16384 - s.store.freeList.length ∧ r.head = s.store.freeList.head? ∧
      r.correction = s.store.correction ∧ r.lastEvent = s.store.lastEvent ∧ r.corrected = s.store.corrected ∧
      r.flawed = s.store.flawed ∧ r.slot = none) ∧
    (∀ (x : Word16) (h : x.toNat < 16384), ∃ r : StoreReport,
      exec (.storeStatus tag 1 x) s = .next (s.done tag (.storeStatus r)).kick ∧
      r.slot = some (s.store.count ⟨x.toNat, h⟩, s.store.freeList.elem ⟨x.toNat, h⟩)) ∧
    (∀ x : Word16, 16384 ≤ x.toNat → exec (.storeStatus tag 1 x) s = .next (s.refuse tag .badParameter).kick) ∧
    (∀ first count : Byte, 1 ≤ count.toNat → count.toNat ≤ 16 → first.toNat + count.toNat ≤ 256 →
      ∃ r : DirectoryReport, exec (.readDirectory tag first count) s = .next (s.done tag (.directory r)).kick ∧
        r.valid = s.dir.validCount ∧ r.ordinal = s.dir.nextOrdinal ∧ r.evictions = s.dir.evictions ∧
        r.flaws = s.dir.flaws ∧ r.sets.length = count.toNat ∧
        ∀ k, k < count.toNat → r.sets[k]? = some (s.dir.row (Fin.ofNat 256 (first.toNat + k)))) ∧
    (∀ first count : Byte, count.toNat = 0 ∨ 16 < count.toNat ∨ 256 < first.toNat + count.toNat →
      exec (.readDirectory tag first count) s = .next (s.refuse tag .badParameter).kick) ∧
    (∀ (id : Byte) (p : Fin 16), id.toNat = p.val → ∃ users : List PlanUser,
      exec (.readPlan tag id) s = .next (s.done tag (.readPlan s.plans[p] users)).kick ∧
      (users.map (·.stream)).Pairwise (· < ·) ∧
      ∀ (i : StreamIx) (causes : List Cause), { stream := i, causes := causes : PlanUser } ∈ users ↔
        (s.stream i).state.started = true ∧ causes ≠ [] ∧ ∃ cfg, (s.stream i).config = some cfg ∧
          causes = (if cfg.planFlagged = p then [.flagged] else []) ++ (if cfg.planCorrupt = p then [.corrupt] else []) ++
            (if cfg.planAbsent = p then [.absent] else [])) ∧
    (∀ id : Byte, 16 ≤ id.toNat → exec (.readPlan tag id) s = .next (s.refuse tag .badParameter).kick) ∧
    (∃ r : DriveIx → DriveReport, (∀ a, (r a).Reports (s.drive a)) ∧
      exec (.driveStatus tag 0) s = .next (s.done tag (.driveStatus (allDrives.map r))).kick) ∧
    (∀ (id : Byte) (a : DriveIx), driveOf id = some a → ∃ r : DriveReport, r.Reports (s.drive a) ∧
      exec (.driveStatus tag id) s = .next (s.done tag (.driveStatus [r])).kick) ∧
    (∀ id : Byte, 9 ≤ id.toNat → exec (.driveStatus tag id) s = .next (s.refuse tag .badParameter).kick) ∧
    exec (.readFaults tag) s = .next (s.done tag (.faults
      { halted := s.monitor.halted, faults := FaultKind.all.map s.fault, notices := s.ret.outbox.length,
        watches := allWatches.map s.watch })).kick

/-- ENGINE_STATUS changes nothing but queues its reply (R91): of each context its stripe, plan, step, method and slots, of a
REFETCH step the try and the timer; the queue's length, its first frame and the frames passed over. The order of the slots is
the model's choice (log 15). The model's counter of free values moves on (log 3, log 23). -/
def Obligations.EngineStatusReports : Prop :=
  ∀ (tag : Word16) (s : State), s.TakesCommands → ∃ r : EngineReport,
    exec (.engineStatus tag) s = .next ({ s with freshIndex := s.freshIndex + 4 }.done tag (.engine r)).kick ∧
    r.queueLength = s.engine.queue.length ∧ r.parked = s.engine.parked ∧ r.closeOrdinal = s.engine.closeOrdinal ∧
    (s.engine.queue = [] → r.first = none) ∧
    (∀ q rest f, s.engine.queue = q :: rest → s.frame q.stream q.number = some f →
      r.first = some { stream := q.stream, number := q.number, ordinal := q.ordinal,
                       damaged := (f.stripes.filter fun st => st.state == .damaged).length }) ∧
    r.passedOver = (s.engine.queue.filter fun q => (s.stream q.stream).state == .stopped).length ∧
    r.contexts.length = 4 ∧
    (∀ c : Fin 4, s.context c = none → r.contexts[c.val]? = some none) ∧
    (∀ (c : Fin 4) (b : Busy), s.context c = some b → ∃ rep : ContextReport,
      r.contexts[c.val]? = some (some rep) ∧ rep.job = b.job ∧ rep.step = b.step ∧
      (∀ cfg st cause, (s.stream b.job.stream).config = some cfg → s.stripe b.job = some st → st.cause = some cause →
        rep.plan = (cfg.planFor cause).val) ∧
      (∀ inputs x g, b.op = .neighbour inputs x g →
        rep.composing = true ∧ rep.method = .neighbour ∧ rep.slots = inputs ++ [x] ∧ rep.refetch = none) ∧
      (∀ d m y x, b.op = .blend d m y x →
        rep.composing = true ∧ rep.method = .blend ∧ rep.slots = [d.slot, y, x] ∧ rep.refetch = none) ∧
      (∀ d, b.op = .verify d →
        rep.composing = true ∧ rep.method = .previous ∧ rep.slots = [d.slot] ∧ rep.refetch = none) ∧
      (∀ n left wait sent timer, b.op = .refetch n left wait sent timer →
        rep.composing = false ∧ rep.method = .refetch ∧ rep.slots = [] ∧
        (timer = false → rep.refetch = some { tryNo := n, triesLeft := left, sent := sent, timeLeft := none }) ∧
        (timer = true → 1 ≤ wait → ∃ ms : Nat,
          rep.refetch = some { tryNo := n, triesLeft := left, sent := sent, timeLeft := some ms } ∧
          1 ≤ ms ∧ ms ≤ wait)))

/-! ### Streams -/

/-- The ranges of a configuration's fields are those of R2's table, and the fields are taken as they are. -/
def Obligations.ConfigurationRanges : Prop :=
  ∀ f : ConfigFields,
    ((∃ cfg, readStreamConfig f = some cfg) ↔
      1 ≤ f.stripes.toNat ∧ f.stripes.toNat ≤ 72 ∧ 512 ≤ f.stripeSize.toNat ∧ f.stripeSize.toNat ≤ 16384 ∧
      f.stripeSize.toNat % 512 = 0 ∧ f.planFlagged.toNat ≤ 15 ∧ f.planCorrupt.toNat ≤ 15 ∧ f.planAbsent.toNat ≤ 15 ∧
      2 ≤ f.depth.toNat ∧ f.depth.toNat ≤ 6 ∧ 900 ≤ f.period.toNat ∧ f.period.toNat ≤ 9000 ∧ f.pattern ≠ 0 ∧
      1 ≤ f.primary.toNat ∧ f.primary.toNat ≤ 8 ∧ f.partner.toNat ≤ 8 ∧ f.partner ≠ f.primary ∧
      f.genLimit.toNat ≤ 3 ∧ f.fallback.toNat ≤ 1 ∧ f.fill.toNat ≤ 1) ∧
    (∀ cfg, readStreamConfig f = some cfg → cfg.stripes = f.stripes.toNat ∧ cfg.stripeSize = f.stripeSize.toNat ∧
      cfg.planFlagged.val = f.planFlagged.toNat ∧ cfg.planCorrupt.val = f.planCorrupt.toNat ∧
      cfg.planAbsent.val = f.planAbsent.toNat ∧ cfg.depth = f.depth.toNat ∧ cfg.period = f.period.toNat ∧
      cfg.pattern = f.pattern ∧ driveAddress cfg.primary = f.primary.toNat ∧
      (cfg.partner.map driveAddress).getD 0 = f.partner.toNat ∧ cfg.genLimit = f.genLimit.toNat ∧
      (cfg.fallback = .mark ↔ f.fallback = 1) ∧ (cfg.fillAllowed = true ↔ f.fill = 0))

/-- CONFIGURE_STREAM, when accepted, replaces the configuration as a whole, takes the pattern, discards a pending one, and
invalidates every directory entry of the stream and no other, each giving up its hold; refused, it only replies (R2, R25,
R47). -/
def Obligations.ConfigureStreamReplacesTheConfiguration : Prop :=
  ∀ (tag : Word16) (id : Byte) (f : ConfigFields) (s : State), s.TakesCommands →
    (streamOf id = none → exec (.configureStream tag id f) s = .next (s.refuse tag .badParameter).kick) ∧
    (∀ i, streamOf id = some i →
      ((s.stream i).state ≠ .unconfigured → (s.stream i).state ≠ .configured →
        exec (.configureStream tag id f) s = .next (s.refuse tag .wrongState).kick) ∧
      ((s.stream i).state = .unconfigured ∨ (s.stream i).state = .configured →
        (readStreamConfig f = none → exec (.configureStream tag id f) s = .next (s.refuse tag .badParameter).kick) ∧
        (∀ cfg, readStreamConfig f = some cfg → ∃ t : State,
          exec (.configureStream tag id f) s = .next (t.done tag .empty).kick ∧
          t.stream i = { s.stream i with
            state := .configured, config := some cfg
            cadence := { (s.stream i).cadence with
              period := some cfg.period, pattern := some cfg.pattern, pendingPattern := none } } ∧
          (∀ j, j ≠ i → t.stream j = s.stream j) ∧
          (∀ k e, (t.dir.row k).way0 = some e ∨ (t.dir.row k).way1 = some e → e.stream ≠ i) ∧
          (∀ k, t.dir.row k = { way0 := (s.dir.row k).way0.filter fun e => e.stream != i
                                way1 := (s.dir.row k).way1.filter fun e => e.stream != i }) ∧
          (s.StoreCanonical → ∀ x, t.store.count x =
            s.store.count x - s.dir.matching fun e => e.stream == i && e.slot == x) ∧
          t.store.dram = s.store.dram ∧ t.store.flips = s.store.flips ∧ t.dir.nextOrdinal = s.dir.nextOrdinal ∧
          t.dir.evictions = s.dir.evictions ∧ t.dir.flaws = s.dir.flaws ∧ t.plans = s.plans ∧ t.engine = s.engine ∧
          t.drives = s.drives ∧ t.burn = s.burn ∧ t.ret = s.ret ∧ t.monitor = s.monitor)))

/-- START_STREAM, when accepted, binds the primary when it is READY, else the partner, and enters PRIMING with its record
cleared; refused, it only replies, with the reason of the first check that fails: an id outside 1 to 12, a state other than
CONFIGURED, an EMPTY plan, a named drive bound to another stream or holding frames, and no READY drive (R13, R142). -/
def Obligations.StartStreamEntersPriming : Prop :=
  (∀ (s : State) (i : StreamIx) (a : DriveIx), s.driveInUse i a = true ↔
    (∃ j, j ≠ i ∧ ((s.drive a).binding = .active j ∨ (s.drive a).binding = .standby j)) ∨ (s.drive a).queue ≠ []) ∧
  ∀ (tag : Word16) (id : Byte) (s : State), s.TakesCommands →
    (streamOf id = none → exec (.startStream tag id) s = .next (s.refuse tag .badParameter).kick) ∧
    (∀ i, streamOf id = some i → (s.stream i).state ≠ .configured →
      exec (.startStream tag id) s = .next (s.refuse tag .wrongState).kick) ∧
    (∀ (i : StreamIx) (cfg : StreamConfig), streamOf id = some i → (s.stream i).state = .configured →
      (s.stream i).config = some cfg → cfg.partner ≠ some cfg.primary →
      (s.plans[cfg.planFlagged] = none ∨ s.plans[cfg.planCorrupt] = none ∨ s.plans[cfg.planAbsent] = none →
        exec (.startStream tag id) s = .next (s.refuse tag .planMissing).kick) ∧
      (s.plans[cfg.planFlagged] ≠ none → s.plans[cfg.planCorrupt] ≠ none → s.plans[cfg.planAbsent] ≠ none →
        (s.driveInUse i cfg.primary = true ∨ (∃ b, cfg.partner = some b ∧ s.driveInUse i b = true) →
          exec (.startStream tag id) s = .next (s.refuse tag .inUse).kick) ∧
        (s.driveInUse i cfg.primary = false → (∀ b, cfg.partner = some b → s.driveInUse i b = false) →
          ((s.drive cfg.primary).condition ≠ .ready →
            (∀ b, cfg.partner = some b → (s.drive b).condition ≠ .ready) →
            exec (.startStream tag id) s = .next (s.refuse tag .noDrive).kick) ∧
          ∀ active standby,
            ((s.drive cfg.primary).condition = .ready ∧ active = cfg.primary ∧ standby = cfg.partner) ∨
              ((s.drive cfg.primary).condition ≠ .ready ∧ cfg.partner = some active ∧
                (s.drive active).condition = .ready ∧ standby = some cfg.primary) →
            ∃ t : State, exec (.startStream tag id) s = .next (t.done tag .empty).kick ∧
              t.stream i = { s.stream i with
                state := .priming, counters := Vector.replicate 17 0, nextSeq := 0, lastNumber := none,
                lastDispatched := none, window := [], paused := false } ∧
              (t.drive active) = { s.drive active with binding := .active i } ∧
              (∀ b, standby = some b → t.drive b = { s.drive b with binding := .standby i }) ∧
              (∀ a, a ≠ active → standby ≠ some a → t.drive a = s.drive a) ∧
              (∀ j, j ≠ i → t.stream j = s.stream j) ∧ t.store = s.store ∧ t.dir = s.dir ∧ t.engine = s.engine ∧
              t.burn = s.burn ∧ t.ret = s.ret ∧ t.monitor = s.monitor)))

/-- STOP_STREAM on a PRIMING, RUNNING or STALLED stream closes its OPEN frame and makes it DRAINING with its reply
outstanding; from PRIMING the cadence starts at position 0, unless that close has halted the part (the model's choice,
log 30); no stripe of it stays PARKED. On a DRAINING stream it is refused with BUSY, in the other states with WRONG_STATE
(R11, R15, R78, R159). The flow state is judged (R19). An id outside 1 to 12 is refused with BAD_PARAMETER (the model's choice,
log 14). Contexts then take work (R72). -/
def Obligations.StopStreamDrains : Prop :=
  (∀ (tag : Word16) (id : Byte) (s : State), s.TakesCommands → streamOf id = none →
    exec (.stopStream tag id) s = .next (s.refuse tag .badParameter).kick) ∧
  ∀ (tag : Word16) (id : Byte) (i : StreamIx) (s : State), s.TakesCommands → streamOf id = some i →
    ((s.stream i).state = .priming ∨ (s.stream i).state = .running ∨ (s.stream i).state = .stalled →
      ∃ t : State, exec (.stopStream tag id) s = .next t.takeWork.kick ∧ (t.stream i).state = .draining ∧
        (t.stream i).stopTag = some tag ∧ t.ret.replies = s.ret.replies ∧
        (t.stream i).window.length = (s.stream i).window.length ∧
        ((s.stream i).state = .priming → (t.stream i).cadence.position = 0 ∧
          (t.stream i).cadence.running = !t.monitor.halted) ∧
        (((s.stream i).window.map (·.number)).Pairwise (· < ·) →
          (∀ g ∈ (t.stream i).window, ∀ st ∈ g.stripes, st.state ≠ .parked) ∧
          (∀ f ∈ (s.stream i).window, f.state ≠ .opened →
            t.frame i f.number = some { f with
              stripes := f.stripes.map fun st => if st.state = .parked then { st with state := .damaged } else st } ∧
            ((∃ st ∈ f.stripes, st.state = .parked) → t.Queued f i)) ∧
          (∀ m f, s.openNumber i = some m → s.frame i m = some f → (∀ st ∈ f.stripes, st.state ≠ .parked) →
            t.frame i m = some (f.withDamageFixed s.engine.closeOrdinal))) ∧
        t.engine.closeOrdinal =
          (if s.openNumber i = none then s.engine.closeOrdinal else s.engine.closeOrdinal + 1) ∧
        (t.stream i).paused = t.pauseReason i ∧ s.FlowJudged t i ∧
        (∀ j, j ≠ i → (t.stream j).state = (s.stream j).state ∧ (t.stream j).window = (s.stream j).window) ∧
        t.store = s.store ∧ t.dir = s.dir ∧ t.drives = s.drives ∧ t.burn = s.burn) ∧
    ((s.stream i).state = .draining → exec (.stopStream tag id) s = .next (s.refuse tag .busy).kick) ∧
    ((s.stream i).state = .unconfigured ∨ (s.stream i).state = .configured ∨ (s.stream i).state = .stopped →
      exec (.stopStream tag id) s = .next (s.refuse tag .wrongState).kick)

/-- ABORT_STREAM on a started stream (R16, R17, R84, R87, R133, R143, R169): its contexts are cancelled, its window and its
queue entries are gone, its frames leave the burn queues but for a head whose transfer has begun, whose SPACE_ASK is in
flight or which is owed an ABANDON, and every hold of what is gone is given up (order: log 10); it is CONFIGURED, FLOWING and
unbound with its configured pattern, its suspensions are released, an outstanding STOP_STREAM is answered with ABORTED, and
then the reply is DONE. A head kept with its exchange in flight is withdrawn when that ends (a NOTE: log 19; a WRITE whose
reads run: log 31), the others are owed an ABANDON. A RESUME is queued for a PAUSED stream (R19). In the other states it only
replies WRONG_STATE, and BAD_PARAMETER to an id outside 1 to 12. Contexts then take work (R72). -/
def Obligations.AbortStreamEndsTheSession : Prop :=
  (∀ (tag : Word16) (id : Byte) (s : State), s.TakesCommands → streamOf id = none →
    exec (.abortStream tag id) s = .next (s.refuse tag .badParameter).kick) ∧
  ∀ (tag : Word16) (id : Byte) (i : StreamIx) (s : State), s.TakesCommands → streamOf id = some i →
    ((s.stream i).state.started = true →
      ∃ t : State, exec (.abortStream tag id) s = .next (t.done tag .empty).takeWork.kick ∧
        (t.stream i).state = .configured ∧ (t.stream i).window = [] ∧ (t.stream i).stopTag = none ∧
        (t.stream i).config = (s.stream i).config ∧ (t.stream i).paused = false ∧
        t.ret.flowSet = (if (s.stream i).paused = true then
          (s.ret.flowSet.filter fun f => f.stream != i) ++ [{ stream := i, pause := false }] else s.ret.flowSet) ∧
        (t.stream i).counters = (s.stream i).counters ∧ (t.stream i).lastNumber = (s.stream i).lastNumber ∧
        (t.stream i).nextSeq = (s.stream i).nextSeq ∧ (t.stream i).cadence.running = false ∧
        (t.stream i).cadence.position = 0 ∧ (t.stream i).cadence.pendingPattern = none ∧
        (t.stream i).cadence.pattern = (s.stream i).config.map (·.pattern) ∧
        (∀ c b, t.context c = some b → b.job.stream ≠ i) ∧
        (∀ c b, s.context c = some b → b.job.stream ≠ i → t.context c = some b) ∧
        (∀ r ∈ t.engine.queue, r.stream ≠ i) ∧ t.engine.queue = (s.engine.queue.filter fun r => r.stream != i) ∧
        t.engine.parked = s.engine.parked - ((s.stream i).window.map fun f =>
          (f.stripes.filter fun st => st.state == .parked).length).sum ∧
        (∀ a, (t.drive a).binding.stream ≠ some i) ∧
        (∀ a, s.headEngaged a = true ↔ (s.drive a).abandonOwed = true ∨ (s.drive a).transfer ≠ .waitingSpace ∨
          ∃ e, s.burn.exchange = some e ∧ e.drive = a ∧ e.purpose = .frame) ∧
        (∀ (a : DriveIx) (d : DriveRec), d = { s.drive a with
            binding := if (s.drive a).binding.stream = some i then .none else (s.drive a).binding } →
          (d.queue = [] → t.drive a = d) ∧
          (∀ f rest, d.queue = f :: rest → f.stream ≠ i ∨ s.headEngaged a = false →
            t.drive a = { d with
              queue := d.queue.filter fun g => g.stream != i
              committed := ((d.queue.filter fun g => g.stream != i).map (·.need)).sum }) ∧
          (∀ f rest, d.queue = f :: rest → f.stream = i → s.headEngaged a = true →
            ((∃ e, s.burn.exchange = some e ∧ e.drive = a ∧ e.purpose = .frame) → t.drive a = { d with
              queue := f :: rest.filter fun g => g.stream != i
              committed := ((f :: rest.filter fun g => g.stream != i).map (·.need)).sum, withdrawn := true }) ∧
            ((∀ e, s.burn.exchange = some e → e.drive = a → e.purpose ≠ .frame) → t.drive a = { d with
              queue := f :: rest.filter fun g => g.stream != i
              committed := ((f :: rest.filter fun g => g.stream != i).map (·.need)).sum
              abandonOwed := true, withdrawn := false }))) ∧
        t.store = (((allContexts.filterMap s.context).filter fun (b : Busy) => b.job.stream == i).flatMap (fun (b : Busy) =>
            b.op.result.toList ++ b.op.inputs) ++
          (s.stream i).window.flatMap (fun (f : FrameRec) => f.stripes.filterMap StripeRec.slot) ++
          allDrives.flatMap (fun a => ((match (s.drive a).queue with
            | [] => []
            | f :: rest => if f.stream = i ∧ s.headEngaged a = true then rest else f :: rest).filter fun (g : FrameRec) =>
              g.stream == i).flatMap fun (f : FrameRec) => f.stripes.filterMap StripeRec.slot)).foldl Store.release s.store ∧
        (∀ w b, t.watch w = some b → b.suspension ≠ some i) ∧
        (∀ w b, s.watch w = some b → t.watch w = some { b with
          suspension := if b.suspension = some i then none else b.suspension }) ∧
        t.ret.replies = s.ret.replies ++
          (match (s.stream i).stopTag with
           | some stop => [{ immediate := false, reply := { tag := stop, answer := .refused .aborted } }]
           | none => []) ∧
        (∀ j, j ≠ i → t.stream j = s.stream j) ∧ t.dir = s.dir ∧ t.plans = s.plans ∧ t.burn = s.burn) ∧
    ((s.stream i).state.started = false → exec (.abortStream tag id) s = .next (s.refuse tag .wrongState).kick)

/-! ### Settings, directory, plans, patterns -/

/-- SET_STORE and SET_LINK change their settings alone and report what stood before; a bad value is refused with
BAD_PARAMETER, and SET_LINK while a stream is started or a frame is queued with WRONG_STATE (R30, R117). -/
def Obligations.SettingsAreTaken : Prop :=
  ∀ (tag : Word16) (s : State), s.TakesCommands →
    (∀ on : Bool, exec (.setStore tag (if on then 1 else 0)) s =
      .next ({ s with store := { s.store with correction := on } }.done tag (.setStore s.store.correction)).kick) ∧
    (∀ v : Byte, 1 < v.toNat → exec (.setStore tag v) s = .next (s.refuse tag .badParameter).kick) ∧
    (∀ factor mode : Byte,
      (factor.toNat ≠ 1 ∧ factor.toNat ≠ 2 ∧ factor.toNat ≠ 4 ∧ factor.toNat ≠ 8) ∨ 1 < mode.toNat →
      exec (.setLink tag factor mode) s = .next (s.refuse tag .badParameter).kick) ∧
    (∀ (f : RateFactor) (block : Bool),
      ((∃ i, (s.stream i).state.started = true) ∨ (∃ a, (s.drive a).queue ≠ []) →
        exec (.setLink tag (BitVec.ofNat 8 f.toNat) (if block then 1 else 0)) s =
          .next (s.refuse tag .wrongState).kick) ∧
      ((∀ i, (s.stream i).state.started = false) → (∀ a, (s.drive a).queue = []) →
        exec (.setLink tag (BitVec.ofNat 8 f.toNat) (if block then 1 else 0)) s =
          .next ({ s with burn := { s.burn with factor := f, mode := if block then .block else .frame } }.done tag
            (.setLink s.burn.factor s.burn.mode)).kick))

/-- PURGE_DIRECTORY invalidates the entries of one stream, or every entry for id 0, and no other; each gives up its hold,
and the reply carries their number. The counters of the directory stay (R48, R25). -/
def Obligations.PurgeDirectoryInvalidates : Prop :=
  ∀ (tag : Word16) (id : Byte) (s : State), s.TakesCommands → s.StoreCanonical →
    (12 < id.toNat → exec (.purgeDirectory tag id) s = .next (s.refuse tag .badParameter).kick) ∧
    (∀ gone : DirEntry → Bool,
      (id = 0 ∧ gone = fun _ => true) ∨ (∃ i, streamOf id = some i ∧ gone = fun e => e.stream == i) →
      ∃ t : State, exec (.purgeDirectory tag id) s = .next (t.done tag (.purged (s.dir.matching gone))).kick ∧
        (∀ k, t.dir.row k = { way0 := (s.dir.row k).way0.filter fun e => !gone e
                              way1 := (s.dir.row k).way1.filter fun e => !gone e }) ∧
        t.dir.nextOrdinal = s.dir.nextOrdinal ∧ t.dir.evictions = s.dir.evictions ∧ t.dir.flaws = s.dir.flaws ∧
        (∀ x, t.store.count x = s.store.count x - s.dir.matching fun e => gone e && e.slot == x) ∧
        t.store.dram = s.store.dram ∧ t.store.flips = s.store.flips ∧ t.store.lastEvent = s.store.lastEvent ∧
        t.store.correction = s.store.correction ∧ t.store.corrected = s.store.corrected ∧
        t.store.flawed = s.store.flawed ∧ t.streams = s.streams ∧ t.plans = s.plans ∧ t.engine = s.engine ∧
        t.drives = s.drives ∧ t.burn = s.burn ∧ t.ret = s.ret ∧ t.monitor = s.monitor)

/-- LOAD_PLAN checks the plan id, the step count and the steps, then whether a started stream names the plan; taken, it
replaces the plan as a whole and nothing else (R53, R54, R55). -/
def Obligations.LoadPlanReplacesThePlan : Prop :=
  (∀ (tag : Word16) (id count : Byte) (steps : List StepFields) (s : State), s.TakesCommands → 1 ≤ steps.length →
    steps.length ≤ 8 →
    (15 < id.toNat ∨ steps.length ≠ count.toNat ∨ readPlan steps = none →
      exec (.loadPlan tag id count steps) s = .next (s.refuse tag .badParameter).kick) ∧
    (∀ (p : Fin 16) (plan : List PlanStep), id.toNat = p.val → steps.length = count.toNat →
      readPlan steps = some plan →
      ((∃ i cfg c, (s.stream i).state.started = true ∧ (s.stream i).config = some cfg ∧ cfg.planFor c = p) →
        exec (.loadPlan tag id count steps) s = .next (s.refuse tag .planInUse).kick) ∧
      ((∀ i cfg c, (s.stream i).state.started = true → (s.stream i).config = some cfg → cfg.planFor c ≠ p) →
        exec (.loadPlan tag id count steps) s =
          .next ({ s with plans := s.plans.set p (some plan) }.done tag (.loadPlan s.plans[p].isSome)).kick))) ∧
  (∀ (steps : List StepFields) (plan : List PlanStep),
    readPlan steps = some plan ↔ steps.map readPlanStep = plan.map some) ∧
  (∀ (f : StepFields) (st : PlanStep), readPlanStep f = some st ↔
    f.onFail.toNat ≤ 1 ∧ st.onFail = (if f.onFail = 1 then .endPlan else .next) ∧
    ((f.method = 1 ∧ f.first.toNat ≤ 1 ∧ st.method = .neighbour (f.first == 1)) ∨
     (f.method = 2 ∧ 1 ≤ f.first.toNat ∧ st.method = .previous f.first.toNat) ∨
     (f.method = 3 ∧ 1 ≤ f.first.toNat ∧ st.method = .blend f.first.toNat) ∨
     (f.method = 4 ∧ 1 ≤ f.first.toNat ∧ f.first.toNat ≤ 7 ∧ 1 ≤ f.second.toNat ∧
       st.method = .refetch f.first.toNat f.second.toNat) ∨
     (f.method = 6 ∧ f.onFail = 1 ∧ st.method = .mark)))

/-- SET_SLOT_PATTERN takes a nonzero pattern at once on a CONFIGURED stream and leaves it pending on a started one; the
reply carries the cadence unit before it (R96). -/
def Obligations.SetSlotPatternTakesEffect : Prop :=
  ∀ (tag : Word16) (id pattern : Byte) (s : State), s.TakesCommands →
    (streamOf id = none ∨ pattern = 0 →
      exec (.setSlotPattern tag id pattern) s = .next (s.refuse tag .badParameter).kick) ∧
    (∀ i r, streamOf id = some i → pattern ≠ 0 → s.stream i = r →
      (r.state = .unconfigured →
        exec (.setSlotPattern tag id pattern) s = .next (s.refuse tag .wrongState).kick) ∧
      (r.state = .configured → exec (.setSlotPattern tag id pattern) s =
        .next ((s.setStream i { r with
          config := r.config.map fun cfg => { cfg with pattern := pattern }
          cadence := { r.cadence with pattern := some pattern } }).done tag (.slotPattern
            { pattern := r.cadence.pattern, position := r.cadence.position,
              pendingPattern := r.cadence.pendingPattern, running := r.cadence.running })).kick) ∧
      (r.state.started = true → exec (.setSlotPattern tag id pattern) s =
        .next ((s.setStream i { r with cadence := { r.cadence with pendingPattern := some pattern } }).done tag
          (.slotPattern
            { pattern := r.cadence.pattern, position := r.cadence.position,
              pendingPattern := r.cadence.pendingPattern, running := r.cadence.running })).kick))

/-! ### Drive commands -/

/-- SURVEY, HOLD_DRIVE, RELEASE_DRIVE and PASS_TO_DRIVE (R131, R148, R149, R151): the checks in their order, the change of
the drive or of the controller, and the reply; SURVEY and PASS_TO_DRIVE reply later. -/
def Obligations.DriveCommandsAct : Prop :=
  ∀ (tag : Word16) (s : State), s.TakesCommands →
    (s.burn.survey ≠ none → exec (.survey tag) s = .next (s.refuse tag .busy).kick) ∧
    (s.burn.survey = none → exec (.survey tag) s = .next { s with burn := { s.burn with
      survey := some { requester := .surveyCommand tag, next := 1 } } }.kick) ∧
    (∀ (id count : Byte) (bytes : List Byte), driveOf id = none → 1 ≤ bytes.length → bytes.length ≤ 32 →
      exec (.holdDrive tag id) s = .next (s.refuse tag .badParameter).kick ∧
      exec (.releaseDrive tag id) s = .next (s.refuse tag .badParameter).kick ∧
      exec (.passToDrive tag id count bytes) s = .next (s.refuse tag .badParameter).kick) ∧
    (∀ (id : Byte) (a : DriveIx) (d : DriveRec), driveOf id = some a → s.drive a = d →
      (d.condition = .absent → exec (.holdDrive tag id) s = .next (s.refuse tag .noDrive).kick) ∧
      (d.condition ≠ .absent → (∃ i, d.binding = .active i) ∨ d.queue ≠ [] →
        exec (.holdDrive tag id) s = .next (s.refuse tag .inUse).kick) ∧
      (d.condition ≠ .absent → (∀ i, d.binding ≠ .active i) → d.queue = [] →
        exec (.holdDrive tag id) s = .next ((s.setDrive a { d with
          condition := .held, releasePending := false, statusRequested := false, transfer := .waitingSpace,
          carry := [] }).done tag (.holdDrive (d.condition == .held) d.condition)).kick) ∧
      (d.condition ≠ .held → exec (.releaseDrive tag id) s = .next (s.refuse tag .wrongState).kick) ∧
      (d.condition = .held → d.relay ≠ .none → exec (.releaseDrive tag id) s = .next (s.refuse tag .busy).kick) ∧
      (d.condition = .held → d.relay = .none → d.releasePending = true →
        exec (.releaseDrive tag id) s = .next (s.done tag .empty).kick) ∧
      (d.condition = .held → d.relay = .none → d.releasePending = false →
        exec (.releaseDrive tag id) s = .next ((s.setDrive a { d with
          releasePending := true, statusRequested := true }).done tag .empty).kick) ∧
      (∀ (count : Byte) (bytes : List Byte), 1 ≤ bytes.length → bytes.length ≤ 32 →
        (bytes.length ≠ count.toNat →
          exec (.passToDrive tag id count bytes) s = .next (s.refuse tag .badParameter).kick) ∧
        (bytes.length = count.toNat → d.condition ≠ .held ∨ d.releasePending = true →
          exec (.passToDrive tag id count bytes) s = .next (s.refuse tag .wrongState).kick) ∧
        (bytes.length = count.toNat → d.condition = .held → d.releasePending = false → d.relay ≠ .none →
          exec (.passToDrive tag id count bytes) s = .next (s.refuse tag .busy).kick) ∧
        (bytes.length = count.toNat → d.condition = .held → d.releasePending = false → d.relay = .none →
          exec (.passToDrive tag id count bytes) s =
            .next (s.setDrive a { d with relay := .pending tag bytes }).kick)))

/-! ### Watches and faults -/

/-- BOOK_WATCH checks the id, the fields' ranges and the watch; taken, the watch is ARMED with the fields and no suspension,
and nothing else changes (R166). The presence byte before the threshold (log 15) and its being left unexamined but with
DAMAGE_RATE (log 36) are the model's choice. When a condition occurs, each ARMED watch that it matches fires, in ascending id:
its notice is offered, a ONCE watch is FIRED, and a NOTIFY_SUSPEND watch takes a suspension on the stream (R167, R168,
R169). -/
def Obligations.BookWatchArmsTheWatch : Prop :=
  (∀ (tag : Word16) (id : Byte) (f : WatchFields) (s : State), s.TakesCommands →
    (15 < id.toNat ∨ readBooking f = none →
      exec (.bookWatch tag id f) s = .next (s.refuse tag .badParameter).kick) ∧
    (∀ (w : Fin 16) (b : Booking), id.toNat = w.val → readBooking f = some b →
      (s.watch w ≠ none → exec (.bookWatch tag id f) s = .next (s.refuse tag .inUse).kick) ∧
      (s.watch w = none → exec (.bookWatch tag id f) s = .next ({ s with monitor := { s.monitor with
        watches := s.monitor.watches.set w (some b) } }.done tag .empty).kick))) ∧
  (∀ f : WatchFields, ((∃ b, readBooking f = some b) ↔
    1 ≤ f.condition.toNat ∧ f.condition.toNat ≤ 8 ∧ f.mode.toNat ≤ 1 ∧ f.action.toNat ≤ 1 ∧
    f.scope.toNat ≤ (if 7 ≤ f.condition.toNat then 8 else 12) ∧
    (f.condition = 1 → f.present = 1 ∧ 1 ≤ f.threshold.toNat ∧ f.threshold.toNat ≤ 72) ∧
    (7 ≤ f.condition.toNat → f.action = 0)) ∧
    (∀ b, readBooking f = some b → b.fired = false ∧ readCondition f.condition = some b.condition ∧
      b.scope = f.scope.toNat ∧ b.threshold = (if f.condition = 1 then some f.threshold.toNat else none) ∧
      b.every = (f.mode == 1) ∧ b.suspend = (f.action == 1) ∧ b.tag = f.tag ∧ b.suspension = none)) ∧
  (∀ (s : State) (k : WatchCondition) (scope : Nat) (detail : Word32),
    s.occur k scope detail = allWatches.foldl (fun u w =>
      match u.watch w with
      | some b =>
        if b.fired = false ∧ b.condition = k ∧ (b.scope = 0 ∨ b.scope = scope) ∧
            (k = .damageRate → b.threshold.getD 1 ≤ detail.toNat) then u.fireWatch w b k scope detail
        else u
      | none => u) s ∧
    (∀ (w : Fin 16) (b : Booking) (o t : State),
      o = s.offerNotice { source := .watch w b.tag, scope := scope, detail := detail } →
      t = s.fireWatch w b k scope detail →
      (b.suspend = false ∨ b.suspension ≠ none ∨ k = .mediaNeeded ∨ k = .driveChange →
        t = o.setWatch w (some { b with fired := !b.every })) ∧
      (∀ i, b.suspend = true → b.suspension = none → k ≠ .mediaNeeded → k ≠ .driveChange → scope = streamId i →
        t.watch w = some { b with fired := !b.every, suspension := some i } ∧
        (∀ v, v ≠ w → t.watch v = o.watch v) ∧ t.monitor.faults = o.monitor.faults ∧
        t.monitor.halted = o.monitor.halted ∧ t.ret.outbox = o.ret.outbox ∧
        t.stream i = { o.stream i with paused := true } ∧ (∀ j, j ≠ i → t.stream j = o.stream j) ∧
        ((o.stream i).paused = true → t.ret.flowSet = o.ret.flowSet) ∧
        ((o.stream i).paused = false → t.ret.flowSet =
          (o.ret.flowSet.filter fun f => f.stream != i) ++ [{ stream := i, pause := true }]))))

/-- REARM_WATCH, RELEASE_WATCH and CANCEL_WATCH (R170): the refusals, the table's change of state, the release of the
suspension with the flow state judged again, the reply with what stood before, and nothing else. -/
def Obligations.WatchCommandsFollowTheTable : Prop :=
  ∀ (tag : Word16) (id : Byte) (s : State), s.TakesUnits → s.store.sweeping = false →
    (s.monitor.halted = true → ∀ c ∈ [Instr.rearmWatch tag id, .releaseWatch tag id, .cancelWatch tag id],
      exec c s = .next (s.refuse tag .halted).kick) ∧
    (s.monitor.halted = false → 15 < id.toNat →
      ∀ c ∈ [Instr.rearmWatch tag id, .releaseWatch tag id, .cancelWatch tag id],
        exec c s = .next (s.refuse tag .badParameter).kick) ∧
    (∀ w : Fin 16, s.monitor.halted = false → id.toNat = w.val →
      (s.watch w = none → ∀ c ∈ [Instr.rearmWatch tag id, .releaseWatch tag id, .cancelWatch tag id],
        exec c s = .next (s.refuse tag .wrongState).kick) ∧
      (∀ b, s.watch w = some b →
        ∀ p ∈ [(Instr.rearmWatch tag id, some { b with fired := false, suspension := none }),
               (.releaseWatch tag id, some { b with suspension := none }), (.cancelWatch tag id, none)],
          ∃ t : State, exec p.1 s = .next (t.done tag (.watch b.fired b.suspension)).kick ∧
            t.watch w = p.2 ∧ (∀ v, v ≠ w → t.watch v = s.watch v) ∧
            (b.suspension = none → t = s.setWatch w p.2) ∧
            (∀ i, b.suspension = some i →
              (t.stream i).paused = ((s.stream i).occupancyReason || decide (0 < t.suspensions i)) ∧
              t.stream i = { s.stream i with paused := (t.stream i).paused } ∧
              ((t.stream i).paused = (s.stream i).paused → t.ret = s.ret) ∧
              ((t.stream i).paused ≠ (s.stream i).paused → t.ret = { s.ret with
                flowSet := (s.ret.flowSet.filter fun f => f.stream != i) ++
                  [{ stream := i, pause := (t.stream i).paused }] }) ∧
              (∀ j, j ≠ i → t.stream j = s.stream j)) ∧
            t.ret.outbox = s.ret.outbox ∧ t.ret.replies = s.ret.replies ∧ t.ret.asks = s.ret.asks ∧
            t.monitor.faults = s.monitor.faults ∧ t.monitor.halted = s.monitor.halted ∧ t.store = s.store ∧
            t.dir = s.dir ∧ t.plans = s.plans ∧ t.engine = s.engine ∧ t.drives = s.drives ∧ t.burn = s.burn))

/-- CLEAR_FAULTS sets the entries of the listed kinds to no, 0 and absent, and the store log's count that is tied to a kind to
0; SET_FAULT_ACTIONS gives the listed kinds their actions. Both report what stood before (R32, R175, R176), a kind named twice
twice (log 16). At a raise the action in force is carried out after the summary update: RECORD nothing, NOTIFY a notice, STOP
a notice and then the stream concerned STOPPED, its flow state judged (R19), HALT a notice and then the part HALTED (R171,
R173, R174). A notice offered to a full outbox is discarded and raises NOTICE_OVERFLOW (R177). -/
def Obligations.FaultCommandsChangeTheListedKinds : Prop :=
  (∀ (tag : Word16) (count : Byte) (kinds : List Byte) (s : State), s.TakesCommands → 1 ≤ kinds.length →
    kinds.length ≤ 11 →
    (kinds.length ≠ count.toNat ∨ readKinds kinds = none →
      exec (.clearFaults tag count kinds) s = .next (s.refuse tag .badParameter).kick) ∧
    (∀ ks, kinds.length = count.toNat → readKinds kinds = some ks →
      ∃ t : State, exec (.clearFaults tag count kinds) s =
          .next (t.done tag (.clearedCounts (ks.map fun k => (s.fault k).count))).kick ∧
        (∀ k ∈ ks, t.fault k = { s.fault k with pending := false, count := 0, firstScope := none }) ∧
        (∀ k, k ∉ ks → t.fault k = s.fault k) ∧
        t.store = { s.store with
          corrected := if .storeCorrected ∈ ks then 0 else s.store.corrected
          flawed := if .storeUncorrectable ∈ ks then 0 else s.store.flawed } ∧
        t.monitor.watches = s.monitor.watches ∧ t.monitor.halted = s.monitor.halted ∧ t.streams = s.streams ∧
        t.dir = s.dir ∧ t.plans = s.plans ∧ t.engine = s.engine ∧ t.drives = s.drives ∧ t.burn = s.burn ∧
        t.ret = s.ret)) ∧
  (∀ (tag : Word16) (count : Byte) (pairs : List (Byte × Byte)) (s : State), s.TakesCommands → 1 ≤ pairs.length →
    pairs.length ≤ 11 →
    (pairs.length ≠ count.toNat ∨ readActions pairs = none →
      exec (.setFaultActions tag count pairs) s = .next (s.refuse tag .badParameter).kick) ∧
    (∀ ps, pairs.length = count.toNat → readActions pairs = some ps →
      ∃ t : State, exec (.setFaultActions tag count pairs) s =
          .next (t.done tag (.formerActions (ps.map fun p => (s.fault p.1).action))).kick ∧
        (∀ p ∈ ps, t.fault p.1 = { s.fault p.1 with action := p.2 }) ∧
        (∀ k, k ∉ ps.map (·.1) → t.fault k = s.fault k) ∧
        t = { s with monitor := { s.monitor with faults := t.monitor.faults } })) ∧
  (∀ (kinds : List Byte) (ks : List FaultKind),
    readKinds kinds = some ks ↔ kinds.map (·.toNat) = ks.map fun k => k.ix.val + 1) ∧
  (∀ (pairs : List (Byte × Byte)) (ps : List (FaultKind × FaultAction)), readActions pairs = some ps ↔
    (pairs.map fun p => (p.1.toNat, p.2.toNat)) = (ps.map fun p => (p.1.ix.val + 1,
      match p.2 with | .record => 0 | .notify => 1 | .stop => 2 | .halt => 3)) ∧
    (ps.map (·.1)).Nodup ∧ ∀ p ∈ ps, p.2 = .stop → p.1.allowsStop = true) ∧
  (∀ (s : State) (n : Notice),
    (s.ret.outbox.length < 32 →
      s.offerNotice n = { s with ret := { s.ret with outbox := s.ret.outbox ++ [n] } }) ∧
    (32 ≤ s.ret.outbox.length → ∃ t : State, s.offerNotice n = t ∧ t.ret = s.ret ∧
      t.monitor.watches = s.monitor.watches ∧ (∀ k, k ≠ .noticeOverflow → t.fault k = s.fault k) ∧
      t.fault .noticeOverflow =
        { pending := true
          count := if (s.fault .noticeOverflow).count = 65535#16 then 65535#16 else (s.fault .noticeOverflow).count + 1
          firstScope := if (s.fault .noticeOverflow).pending = true then (s.fault .noticeOverflow).firstScope else some 0
          action := (s.fault .noticeOverflow).action } ∧
      ((s.fault .noticeOverflow).action ≠ .halt → t.monitor.halted = s.monitor.halted ∧ t.streams = s.streams) ∧
      ((s.fault .noticeOverflow).action = .halt → t.monitor.halted = true ∧
        ∀ i, t.stream i = { s.stream i with cadence := { (s.stream i).cadence with running := false } }))) ∧
  (∀ (s : State) (k : FaultKind) (scope : Nat) (detail : Word32) (u o : State),
    u = s.setFault k
      { pending := true, count := if (s.fault k).count = 65535#16 then 65535#16 else (s.fault k).count + 1,
        firstScope := if (s.fault k).pending = true then (s.fault k).firstScope else some scope,
        action := (s.fault k).action } →
    o = u.offerNotice { source := .fault k, scope := scope, detail := detail } →
    ((s.fault k).action = .record → s.raise k scope detail = u) ∧
    ((s.fault k).action = .notify → s.raise k scope detail = o) ∧
    ((s.fault k).action = .halt → ∃ t : State, s.raise k scope detail = t ∧ t.monitor.halted = true ∧
      t.monitor.faults = o.monitor.faults ∧ t.monitor.watches = o.monitor.watches ∧ t.ret = o.ret ∧
      (∀ i, t.stream i = { s.stream i with cadence := { (s.stream i).cadence with running := false } }) ∧
      t.store = s.store ∧ t.dir = s.dir ∧ t.plans = s.plans ∧ t.engine = s.engine ∧ t.drives = s.drives ∧
      t.burn = s.burn) ∧
    ((s.fault k).action = .stop →
      (∀ i, (k = .sequence ∨ k = .stray ∨ k = .overrun) ∧ scope = streamId i ∨
          (k = .driveSilent ∨ k = .driveWriteFail) ∧
            (∃ a, scope = driveAddress a ∧ (s.drive a).binding.stream = some i) →
        ((s.stream i).state.started = true → (s.stream i).state ≠ .stopped →
          ∃ t : State, s.raise k scope detail = t ∧
            t.stream i = { o.stream i with
              state := .stopped, paused := t.pauseReason i
              cadence := { (o.stream i).cadence with running := false } } ∧
            (∀ j, j ≠ i → t.stream j = o.stream j) ∧ t.monitor = o.monitor ∧ t.ret = { o.ret with
              flowSet := if (t.stream i).paused = (o.stream i).paused then o.ret.flowSet
                else (o.ret.flowSet.filter fun f => f.stream != i) ++ [{ stream := i, pause := (t.stream i).paused }] } ∧
            t.drives = s.drives ∧ t.engine = s.engine) ∧
        ((s.stream i).state.started = false ∨ (s.stream i).state = .stopped → s.raise k scope detail = o)) ∧
      ((k = .sequence ∨ k = .stray ∨ k = .overrun) → scope = 0 → s.raise k scope detail = o) ∧
      (∀ a, (k = .driveSilent ∨ k = .driveWriteFail) → scope = driveAddress a →
        (s.drive a).binding.stream = none → s.raise k scope detail = o)))

/-- A raise counts in its kind's summary entry: the count rises by one up to 65,535, the first scope is taken when pending
was no, and pending becomes yes; power-on and RESET_PART set the entry to no, 0 and absent, and READ_FAULTS shows every
entry (R172). NOTICE_OVERFLOW is raised for a discarded notice alone. -/
def Obligations.RaisesAreCounted : Prop :=
  (∀ (s : State) (k : FaultKind),
    ((s.poweredOn.fault k).pending = false ∧ (s.poweredOn.fault k).count = 0 ∧ (s.poweredOn.fault k).firstScope = none) ∧
    ((s.resetPart.fault k).pending = false ∧ (s.resetPart.fault k).count = 0 ∧ (s.resetPart.fault k).firstScope = none)) ∧
  (∀ (s : State) (k : FaultKind) (scope : Nat) (detail : Word32), k ≠ .noticeOverflow →
    (s.raise k scope detail).fault k =
      { pending := true, count := if (s.fault k).count = 65535#16 then 65535#16 else (s.fault k).count + 1,
        firstScope := if (s.fault k).pending = true then (s.fault k).firstScope else some scope,
        action := (s.fault k).action }) ∧
  (∀ (s : State) (src : NoticeSource),
    (s.raiseOverflow src).fault .noticeOverflow =
      { pending := true
        count := if (s.fault .noticeOverflow).count = 65535#16 then 65535#16 else (s.fault .noticeOverflow).count + 1
        firstScope := if (s.fault .noticeOverflow).pending = true then (s.fault .noticeOverflow).firstScope else some 0
        action := (s.fault .noticeOverflow).action }) ∧
  (∀ (tag : Word16) (s : State), s.TakesCommands → ∃ r : FaultsReport,
    exec (.readFaults tag) s = .next (s.done tag (.faults r)).kick ∧ ∀ k, r.faults[k.ix.val]? = some (s.fault k))

/-! ### RESET_PART -/

/-- RESET_PART, OPERATING or HALTED: the DONE reply with the part state before is queued; every block takes its reset
values but for the store's contents, the link status, the replies waiting, the unit being sent (R35, R92, R136, R161). A unit
being sent on the burn link is finished at its own factor, an open window is closed, and an ABANDON is sent to each present
drive whose head frame is SPACE_ASKED, SENDING or AWAITING_DONE or is owed one, in ascending address, but for one whose
ABANDON is the unit being sent. That these units are kept until they have ended, at the factor before the reset, and that a
second reset keeps those of the first, is the model's choice (log 20). -/
def Obligations.ResetPartResetsTheBlocks : Prop :=
  ∀ (tag : Word16) (s : State), s.TakesUnits → s.store.sweeping = false →
    ∃ t : State, exec (.resetPart tag) s = .next t.kick ∧
      t.streams = State.reset.streams ∧ t.dir = State.reset.dir ∧ t.plans = State.reset.plans ∧
      t.engine = State.reset.engine ∧ t.drives = State.reset.drives ∧ t.monitor = State.reset.monitor ∧
      t.store = { State.reset.store with
        freeList := allSlots, sweeping := false, dram := s.store.dram, flips := s.store.flips } ∧
      t.linkUp = s.linkUp ∧ t.ret.flowSet = [] ∧ t.ret.asks = [] ∧ t.ret.outbox = [] ∧
      t.ret.replies = s.ret.replies ++
        [{ immediate := true, reply := { tag := tag, answer := .done (.resetPart s.monitor.halted) } }] ∧
      (t.ret.sending = none ↔ s.ret.sending = none) ∧
      (∀ r, s.ret.sending = some (.reply r) → t.ret.sending = some (.reply r)) ∧
      { t.burn with exchange := none, closing := [] } = State.reset.burn ∧
      (∀ owed : List Closing, owed = s.burn.closing ++ (allDrives.filterMap fun a =>
          if (s.drive a).present = true ∧ ((s.drive a).abandonOwed = true ∨ (s.drive a).transfer ≠ .waitingSpace) ∧
              ¬((s.burn.exchange.map fun e => (e.drive, e.purpose)) = some (a, .abandon)) then
            (s.drive a).queue.head?.map fun f => ({ drive := a, factor := s.burn.factor,
                                                    unit := .abandon f.stream f.seq } : Closing)
          else none) →
        (∀ e u, s.burn.exchange = some e → e.phase = .sending u →
          t.burn.exchange = some { drive := e.drive, purpose := .closing, factor := e.factor, phase := .sending u } ∧
          t.burn.closing = owed) ∧
        ((∀ e u, s.burn.exchange = some e → e.phase ≠ .sending u) →
          t.burn.closing = owed.tail ∧
          t.burn.exchange = owed.head?.map fun c =>
            { drive := c.drive, purpose := .closing, factor := c.factor, phase := .sending c.unit }))

/-! ### Directory and store reads -/

/-- The bounded test of PREVIOUS and BLEND (R39): a lookup under it finds exactly the key's entry whose number is below,
whose age is within the step's bound, and whose generation is 0, 1 or 2; without one the step fails at its check. How each
step begins (R57, R73): NEIGHBOUR by its inputs, all usable, the generation one above the largest, at most 3, and a result slot
(R60, R61); BLEND by its donor, a successor that is not OPEN, whose stripe is SOUND, and a result slot, and without such a
successor it parks, or fails in DRAINING (R60, R65, R77); REFETCH at once with try 1 (R67, R79); MARK resolves its stripe
(R68). Without a free slot STORE_FULL is raised (R33). Taking work (R70, R72): in OPERATING the lowest FREE context takes the
lowest DAMAGED stripe of the first frame in the queue whose stream is not STOPPED, then the next one the next; the stripe is
REPAIRING, its frame leaves the queue with its last DAMAGED stripe, and the steps of the plan its cause names run from the
resume step on; in HALTED nothing is taken. When contexts take work, how turns go on, and the bound of 6,913 rounds, one above
the stripes of 96 frames, is the model's choice (log 6). -/
def Obligations.BoundedTestJudgesNumberAgeGeneration : Prop :=
  (∀ (d : Directory) (i : StreamIx) (k maxAge : Nat) (n : Word32) (x : Donor),
    d.lookup i k (Directory.bounded n maxAge) = some x ↔
      ∃ e, d.find i k = some e ∧ e.number.toNat < n.toNat ∧ n.toNat - e.number.toNat ≤ maxAge ∧
        (e.generation = 0 ∨ e.generation = 1 ∨ e.generation = 2) ∧
        x = { number := e.number, slot := e.slot, generation := e.generation + 1 }) ∧
  (∀ (s : State) (c : Fin 4) (j : Job) (ix maxAge : Nat),
    s.dir.lookup j.stream j.stripe (Directory.bounded j.number maxAge) = none →
    s.beginPrevious c j ix maxAge = (.failed, s) ∧ s.beginBlend c j ix maxAge = (.failed, s)) ∧
  (∀ (s : State) (c : Fin 4) (j : Job) (ix maxAge : Nat) (x : Donor),
    s.dir.lookup j.stream j.stripe (Directory.bounded j.number maxAge) = some x →
    s.beginPrevious c j ix maxAge =
      (.begun, (s.claim x.slot).setContext c (some { job := j, step := ix, op := .verify x })) ∧
    ∀ t, s.beginBlend c j ix maxAge = (.begun, t) →
      ∃ m y r, t.context c = some { job := j, step := ix, op := .blend x m y r }) ∧
  (∀ (s : State) (c : Fin 4) (j : Job) (ix maxAge : Nat),
    s.beginStep c j ix (.previous maxAge) = s.beginPrevious c j ix maxAge ∧
    s.beginStep c j ix (.blend maxAge) = s.beginBlend c j ix maxAge) ∧
  (∀ (s : State) (c : Fin 4) (j : Job) (ix : Nat) (edge : Bool) (f : FrameRec),
    s.frame j.stream j.number = some f → j.stripe < f.stripeCount →
    (f.stripeCount = 1 ∨ (edge = false ∧ (j.stripe = 0 ∨ j.stripe = f.stripeCount - 1)) →
      s.beginStep c j ix (.neighbour edge) = (.failed, s)) ∧
    (∀ ks : List Nat, NeighbourInputs f.stripeCount j.stripe edge ks →
      ((∃ m ∈ ks, ∀ x, f.stripes[m]? = some x → ¬ x.UsableAsNeighbour) →
        s.beginStep c j ix (.neighbour edge) = (.failed, s)) ∧
      (∀ inputs : List (Slot × Nat), List.Forall₂ (fun (m : Nat) (p : Slot × Nat) => ∃ x, f.stripes[m]? = some x ∧
          x.UsableAsNeighbour ∧ x.slot = some p.1 ∧ x.generation = some p.2) ks inputs →
        ((∃ p ∈ inputs, 3 ≤ p.2) → s.beginStep c j ix (.neighbour edge) = (.failed, s)) ∧
        (∀ gen, (∀ p ∈ inputs, p.2 < gen) → (∃ p ∈ inputs, gen = p.2 + 1) → gen ≤ 3 →
          (s.store.freeList = [] → s.beginStep c j ix (.neighbour edge) =
            (.failed, s.raise .storeFull 0 (BitVec.ofNat 32 (streamId j.stream)))) ∧
          (∀ y rest, s.store.freeList = y :: rest → s.beginStep c j ix (.neighbour edge) =
            (.begun, { s with store := (inputs.map Prod.fst).foldl Store.claim { s.store with
              freeList := rest, holders := Table.set 0 y.val 1 s.store.holders } }.setContext c
                (some { job := j, step := ix, op := .neighbour (inputs.map Prod.fst) y gen }))))))) ∧
  (∀ (s : State) (c : Fin 4) (j : Job) (ix maxAge : Nat) (d : Donor) (before after : List FrameRec) (f : FrameRec),
    s.dir.lookup j.stream j.stripe (Directory.bounded j.number maxAge) = some d →
    (s.stream j.stream).window = before ++ f :: after → f.number = j.number →
    (∀ q ∈ before, q.number ≠ j.number) →
    (after = [] ∨ (∃ g rest, after = g :: rest ∧ g.state = .opened) →
      ((s.stream j.stream).state = .priming ∨ (s.stream j.stream).state = .running ∨
          (s.stream j.stream).state = .stalled →
        s.beginBlend c j ix maxAge = (.parked, ({ s.modStripe j fun x => { x with state := .parked } with
          engine := { s.engine with parked := s.engine.parked + 1 } } : State).setContext c none)) ∧
      ((s.stream j.stream).state = .draining → s.beginBlend c j ix maxAge = (.failed, s))) ∧
    (∀ g rest, after = g :: rest → g.state ≠ .opened →
      ((∀ x, g.stripes[j.stripe]? = some x → x.state ≠ .sound) → s.beginBlend c j ix maxAge = (.failed, s)) ∧
      (∀ x y, g.stripes[j.stripe]? = some x → x.state = .sound → x.slot = some y →
        (s.store.freeList = [] → s.beginBlend c j ix maxAge =
          (.failed, s.raise .storeFull 0 (BitVec.ofNat 32 (streamId j.stream)))) ∧
        (∀ z free, s.store.freeList = z :: free → s.beginBlend c j ix maxAge =
          (.begun, { s with store := (Store.claim { s.store with
            freeList := free, holders := Table.set 0 z.val 1 s.store.holders } d.slot).claim y }.setContext c
              (some { job := j, step := ix, op := .blend d g.number y z })))))) ∧
  (∀ (s : State) (c : Fin 4) (j : Job) (ix tries wait : Nat), s.beginStep c j ix (.refetch tries wait) =
    (.begun, { s.setContext c (some { job := j, step := ix, op := .refetch 1 (tries - 1) wait false false }) with
      ret := { s.ret with asks := s.ret.asks ++ [{ context := c, job := j, tryNo := 1 }] } })) ∧
  (∀ (s : State) (c : Fin 4) (j : Job) (ix : Nat) (f : FrameRec) (st : StripeRec),
    s.frame j.stream j.number = some f → f.stripes[j.stripe]? = some st →
    ∃ t, s.beginStep c j ix .mark = (.marked, t) ∧ s.StripeMarked t c j f st .mark) ∧
  (∀ (s : State) (j : Job) (cfg : StreamConfig) (x : StripeRec) (cause : Cause) (p : Fin 16) (steps : List PlanStep),
    (s.stream j.stream).config = some cfg → s.stripe j = some x → x.cause = some cause →
    p = (match cause with
      | .flagged => cfg.planFlagged
      | .corrupt => cfg.planCorrupt
      | .absent => cfg.planAbsent) → s.plans[p] = some steps → s.jobSteps j = steps) ∧
  (∀ s : State, State.WorkTaken 6913 0 s s.takeWork) ∧
  (∀ s : State, s.monitor.halted = true ∨ s.NoWork → s.takeWork = s)

/-- One placement at insertion (R43, R44, R45): a key's own way is overwritten; else an invalid way is used, way 0 first;
else the entry with the smaller ordinal is evicted. The ordinal counter advances; no other set changes. The home set is
(stripe index + 21 × stream id) mod 256 (R37). A dispatched frame offers its SOUND and REPAIRED stripes of a generation within
the limit, in ascending index (R43). -/
def Obligations.InsertionPlacesOneEntry : Prop :=
  (∀ (i : StreamIx) (k : Nat), (homeSet i k).val = (k + 21 * streamId i) % 256) ∧
  (∀ (s : State) (i : StreamIx) (n : Word32) (limit : Nat) (stripes : List StripeRec),
    s.insertFrame i n limit stripes = stripes.zipIdx.foldl (fun u p =>
      match p.1.generation, p.1.slot with
      | some g, some x =>
        if (p.1.state = .sound ∨ p.1.state = .repaired) ∧ g ≤ limit then u.insertStripe i p.2 n g x else u
      | _, _ => u) s) ∧
  (∀ (s : State) (i : StreamIx) (k gen : Nat) (n : Word32) (x : Slot) (h : Fin 256) (e : DirEntry) (t : State),
    h = homeSet i k →
    e = { stream := i, stripe := k, number := n, generation := gen, slot := x, ordinal := s.dir.nextOrdinal } →
    t = s.insertStripe i k n gen x →
    t.dir.nextOrdinal = s.dir.nextOrdinal + 1 ∧ t.dir.flaws = s.dir.flaws ∧
    (∀ m, m ≠ h → t.dir.row m = s.dir.row m) ∧
    (∀ o, (s.dir.row h).way0 = some o → o.stream = i → o.stripe = k →
      t.dir.row h = { way0 := some e, way1 := (s.dir.row h).way1 } ∧ t.dir.evictions = s.dir.evictions ∧
      t.store = (s.store.claim x).release o.slot) ∧
    (∀ o, wayHasKey (s.dir.row h).way0 i k = false → (s.dir.row h).way1 = some o → o.stream = i → o.stripe = k →
      t.dir.row h = { way0 := (s.dir.row h).way0, way1 := some e } ∧ t.dir.evictions = s.dir.evictions ∧
      t.store = (s.store.claim x).release o.slot) ∧
    ((s.dir.row h).way0 = none → wayHasKey (s.dir.row h).way1 i k = false →
      t.dir.row h = { way0 := some e, way1 := (s.dir.row h).way1 } ∧ t.dir.evictions = s.dir.evictions ∧
      t.store = s.store.claim x) ∧
    (∀ o, (s.dir.row h).way0 = some o → wayHasKey (some o) i k = false → (s.dir.row h).way1 = none →
      t.dir.row h = { way0 := some o, way1 := some e } ∧ t.dir.evictions = s.dir.evictions ∧
      t.store = s.store.claim x) ∧
    (∀ o q, (s.dir.row h).way0 = some o → (s.dir.row h).way1 = some q → wayHasKey (some o) i k = false →
      wayHasKey (some q) i k = false →
      t.dir.evictions = s.dir.evictions + 1 ∧
      (o.ordinal < q.ordinal → t.dir.row h = { way0 := some e, way1 := some q } ∧
        t.store = (s.store.release o.slot).claim x) ∧
      (q.ordinal < o.ordinal → t.dir.row h = { way0 := some o, way1 := some e } ∧
        t.store = (s.store.release q.slot).claim x)) ∧
    t.streams = s.streams ∧ t.plans = s.plans ∧ t.engine = s.engine ∧ t.drives = s.drives ∧ t.burn = s.burn ∧
    t.ret = s.ret ∧ t.monitor = s.monitor)

/-- A store read (R27, R28, R29, R49): no flipped bit is CLEAN and changes nothing; one flipped bit in each
of one or more words is CORRECTED with correction ON and delivers every such word as written, FLAWED with it OFF; two in one
word are FLAWED, and a FLAWED read delivers the data as read. The log and the fault
kind take the result, and after a FLAWED read no directory entry names the slot. -/
def Obligations.StoreReadsAreJudged : Prop :=
  ∀ (s : State) (p : ReadPurpose) (x : Slot) (size : Nat),
    (s.store.flipsIn x size = [] → s.readSlot p x size =
      (false, Memory.readBytes s.store.dram (slotBase x) size, s)) ∧
    (∀ w mask, s.store.flipsIn x size = [(w, mask)] → popCount mask = 1 →
      (s.store.correction = true →
        (s.readSlot p x size).1 = false ∧
        (s.readSlot p x size).2.1 = patchWord (Memory.readBytes s.store.dram (slotBase x) size) (w - slotWord x)
          (s.store.word w ^^^ mask) ∧
        (s.readSlot p x size).2.2 = { s with store := { s.store with
          lastEvent := some { slot := x, purpose := p, result := .corrected },
          corrected := if s.store.corrected = 65535#16 then 65535#16 else s.store.corrected + 1 } }.raise
            .storeCorrected 0 (BitVec.ofNat 32 x.val)) ∧
      (s.store.correction = false → (s.readSlot p x size).1 = true)) ∧
    (s.store.flipsIn x size ≠ [] → (∀ w mask, (w, mask) ∈ s.store.flipsIn x size → popCount mask = 1) →
      (s.store.correction = true →
        (s.readSlot p x size).1 = false ∧
        (s.readSlot p x size).2.1 = (s.store.flipsIn x size).foldl (fun data q =>
          patchWord data (q.1 - slotWord x) (s.store.word q.1 ^^^ q.2))
            (Memory.readBytes s.store.dram (slotBase x) size) ∧
        (s.readSlot p x size).2.2 = { s with store := { s.store with
          lastEvent := some { slot := x, purpose := p, result := .corrected },
          corrected := if s.store.corrected = 65535#16 then 65535#16 else s.store.corrected + 1 } }.raise
            .storeCorrected 0 (BitVec.ofNat 32 x.val)) ∧
      (s.store.correction = false → (s.readSlot p x size).1 = true)) ∧
    (∀ w mask, (w, mask) ∈ s.store.flipsIn x size → popCount mask = 2 → (s.readSlot p x size).1 = true) ∧
    ((s.readSlot p x size).1 = true →
      (s.readSlot p x size).2.1 = Memory.readBytes s.store.dram (slotBase x) size) ∧
    ((s.readSlot p x size).1 = true → ∃ t, t = (s.readSlot p x size).2.2 ∧
      t.store.lastEvent = some { slot := x, purpose := p, result := .flawed } ∧
      t.store.flawed = (if s.store.flawed = 65535#16 then 65535#16 else s.store.flawed + 1) ∧
      t.store.corrected = s.store.corrected ∧ t.store.dram = s.store.dram ∧ t.store.flips = s.store.flips ∧
      (t.fault .storeUncorrectable).pending = true ∧
      (∀ k e, (t.dir.row k).way0 = some e ∨ (t.dir.row k).way1 = some e → e.slot ≠ x) ∧
      t.dir.flaws = s.dir.flaws + BitVec.ofNat 32 (s.dir.matching fun e => e.slot == x) ∧
      t.dir.evictions = s.dir.evictions ∧ t.dir.nextOrdinal = s.dir.nextOrdinal)

/-! ### Repair events -/

/-- A compose or verify whose reads are CLEAN or CORRECTED repairs its stripe (R59, R62, R64, R66, R76): the mean or the copy
of the data delivered on the result slot, or the donor's slot adopted; the method, donors and generation; the counter; one
unresolved stripe fewer; the old slot and the inputs given up; the context FREE. With a FLAWED read the result slot and then
the inputs are given up, no directory entry names a FLAWED slot, and the step fails (R28, R49, R58, R73). The bits that flip
before the reads are the operand's (log 8); the order of the two reads is the model's choice (log 32), and so is that of the
releases after a FLAWED one (log 10). Contexts then take work (R72). -/
def Obligations.CompletionsRepairTheStripe : Prop :=
  ∀ (s s0 : State) (c : Fin 4) (flips : List Flip) (b : Busy) (f : FrameRec) (st : StripeRec), s.context c = some b →
    s.frame b.job.stream b.job.number = some f → f.stripeAt b.job.stripe = some st →
    s0 = { s with store := s.store.strikeAll flips } →
    (∀ (inputs : List Slot) (result : Slot) (gen : Nat) (flawed : Bool) (data : List Byte) (r : State),
      b.op = .neighbour inputs result gen →
      (∃ x, inputs = [x] ∧ (flawed, data, r) = s0.readSlot .compose x f.stripeSize) ∨
        (∃ x y p q, inputs = [x, y] ∧ p = s0.readSlot .compose x f.stripeSize ∧
          q = p.2.2.readSlot .compose y f.stripeSize ∧ flawed = (p.1 || q.1) ∧ data = meanBytes p.2.1 q.2.1 ∧
          r = q.2.2) →
      ∃ t : State, exec (.composeCompletion c flips) s = .next t.takeWork.kick ∧
        (flawed = false → t.context c = none ∧
          t.frame b.job.stream b.job.number = some (f.withResolved b.job.stripe { st with
            state := .repaired, slot := some result, method := some .neighbour, donors := [],
            generation := some gen }) ∧
          (t.stream b.job.stream).counters[Counter.repairedNeighbour.ix] =
            (s.stream b.job.stream).counters[Counter.repairedNeighbour.ix] + 1 ∧
          t.store = inputs.foldl Store.release (match st.slot with
            | some y => (r.store.write result data).release y
            | none => r.store.write result data) ∧
          t.dir = r.dir ∧ t.drives = s.drives ∧ t.ret = r.ret ∧ t.monitor = r.monitor) ∧
        (flawed = true →
          { r with store := (result :: inputs).foldl Store.release r.store }.StepFails t c b f st)) ∧
    (∀ (d : Donor) (m : Word32) (y result : Slot) (p q : Bool × List Byte × State), b.op = .blend d m y result →
      p = s0.readSlot .compose d.slot f.stripeSize → q = p.2.2.readSlot .compose y f.stripeSize →
      ∃ t : State, exec (.composeCompletion c flips) s = .next t.takeWork.kick ∧
        (p.1 = false → q.1 = false → t.context c = none ∧
          t.frame b.job.stream b.job.number = some (f.withResolved b.job.stripe { st with
            state := .repaired, slot := some result, method := some .blend, donors := [d.number, m],
            generation := some d.generation }) ∧
          (t.stream b.job.stream).counters[Counter.repairedBlend.ix] =
            (s.stream b.job.stream).counters[Counter.repairedBlend.ix] + 1 ∧
          t.store = ((match st.slot with
            | some z => (q.2.2.store.write result (meanBytes p.2.1 q.2.1)).release z
            | none => q.2.2.store.write result (meanBytes p.2.1 q.2.1)).release d.slot).release y ∧
          t.dir = q.2.2.dir ∧ t.drives = s.drives ∧ t.ret = q.2.2.ret ∧ t.monitor = q.2.2.monitor) ∧
        (p.1 = true ∨ q.1 = true →
          { q.2.2 with
            store := ((q.2.2.store.release result).release d.slot).release y }.StepFails t c b f st)) ∧
    (∀ (d : Donor) (p : Bool × List Byte × State), b.op = .verify d →
      p = s0.readSlot .verify d.slot f.stripeSize →
      ∃ t : State, exec (.verifyCompletion c flips) s = .next t.takeWork.kick ∧
        (p.1 = false → t.context c = none ∧
          t.frame b.job.stream b.job.number = some (f.withResolved b.job.stripe { st with
            state := .repaired, slot := some d.slot, method := some .previous, donors := [d.number],
            generation := some d.generation }) ∧
          (t.stream b.job.stream).counters[Counter.repairedPrevious.ix] =
            (s.stream b.job.stream).counters[Counter.repairedPrevious.ix] + 1 ∧
          t.store = (match st.slot with
            | some y => (p.2.2.store.claim d.slot).release y
            | none => p.2.2.store.claim d.slot).release d.slot ∧
          t.dir = p.2.2.dir ∧ t.drives = s.drives ∧ t.ret = p.2.2.ret ∧ t.monitor = p.2.2.monitor) ∧
        (p.1 = true → { p.2.2 with store := p.2.2.store.release d.slot }.StepFails t c b f st)) ∧
    (∀ (p : ReadPurpose) (x : Slot) (u : State), (u.readSlot p x f.stripeSize).1 = true →
      ∀ k e, ((u.readSlot p x f.stripeSize).2.2.dir.row k).way0 = some e ∨
        ((u.readSlot p x f.stripeSize).2.2.dir.row k).way1 = some e → e.slot ≠ x)

/-- A refetch timer's end makes the try fail (R82, R83): its ask is withdrawn; with tries left the next ask is queued, or the
stripe returns to DAMAGED and its frame to the queue where no step may start; on the last try REFETCH_EXHAUSTED occurs and the
step fails (R58, R73), so that the stripe is MARKED with END or on the last step, and the next step begins otherwise. Contexts
then take work (R72). -/
def Obligations.RefetchTimerEndFailsTheTry : Prop :=
  ∀ (s : State) (c : Fin 4) (b : Busy) (n left wait : Nat) (sent : Bool) (f : FrameRec) (st : StripeRec),
    s.context c = some b → b.op = .refetch n left wait sent true →
    s.frame b.job.stream b.job.number = some f → f.stripeAt b.job.stripe = some st →
    ∃ t : State, exec (.refetchTimerExpiry c) s = .next t.takeWork.kick ∧ s.TryFails t c b n left wait f st

/-! ### Cadence and dispatch -/

/-- A cadence expiry (R94, R95, R97, R98, R99, R100, R101, R102, R103, R104, R105, R106, R107, R108, R109, R110, R144, R145;
stripes offered at dispatch: R43): the position and patterns advance; a dispatch slot slips, stalls the stream, completes a
drain, makes a fill frame, or hands the head to the ACTIVE drive, NORMAL when RESOLVED and FORCED when CLOSED, an OPEN head
closing first. When the ACTIVE drive is not READY or short of capacity and the STANDBY drive is READY with room, the roles are
exchanged first, and otherwise the answer is NONE; a READY drive that failed on capacity becomes FULL. The expiry that
completes a drain leaves position 0 (log 24). The flow state is judged (R19). A forced stripe claims its donor's slot and
gives up its own, and the frame then enters the directory; the order of the slots that cancelled contexts give up is the
model's choice (log 10). Contexts then take work (R72). -/
def Obligations.CadenceExpiryDispatches : Prop :=
  ∀ (s : State) (i : StreamIx) (r : StreamRec) (cfg : StreamConfig) (p : BitVec 8) (after : Cadence) (need : Nat),
    s.stream i = r → r.cadence.running = true → r.cadence.pattern = some p → r.config = some cfg →
    need = sectorNeed cfg.stripes cfg.stripeSize →
    after = (match r.cadence.pendingPattern with
      | none => { r.cadence with position := r.cadence.position + 1 }
      | some q =>
        if r.cadence.position = 7 then { r.cadence with position := 0, pattern := some q, pendingPattern := none }
        else { r.cadence with position := r.cadence.position + 1 }) →
    (p.getLsbD r.cadence.position.val = false →
      exec (.cadenceExpiry i) s = .next (s.setStream i { r with cadence := after }).takeWork.kick) ∧
    (p.getLsbD r.cadence.position.val = true →
      (r.window = [] → r.state ≠ .draining → cfg.fillAllowed = false ∨ s.recordFree = false →
        exec (.cadenceExpiry i) s = .next (s.setStream i { r with
          cadence := after
          counters := r.counters.set Counter.slips.ix (r.counters[Counter.slips.ix] + 1) }).takeWork.kick) ∧
      (∀ tag, r.window = [] → r.state = .draining → r.stopTag = some tag →
        ∃ t : State, exec (.cadenceExpiry i) s = .next t.takeWork.kick ∧ (t.stream i).state = .configured ∧
          (t.stream i).stopTag = none ∧ (t.stream i).cadence = { r.cadence with
            running := false, position := 0, pattern := some cfg.pattern, pendingPattern := none } ∧
          (t.stream i).counters = r.counters ∧ t.ret.replies = s.ret.replies ++
            [{ immediate := false, reply := { tag := tag, answer := .done .empty } }] ∧
          (∀ a, (t.drive a).binding.stream ≠ some i) ∧
          (∀ w b, t.watch w = some b → b.suspension ≠ some i) ∧ (t.stream i).paused = false ∧
          t.ret.flowSet = (if r.paused = true then
            (s.ret.flowSet.filter fun f => f.stream != i) ++ [{ stream := i, pause := false }] else s.ret.flowSet) ∧
          (∀ j, j ≠ i → t.stream j = s.stream j) ∧ t.store = s.store ∧ t.dir = s.dir ∧ t.burn = s.burn) ∧
      (r.window ≠ [] ∨ (r.state ≠ .draining ∧ cfg.fillAllowed = true ∧ s.recordFree = true) →
        (r.window.map (·.number)).Pairwise (· < ·) →
        (∀ a, s.activeOf i = some a → s.readyFor a need = true →
          (4 ≤ (s.drive a).queue.length → exec (.cadenceExpiry i) s = .next (s.setStream i { r with
            cadence := after
            counters := r.counters.set Counter.slips.ix (r.counters[Counter.slips.ix] + 1) }).takeWork.kick) ∧
          ((s.drive a).queue.length < 4 →
            ∃ t : State, exec (.cadenceExpiry i) s = .next t.takeWork.kick ∧ s.Dispatched t i cfg a after)) ∧
        (∀ a b, s.activeOf i = some a → s.readyFor a need = false → s.standbyOf i = some b →
          s.readyFor b need = true →
          ∃ u v : State,
            ((s.drive a).condition = .ready →
              s.Occurred v .mediaNeeded (driveAddress a) ((s.drive a).remaining.getD 0)) ∧
            ((s.drive a).condition ≠ .ready → s.Silent v) ∧
            v.Occurred u .span (streamId i) (BitVec.ofNat 32 (driveAddress b)) ∧ s.FlowJudged u i ∧
            u.drive a = { s.drive a with
              binding := .standby i
              condition := if (s.drive a).condition = .ready then .full else (s.drive a).condition } ∧
            u.drive b = { s.drive b with binding := .active i } ∧
            (∀ x, x ≠ a → x ≠ b → u.drive x = s.drive x) ∧ u.store = s.store ∧ u.dir = s.dir ∧ u.plans = s.plans ∧
            u.engine = s.engine ∧ u.burn = s.burn ∧
            (∀ j, (u.stream j).window = (s.stream j).window ∧ (u.stream j).config = (s.stream j).config ∧
              (u.stream j).counters = (s.stream j).counters ∧ (u.stream j).state = (s.stream j).state ∧
              (u.stream j).nextSeq = (s.stream j).nextSeq ∧
              (u.stream j).lastDispatched = (s.stream j).lastDispatched) ∧
            (4 ≤ (s.drive b).queue.length →
              exec (.cadenceExpiry i) s = .next (u.setStream i { u.stream i with
                cadence := { after with running := (u.stream i).cadence.running }
                counters := r.counters.set Counter.slips.ix (r.counters[Counter.slips.ix] + 1) }).takeWork.kick) ∧
            ((s.drive b).queue.length < 4 →
              ∃ t : State, exec (.cadenceExpiry i) s = .next t.takeWork.kick ∧ u.Dispatched t i cfg b after)) ∧
        (∀ a, s.activeOf i = some a → s.readyFor a need = false →
          (∀ b, s.standbyOf i = some b → s.readyFor b need = false) →
          ∃ t v : State, exec (.cadenceExpiry i) s = .next t.takeWork.kick ∧
            ((s.drive a).condition = .ready →
              s.Occurred v .mediaNeeded (driveAddress a) ((s.drive a).remaining.getD 0)) ∧
            ((s.drive a).condition ≠ .ready → s.Silent v) ∧
            (r.state = .running → v.Occurred t .stall (streamId i) ((r.window.head?.map (·.number)).getD 0)) ∧
            (r.state ≠ .running → v.Silent t) ∧
            (t.stream i).state = (if r.state = .running then .stalled else r.state) ∧ s.FlowJudged t i ∧
            (t.stream i).window = r.window ∧ { (t.stream i).cadence with running := after.running } = after ∧
            (t.stream i).counters = r.counters.set Counter.slips.ix (r.counters[Counter.slips.ix] + 1) ∧
            t.drive a = { s.drive a with
              condition := if (s.drive a).condition = .ready then .full else (s.drive a).condition } ∧
            (∀ b, b ≠ a → t.drive b = s.drive b) ∧ t.store = s.store ∧ t.dir = s.dir ∧ t.engine = s.engine ∧
            t.burn = s.burn)) ∧
      (s.activeOf i = none → r.window ≠ [] → r.state = .running →
        ∃ t : State, exec (.cadenceExpiry i) s = .next t.takeWork.kick ∧ (t.stream i).state = .stalled ∧
          s.FlowJudged t i ∧ (t.stream i).window = r.window ∧
          (t.stream i).counters[Counter.slips.ix] = r.counters[Counter.slips.ix] + 1 ∧ t.drives = s.drives) ∧
      (s.activeOf i = none → r.window ≠ [] → r.state ≠ .running →
        exec (.cadenceExpiry i) s = .next (s.setStream i { r with
          cadence := after
          counters := r.counters.set Counter.slips.ix (r.counters[Counter.slips.ix] + 1) }).takeWork.kick)) ∧
    (∀ a, s.activeOf i = some a → (s.drive a).binding = .active i) ∧
    (∀ a, s.standbyOf i = some a → (s.drive a).binding = .standby i) ∧
    (∀ a, s.readyFor a need = true ↔ (s.drive a).condition = .ready ∧ ∃ q : Word32,
      (s.drive a).remaining = some q ∧ need + (s.drive a).committed ≤ q.toNat)

/-! ### The burn link -/

/-- The poll timer makes a round due (R129); a turn boundary begins the first pending item in the order of R118: an owed
ABANDON, a relay's command, a requested status ask, the survey, the poll round with its discovery part (R130), a frame turn or
a relay's turn by rotation (R119). A turn goes to the first drive with work above the rotation pointer, the pointer's own
address last. A head in WAITING_SPACE is SPACE_ASKED from the start of its ask (the model's choice, log 30); one in SENDING
sends its next data sectors, or its NOTE when none is left (R119, R122, R124). A WRITE carries up to 8 sectors; the stripes
whose first byte lies in them are read first, or blank when they have no slot (R122, R123). Beginning a unit puts it on the
link at the factor in force (R115). -/
def Obligations.TurnBoundaryTakesTheFirstItem : Prop :=
  (∀ (s : State) (a : DriveIx) (f : FrameRec) (first : Nat), s.WriteBegins (s.startWrite a f first) a f first) ∧
  (∀ (s : State) (a : DriveIx) (p : Purpose) (u : BurnUnit), (s.startUnit a p u).burn.exchange =
    some { drive := a, purpose := p, factor := s.burn.factor, phase := .sending u }) ∧
  (∀ s : State, s.burn.pollRunning = true →
    exec .pollTimerExpiry s = .next { s with burn := { s.burn with pollDue := true } }) ∧
  (∀ d : DriveRec, d.hasWork = true ↔
    (d.queue ≠ [] ∧ (d.condition = .ready ∨ d.condition = .full) ∧ d.abandonOwed = false) ∨
    ∃ tag, d.relay = .outstanding tag) ∧
  (∀ s : State, s.burn.exchange = none → s.burn.closing = [] → s.burn.item = .idle → s.monitor.halted = false →
    (∀ a f rest, (s.drive a).abandonOwed = true → (∀ b, b < a → (s.drive b).abandonOwed = false) →
      (s.drive a).queue = f :: rest →
      exec .turnBoundary s = .next (s.startUnit a .abandon (.abandon f.stream f.seq)).kick) ∧
    ((∀ a, (s.drive a).abandonOwed = false) →
      (∀ a tag bytes, (s.drive a).relay = .pending tag bytes → (∀ b, b < a → ∀ u bs, (s.drive b).relay ≠ .pending u bs) →
        exec .turnBoundary s = .next (s.startUnit a .relayCommand (.driveCommand bytes)).kick) ∧
      ((∀ a u bs, (s.drive a).relay ≠ .pending u bs) →
        (∀ a, (s.drive a).statusRequested = true → (∀ b, b < a → (s.drive b).statusRequested = false) →
          exec .turnBoundary s = .next (s.startUnit a .requested .statusAsk).kick) ∧
        ((∀ a, (s.drive a).statusRequested = false) →
          (∀ v (a : DriveIx), s.burn.survey = some v → v.next = driveAddress a →
            exec .turnBoundary s = .next ({ s with burn := { s.burn with
              item := .survey, survey := some { v with next := v.next + 1 } } }.startUnit a .survey
                .presenceAsk).kick) ∧
          (s.burn.survey = none →
            (∀ a, s.burn.pollDue = true → (s.drive a).present = true → (s.drive a).hasWork = false →
              (∀ b, b < a → (s.drive b).present = false ∨ (s.drive b).hasWork = true) →
              exec .turnBoundary s = .next ({ s with burn := { s.burn with
                pollDue := false, item := .poll (driveAddress a + 1) } }.startUnit a .pollStatus .statusAsk).kick) ∧
            (s.burn.pollDue = true → (∀ a, (s.drive a).present = false ∨ (s.drive a).hasWork = true) →
              (∀ k : Nat, 1 ≤ k → k ≤ 8 →
                (s.drive (s.burn.discovery + Fin.ofNat 8 k)).condition = .absent →
                (∀ m : Nat, 1 ≤ m → m < k → (s.drive (s.burn.discovery + Fin.ofNat 8 m)).condition ≠ .absent) →
                exec .turnBoundary s = .next ({ s with burn := { s.burn with
                  pollDue := false, item := .idle, discovery := s.burn.discovery + Fin.ofNat 8 k } }.startUnit
                    (s.burn.discovery + Fin.ofNat 8 k) .discovery .presenceAsk).kick) ∧
              ((∀ a, (s.drive a).condition ≠ .absent) →
                exec .turnBoundary s = .next { s with burn := { s.burn with pollDue := false } }.kick)) ∧
            (∀ (k : Nat) (a : DriveIx), s.burn.pollDue = false → 1 ≤ k → k ≤ 8 →
              a = s.burn.rotation + Fin.ofNat 8 k → (s.drive a).hasWork = true →
              (∀ m : Nat, 1 ≤ m → m < k → (s.drive (s.burn.rotation + Fin.ofNat 8 m)).hasWork = false) →
              (∀ tag, (s.drive a).relay = .outstanding tag → exec .turnBoundary s =
                .next ({ s with burn := { s.burn with rotation := a } }.startUnit a .relayTurn .statusAsk).kick) ∧
              (∀ f rest, (s.drive a).queue = f :: rest → (s.drive a).relay = .none →
                ((s.drive a).transfer = .waitingSpace → exec .turnBoundary s =
                  .next (({ s with burn := { s.burn with rotation := a } }.setDrive a { s.drive a with
                    transfer := .spaceAsked }).startUnit a .frame (.spaceAsk f.stream f.seq f.need)).kick) ∧
                (∀ sector, (s.drive a).transfer = .sending sector →
                  (sector < dataSectors f.stripeCount f.stripeSize → exec .turnBoundary s =
                    .next ({ s with burn := { s.burn with rotation := a } }.startWrite a f sector).kick) ∧
                  (∀ note, dataSectors f.stripeCount f.stripeSize ≤ sector → f.note = some note →
                    exec .turnBoundary s = .next ({ s with burn := { s.burn with rotation := a } }.startUnit a .frame
                      (.note f.stream f.seq note.sector)).kick)))) ∧
            (s.burn.pollDue = false → (∀ a, (s.drive a).hasWork = false) → exec .turnBoundary s = .next s.kick))))))

/-- The end of a unit on the burn link (R115, R122, R124, R133, R134, R136): an ask, a SPACE_ASK and a NOTE open their
window; a WRITE moves the next sector, and the turn ends in BLOCK mode and goes on in FRAME mode, and a withdrawn frame is
owed an ABANDON, which in FRAME mode follows at once; the next WRITE reads its stripes first (R123); an ABANDON's frame is
discarded; a relay's command is OUTSTANDING; after
a RESET_PART's unit the next one begins (log 20). That AWAITING_DONE, the discard and OUTSTANDING begin at the end of the unit
is the model's choice (log 30). -/
def Obligations.BurnUnitEndGoesOn : Prop :=
  (∀ (s : State) (a : DriveIx) (f : FrameRec) (first : Nat), s.WriteBegins (s.startWrite a f first) a f first) ∧
  (∀ (s : State) (a : DriveIx) (f : FrameRec) (note : RepairNote), f.note = some note →
    s.startNote a f = s.startUnit a .frame (.note f.stream f.seq note.sector)) ∧
  ∀ (s : State) (e : Exchange) (u : BurnUnit) (d : DriveRec), s.burn.exchange = some e → e.phase = .sending u →
    s.drive e.drive = d →
    (e.purpose = .closing →
      (s.burn.closing = [] → exec .burnUnitEnd s = .next s.clearExchange.kick) ∧
      (∀ k rest, s.burn.closing = k :: rest → ∃ t : State, exec .burnUnitEnd s = .next t.kick ∧
        t.burn.closing = rest ∧ t.burn.exchange =
          some { drive := k.drive, purpose := .closing, factor := k.factor, phase := .sending k.unit } ∧
        t = { s with burn := t.burn })) ∧
    (e.purpose ≠ .closing →
      (∀ w, (u = .presenceAsk ∧ w = .presence) ∨ (u = .statusAsk ∧ w = .status) ∨
          (∃ i n need, u = .spaceAsk i n need ∧ w = .space) →
        exec .burnUnitEnd s = .next { s with burn := { s.burn with
          exchange := some { e with phase := .window w } } }.kick) ∧
      (∀ i n sector, u = .note i n sector → exec .burnUnitEnd s =
        .next ({ s with burn := { s.burn with exchange := some { e with phase := .window .done } } }.setDrive e.drive
          { d with transfer := .awaitingDone }).kick) ∧
      (∀ i n first count data, u = .write i n first count data →
        (d.withdrawn = false → s.burn.mode = .block ∨ s.monitor.halted = true → exec .burnUnitEnd s =
          .next (s.clearExchange.setDrive e.drive { d with transfer := .sending (first + count) }).kick) ∧
        (∀ f rest, d.withdrawn = false → s.burn.mode = .frame → s.monitor.halted = false → d.queue = f :: rest →
          exec .burnUnitEnd s = .next (if first + count < dataSectors f.stripeCount f.stripeSize then
              (s.setDrive e.drive { d with transfer := .sending (first + count) }).startWrite e.drive f (first + count)
            else (s.setDrive e.drive { d with transfer := .sending (first + count) }).startNote e.drive f).kick) ∧
        (d.withdrawn = true → s.burn.mode = .block ∨ s.monitor.halted = true → exec .burnUnitEnd s =
          .next (s.clearExchange.setDrive e.drive { d with
            transfer := .sending (first + count), abandonOwed := true, withdrawn := false }).kick) ∧
        (∀ f rest, d.withdrawn = true → s.burn.mode = .frame → s.monitor.halted = false → d.queue = f :: rest →
          exec .burnUnitEnd s = .next ((s.setDrive e.drive { d with
            transfer := .sending (first + count), abandonOwed := true, withdrawn := false }).startUnit e.drive .abandon
              (.abandon f.stream f.seq)).kick)) ∧
      (∀ i n f rest, u = .abandon i n → d.queue = f :: rest →
        ∃ t : State, exec .burnUnitEnd s = .next t.kick ∧ t.burn = { s.burn with exchange := none } ∧
          t.drive e.drive = { d with
            queue := rest, committed := d.committed - f.need, transfer := .waitingSpace, carry := [],
            abandonOwed := false, withdrawn := false } ∧
          t.store = (f.stripes.filterMap (·.slot)).foldl Store.release s.store ∧
          (∀ b, b ≠ e.drive → t.drive b = s.drive b) ∧ t.streams = s.streams ∧ t.dir = s.dir ∧ t.engine = s.engine ∧
          t.ret = s.ret ∧ t.monitor = s.monitor) ∧
      (∀ bytes tag bs, u = .driveCommand bytes → d.relay = .pending tag bs → exec .burnUnitEnd s =
        .next (s.clearExchange.setDrive e.drive { d with relay := .outstanding tag }).kick))

/-- A BURN read that completes gives its stripe's bytes to the WRITE unit; when every read of the unit is complete the unit
begins, and the bytes over stay for the next one (R122, R123). The read is judged as every store read is; a FLAWED one marks
its stripe STORE_FLAW in the frame's note, in place of its outcome or as an entry of its own at its index (R123). Which read
completes first is open (log 17), and so is what an entry into HALTED does to the reads (log 31). -/
def Obligations.BurnReadsFillTheWriteUnit : Prop :=
  (∀ (s : State) (e : Exchange) (first count : Nat) (parts filled : List ReadPart) (k : Byte) (x : Slot) (f : FrameRec)
      (rest : List FrameRec) (onHand : List Byte),
    s.burn.exchange = some e → e.phase = .reading first count parts → (s.drive e.drive).queue = f :: rest →
    (parts.find? fun p => p.stripe == k.toNat && p.data.isNone) =
      some { stripe := k.toNat, slot := some x, data := none } →
    s.store.flipsIn x f.stripeSize = [] →
    filled = (parts.map fun p => if p.stripe = k.toNat then
      { p with data := some (Memory.readBytes s.store.dram (slotBase x) f.stripeSize) } else p) →
    onHand = (s.drive e.drive).carry ++ filled.flatMap (fun p => p.data.getD []) →
    ((∃ p ∈ filled, p.data = none) → exec (.burnReadCompletion k []) s =
      .next (s.setPhase (.reading first count filled)).kick) ∧
    ((∀ p ∈ filled, p.data ≠ none) → exec (.burnReadCompletion k []) s =
      .next ((s.setDrive e.drive { s.drive e.drive with carry := onHand.drop (2048 * count) }).setPhase
        (.sending (.write f.stream f.seq first count
          (onHand.take (2048 * count) ++ List.replicate (2048 * count - onHand.length) 0)))).kick)) ∧
  (∀ (s u : State) (e : Exchange) (first count : Nat) (parts filled : List ReadPart) (k : Byte) (x : Slot)
      (flips : List Flip) (r : Bool × List Byte × State) (f : FrameRec) (rest : List FrameRec) (onHand : List Byte),
    s.burn.exchange = some e → e.phase = .reading first count parts → (s.drive e.drive).queue = f :: rest →
    (parts.find? fun p => p.stripe == k.toNat && p.data.isNone) =
      some { stripe := k.toNat, slot := some x, data := none } →
    r = { s with store := s.store.strikeAll flips }.readSlot .burn x f.stripeSize →
    u = (if r.1 = true then r.2.2.setDrive e.drive { s.drive e.drive with
        queue := { f with note := f.note.map fun n => { n with
          entries := if ∃ y ∈ n.entries, y.index = k.toNat then
              n.entries.map fun y => if y.index = k.toNat then { y with outcome := .storeFlaw } else y
            else (n.entries.takeWhile fun y => decide (y.index ≤ k.toNat)) ++
              { index := k.toNat, cause := none, outcome := .storeFlaw, method := none, donors := [],
                generation := some 0 } :: n.entries.dropWhile fun y => decide (y.index ≤ k.toNat) } } :: rest }
      else r.2.2) →
    filled = (parts.map fun p => if p.stripe = k.toNat then { p with data := some r.2.1 } else p) →
    onHand = (s.drive e.drive).carry ++ filled.flatMap (fun p => p.data.getD []) →
    ((∃ p ∈ filled, p.data = none) → exec (.burnReadCompletion k flips) s =
      .next (u.setPhase (.reading first count filled)).kick) ∧
    ((∀ p ∈ filled, p.data ≠ none) → exec (.burnReadCompletion k flips) s =
      .next ((u.setDrive e.drive { u.drive e.drive with carry := onHand.drop (2048 * count) }).setPhase
        (.sending (.write f.stream f.seq first count
          (onHand.take (2048 * count) ++ List.replicate (2048 * count - onHand.length) 0)))).kick))

/-- News sets a drive's remaining capacity and condition (R139): HELD and FAULT stay, NONE changes nothing, MEDIA_READY with
capacity 0 is MEDIA_FULL, and a FULL drive becomes READY only when the capacity has risen; its head frame is then asked for
space again, in SENDING too (the model's choice, log 33). An entry into FULL from another condition makes MEDIA_NEEDED occur
with the address and the remaining capacity, and a drive already FULL raises none (R140). MEDIA_GONE takes the drive out of
service (R141): an ACTIVE drive with a READY STANDBY exchanges roles with it, SPAN occurs, and the longest prefix of its queue
that fits moves (R146), also when it returns from ABSENT as NO_MEDIA (the model's choice, log 35); in every other case its
frames wait (R147). -/
def Obligations.NewsSetsTheCondition : Prop :=
  ∀ (s : State) (a : DriveIx) (d : DriveRec), s.drive a = d →
    (∀ n, d.condition = .held ∨ d.condition = .fault → ((s.applyNews a n).drive a).condition = d.condition) ∧
    (((s.applyNews a .nothing).drive a).condition = d.condition ∧
      ((s.applyNews a .nothing).drive a).remaining = d.remaining) ∧
    ((s.applyNews a .mediaGone).drive a).remaining = none ∧
    (∀ n, n = .mediaFull ∨ n = .mediaReady 0 → ((s.applyNews a n).drive a).remaining = some 0) ∧
    (∀ c, ((s.applyNews a (.mediaReady c)).drive a).remaining = some c) ∧
    (d.condition ≠ .held → d.condition ≠ .fault →
      ((s.applyNews a .mediaGone).drive a).condition = .noMedia ∧
      (∀ n, n = .mediaFull ∨ n = .mediaReady 0 → ((s.applyNews a n).drive a).condition = .full) ∧
      (∀ c : Word32, c ≠ 0 → ((s.applyNews a (.mediaReady c)).drive a).condition =
        if d.condition = .full ∧ c ≤ d.remaining.getD 0 then .full else .ready)) ∧
    (∀ n, ((s.applyNews a n).drive a).misses = d.misses ∧ ((s.applyNews a n).drive a).missCount = d.missCount ∧
      ((s.applyNews a n).drive a).framesWritten = d.framesWritten) ∧
    (∀ c : Word32, (d.condition = .full ∧ d.remaining.getD 0 < c) ∨ (d.condition = .noMedia ∧ c ≠ 0) →
      s.applyNews a (.mediaReady c) = s.setDrive a { d with
        condition := .ready, remaining := some c, transfer := .waitingSpace, carry := [] }) ∧
    (∀ n, n = .mediaFull ∨ n = .mediaReady 0 →
      (d.condition = .absent ∨ d.condition = .noMedia ∨ d.condition = .ready → s.applyNews a n =
        (s.setDrive a { d with condition := .full, remaining := some 0 }).occur .mediaNeeded (driveAddress a) 0) ∧
      (d.condition = .full → s.applyNews a n = s.setDrive a { d with remaining := some 0 })) ∧
    (∀ c : Word32, d.condition = .full → c ≠ 0 → c ≤ d.remaining.getD 0 →
      s.applyNews a (.mediaReady c) = s.setDrive a { d with remaining := some c }) ∧
    (d.condition = .absent ∨ d.condition = .ready ∨ d.condition = .full →
      s.applyNews a .mediaGone = (s.setDrive a { d with
        condition := .noMedia, remaining := none, transfer := .waitingSpace, carry := [] }).leaveService a) ∧
    ((∀ i, d.binding ≠ .active i) → s.leaveService a = s) ∧
    (∀ i, d.binding = .active i → (∀ b, s.standbyOf i = some b → (s.drive b).condition ≠ .ready) →
      s.leaveService a = s) ∧
    (∀ (i : StreamIx) (b : DriveIx) (fits : Nat → FrameRec → Prop), d.binding = .active i → s.standbyOf i = some b →
      (s.drive b).condition = .ready →
      (∀ m f, fits m f ↔ ((s.drive b).queue ++ d.queue.take m).length < 4 ∧
        f.need + ((d.queue.take m).map (·.need)).sum ≤ (s.drive b).uncommitted ∧
        (∀ g, ((s.drive b).queue ++ d.queue.take m).getLast? = some g → g.seq < f.seq) ∧
        (m = 0 → d.abandonOwed = false ∧ d.withdrawn = false)) →
      ∃ (t : State) (k : Nat), s.leaveService a = t ∧ (t.drive a).binding = .standby i ∧
        (t.drive b).binding = .active i ∧ (t.drive a).condition = d.condition ∧
        s.Occurred t .span (streamId i) (BitVec.ofNat 32 (driveAddress b)) ∧ k ≤ d.queue.length ∧
        (t.drive a).queue = d.queue.drop k ∧ (t.drive b).queue = (s.drive b).queue ++ d.queue.take k ∧
        (t.drive a).committed = d.committed - ((d.queue.take k).map (·.need)).sum ∧
        (t.drive b).committed = (s.drive b).committed + ((d.queue.take k).map (·.need)).sum ∧
        (∀ m f, m < k → d.queue[m]? = some f → fits m f) ∧ (∀ f, d.queue[k]? = some f → ¬ fits k f) ∧
        ((s.drive b).queue = [] → 0 < k → (t.drive b).transfer = .waitingSpace) ∧
        (∀ x, x ≠ a → x ≠ b → t.drive x = s.drive x) ∧ t.store = s.store ∧ t.dir = s.dir ∧ t.engine = s.engine ∧
        t.burn = s.burn)

/-- Presence, status and drive answers taken inside their window set the misses to 0, apply their news or end the relay, and
the exchange ends, with its request cleared (R115, R118, R126, R128, R130, R134, R150). An ABSENT drive's answer makes
DRIVE_CHANGE occur. A survey then asks its next address, stops in HALTED, or ends, START_UP with the poll timer started and a
SURVEY command with its reply (R131, R132, R135); a poll round asks its next drive, or makes the discovery ask, or stops in
HALTED (R129, R130; log 18). A release that ends in FULL makes MEDIA_NEEDED occur (R140). An answer that no window
expects, or from another address, is ignored (R115). -/
def Obligations.AnswersEndTheirExchange : Prop :=
  (∀ (s : State) (u : BurnAnswer) (e : Exchange) (d : DriveRec), s.burn.exchange = some e →
    driveOf u.address = some e.drive → s.drive e.drive = d →
    (burnAccepted kindPresenceAnswer u = true → e.phase = .window .presence → s.burn.item = .idle →
      ∀ c : Word32, c ≠ 0 → readNewsBody u.body = some (.mediaReady c) → d.condition = .absent →
        exec (.presenceAnswer u) s = .next ((s.setDrive e.drive { d with
          condition := .ready, remaining := some c, misses := 0 }).occur .driveChange (driveAddress e.drive)
            1).clearExchange.kick) ∧
    (∀ n t, burnAccepted kindPresenceAnswer u = true → e.phase = .window .presence → readNewsBody u.body = some n →
      t = (if d.condition = .absent then
          ((s.setDrive e.drive { d with misses := 0 }).applyNews e.drive
            (if n = .nothing then .mediaGone else n)).occur .driveChange (driveAddress e.drive) 1
        else (s.setDrive e.drive { d with misses := 0 }).applyNews e.drive (if n = .nothing then .mediaGone else n)) →
      t.burn = s.burn ∧ ∃ r, t.GoesOn r ∧ exec (.presenceAnswer u) s = .next r.kick) ∧
    (∀ n, burnAccepted kindStatusAnswer u = true → e.phase = .window .status → readNewsBody u.body = some n →
      (∀ t : State, e.purpose ≠ .requested → t = (s.setDrive e.drive { d with misses := 0 }).applyNews e.drive n →
        t.burn = s.burn ∧ t.GoesOn t.endExchange ∧ exec (.statusAnswer u) s = .next t.endExchange.kick) ∧
      (∀ t : State, e.purpose = .requested → d.releasePending = false →
        t = (s.setDrive e.drive { d with misses := 0, statusRequested := false }).applyNews e.drive n →
        t.burn = s.burn ∧ t.GoesOn t.endExchange ∧ exec (.statusAnswer u) s = .next t.endExchange.kick) ∧
      (e.purpose = .requested → d.releasePending = true → d.condition = .held → s.burn.item = .idle →
        ∃ t : State, exec (.statusAnswer u) s = .next t.kick ∧ (t.drive e.drive).releasePending = false ∧
          (t.drive e.drive).statusRequested = false ∧
          (t.drive e.drive).misses = 0 ∧ t.burn.exchange = none ∧
          (t.drive e.drive).remaining = (match n with
            | .mediaReady c => some c
            | .mediaFull => some 0
            | .mediaGone => none
            | .nothing => d.remaining) ∧
          (t.drive e.drive).condition = (match (t.drive e.drive).remaining with
            | none => .noMedia
            | some c => if c = 0 then .full else .ready) ∧
          ((t.drive e.drive).condition = .full → s.Occurred t .mediaNeeded (driveAddress e.drive) 0))) ∧
    (∀ tag bytes, burnAccepted kindDriveAnswer u = true → e.phase = .window .status → d.relay = .outstanding tag →
      u.body = BitVec.ofNat 8 bytes.length :: bytes → bytes.length ≤ 32 → s.burn.item = .idle →
      exec (.driveAnswer u) s = .next ((s.setDrive e.drive { d with misses := 0, relay := .none }).deferred tag
        (.done (.driveBytes bytes))).clearExchange.kick)) ∧
  (∀ (s : State) (u : BurnAnswer), s.burn.exchange = none ∨
      (∃ e, s.burn.exchange = some e ∧ ((∀ w, e.phase ≠ .window w) ∨ driveOf u.address ≠ some e.drive)) →
    exec (.presenceAnswer u) s = .next s ∧ exec (.statusAnswer u) s = .next s ∧ exec (.spaceOk u) s = .next s ∧
    exec (.spaceNo u) s = .next s ∧ exec (.writeDone u) s = .next s ∧ exec (.writeFail u) s = .next s ∧
    exec (.driveAnswer u) s = .next s) ∧
  (∀ (s : State) (u : BurnAnswer) (e : Exchange) (w : WindowKind), s.burn.exchange = some e → e.phase = .window w →
    (w ≠ .presence → exec (.presenceAnswer u) s = .next s) ∧
    (w ≠ .status → exec (.statusAnswer u) s = .next s ∧ exec (.driveAnswer u) s = .next s) ∧
    (w ≠ .space → exec (.spaceOk u) s = .next s ∧ exec (.spaceNo u) s = .next s) ∧
    (w ≠ .done → exec (.writeDone u) s = .next s ∧ exec (.writeFail u) s = .next s))

/-- The answers of the frame exchange (R120, R121, R124, R125, R128, R138): SPACE_OK, its news applied, enters SENDING when
the drive is then READY or FULL (also when it was FULL and is READY: the model's choice, log 33), and otherwise the frame is
WAITING_SPACE and the exchange ends; SPACE_NO counts a refusal and returns to WAITING_SPACE, WRITE_DONE ends the frame's stay
in the queue, WRITE_FAIL raises DRIVE_WRITE_FAIL with the address as scope and the frame's output sequence as detail and makes
the drive FAULT: the frames stay in its queue (R147), unless an ACTIVE drive with a READY STANDBY spans and the longest prefix
that fits moves (R146). A WRITE reads its stripes first (R122, R123). After SPACE_OK the turn ends in BLOCK mode and goes on
with the first WRITE in FRAME mode (R116). A withdrawn
frame (R133) is owed an ABANDON after SPACE_OK and WRITE_FAIL, which in FRAME mode follows at once, is discarded at once after
SPACE_NO, and counts as written after WRITE_DONE. -/
def Obligations.FrameAnswersMoveTheHeadFrame : Prop :=
  (∀ (s : State) (a : DriveIx) (f : FrameRec) (first : Nat), s.WriteBegins (s.startWrite a f first) a f first) ∧
  (∀ (s : State) (u : BurnAnswer) (e : Exchange) (d : DriveRec) (f : FrameRec) (rest : List FrameRec),
    s.burn.exchange = some e → driveOf u.address = some e.drive → s.drive e.drive = d → d.queue = f :: rest →
    d.withdrawn = false → d.abandonOwed = false →
    (∀ c : Word32, burnAccepted kindSpaceOk u = true → e.phase = .window .space → d.condition = .ready → c ≠ 0 →
      readNewsBody u.body = some (.mediaReady c) →
      (s.burn.mode = .block ∨ s.monitor.halted = true →
        exec (.spaceOk u) s = .next (s.clearExchange.setDrive e.drive { d with
          misses := 0, remaining := some c, transfer := .sending 0, carry := [] }).kick) ∧
      (s.burn.mode = .frame → s.monitor.halted = false → 0 < dataSectors f.stripeCount f.stripeSize →
        exec (.spaceOk u) s = .next ((s.setDrive e.drive { d with
          misses := 0, remaining := some c, transfer := .sending 0, carry := [] }).startWrite e.drive f 0).kick)) ∧
    (burnAccepted kindSpaceOk u = true → e.phase = .window .space → readNewsBody u.body = some .nothing →
      d.condition = .ready ∨ d.condition = .full →
      (s.burn.mode = .block ∨ s.monitor.halted = true → exec (.spaceOk u) s = .next (s.clearExchange.setDrive e.drive
        { d with misses := 0, transfer := .sending 0, carry := [] }).kick) ∧
      (s.burn.mode = .frame → s.monitor.halted = false → 0 < dataSectors f.stripeCount f.stripeSize →
        exec (.spaceOk u) s = .next ((s.setDrive e.drive
          { d with misses := 0, transfer := .sending 0, carry := [] }).startWrite e.drive f 0).kick)) ∧
    (∀ t : State, burnAccepted kindSpaceOk u = true → e.phase = .window .space →
      readNewsBody u.body = some .mediaFull →
      (d.condition = .ready ∧ t = (s.setDrive e.drive { d with
        misses := 0, condition := .full, remaining := some 0 }).occur .mediaNeeded (driveAddress e.drive) 0) ∨
      (d.condition = .full ∧ t = s.setDrive e.drive { d with misses := 0, remaining := some 0 }) →
      (s.burn.mode = .block ∨ t.monitor.halted = true → exec (.spaceOk u) s = .next (t.clearExchange.setDrive e.drive
        { d with
          misses := 0, condition := .full, remaining := some 0, transfer := .sending 0, carry := [] }).kick) ∧
      (s.burn.mode = .frame → t.monitor.halted = false → 0 < dataSectors f.stripeCount f.stripeSize →
        exec (.spaceOk u) s = .next ((t.setDrive e.drive { d with
          misses := 0, condition := .full, remaining := some 0, transfer := .sending 0
          carry := [] }).startWrite e.drive f 0).kick)) ∧
    (∀ (n : News) (t : State), burnAccepted kindSpaceOk u = true → e.phase = .window .space →
      readNewsBody u.body = some n → t = (s.setDrive e.drive { d with misses := 0 }).applyNews e.drive n →
      ((t.drive e.drive).condition ≠ .ready → (t.drive e.drive).condition ≠ .full →
        exec (.spaceOk u) s = .next t.clearExchange.kick ∧ (t.drive e.drive).transfer = .waitingSpace) ∧
      (n = .mediaGone ∨ d.condition = .held ∨ d.condition = .fault →
        (t.drive e.drive).condition ≠ .ready ∧ (t.drive e.drive).condition ≠ .full) ∧
      ((t.drive e.drive).condition = .ready ∨ (t.drive e.drive).condition = .full →
        (s.burn.mode = .block ∨ t.monitor.halted = true → exec (.spaceOk u) s =
          .next (t.clearExchange.setDrive e.drive { t.drive e.drive with
            transfer := .sending 0, carry := [] }).kick) ∧
        (s.burn.mode = .frame → t.monitor.halted = false → 0 < dataSectors f.stripeCount f.stripeSize →
          exec (.spaceOk u) s = .next ((t.setDrive e.drive { t.drive e.drive with
            transfer := .sending 0, carry := [] }).startWrite e.drive f 0).kick))) ∧
    (∀ n, burnAccepted kindSpaceNo u = true → e.phase = .window .space → readNewsBody u.body = some n →
      exec (.spaceNo u) s = .next ((s.setDrive e.drive { d with
        misses := 0, spaceRefusals := d.spaceRefusals + 1, transfer := .waitingSpace, carry := [] }).applyNews
          e.drive n).clearExchange.kick) ∧
    (∀ c : Word32, burnAccepted kindWriteDone u = true → e.phase = .window .done → readDoneBody u.body = some c →
      ∃ t : State, exec (.writeDone u) s = .next t.kick ∧ t.burn = { s.burn with exchange := none } ∧
        t.drive e.drive = { d with
          misses := 0, framesWritten := d.framesWritten + 1, queue := rest, committed := d.committed - f.need,
          transfer := .waitingSpace, carry := [], remaining := some c
          condition := if d.condition = .held ∨ d.condition = .fault then d.condition
            else if c = 0 ∨ (d.condition = .full ∧ c ≤ d.remaining.getD 0) then .full else .ready } ∧
        t.store = (f.stripes.filterMap (·.slot)).foldl Store.release s.store ∧
        (∀ b, b ≠ e.drive → t.drive b = s.drive b) ∧ t.dir = s.dir ∧ t.engine = s.engine) ∧
    (∀ n, burnAccepted kindWriteFail u = true → e.phase = .window .done → readNewsBody u.body = some n →
      ∃ t : State, exec (.writeFail u) s = .next t.kick ∧ t.burn.exchange = none ∧
        (t.drive e.drive).condition = .fault ∧ (t.drive e.drive).transfer = .waitingSpace ∧
        (t.drive e.drive).misses = 0 ∧ (t.fault .driveWriteFail).pending = true ∧
        (t.fault .driveWriteFail).count =
          (if (s.fault .driveWriteFail).count = 65535#16 then 65535#16 else (s.fault .driveWriteFail).count + 1) ∧
        t.dir = s.dir ∧ t.store = s.store ∧
        (t.drive e.drive).remaining = (match n with
          | .mediaReady c => some c
          | .mediaFull => some 0
          | .mediaGone => none
          | .nothing => d.remaining) ∧
        (d.condition = .fault ∨
            (∀ i b, d.binding = .active i → s.standbyOf i = some b → (s.drive b).condition ≠ .ready) →
          (t.drive e.drive).queue = d.queue ∧ (t.drive e.drive).committed = d.committed ∧
          (t.drive e.drive).binding = d.binding) ∧
        (∀ i b, d.binding = .active i → s.standbyOf i = some b → (s.drive b).condition = .ready →
          d.condition ≠ .fault → s.Spanned t i e.drive b d.queue d.committed) ∧
        (t.fault .driveWriteFail).firstScope = (if (s.fault .driveWriteFail).pending = true
          then (s.fault .driveWriteFail).firstScope else some (driveAddress e.drive)) ∧
        ∃ y : State, y = ((s.setDrive e.drive { d with
            misses := 0, transfer := .waitingSpace, carry := [] }).applyNews e.drive n).raise .driveWriteFail
              (driveAddress e.drive) f.seq ∧
          ((∀ i b, d.binding = .active i → s.standbyOf i = some b → (s.drive b).condition ≠ .ready) → y.Silent t) ∧
          (∀ i b, d.binding = .active i → s.standbyOf i = some b → (s.drive b).condition = .ready →
            n ≠ .mediaGone → d.condition ≠ .fault →
            y.Occurred t .span (streamId i) (BitVec.ofNat 32 (driveAddress b))))) ∧
  (∀ (s : State) (u : BurnAnswer) (e : Exchange) (d : DriveRec) (f : FrameRec) (rest : List FrameRec),
    s.burn.exchange = some e → driveOf u.address = some e.drive → s.drive e.drive = d → d.queue = f :: rest →
    d.withdrawn = true → d.abandonOwed = false →
    (∀ c : Word32, burnAccepted kindSpaceOk u = true → e.phase = .window .space → d.condition = .ready → c ≠ 0 →
      readNewsBody u.body = some (.mediaReady c) →
      (s.burn.mode = .block ∨ s.monitor.halted = true →
        exec (.spaceOk u) s = .next (s.clearExchange.setDrive e.drive { d with
          misses := 0, remaining := some c, transfer := .sending 0, carry := [], abandonOwed := true
          withdrawn := false }).kick) ∧
      (s.burn.mode = .frame → s.monitor.halted = false →
        exec (.spaceOk u) s = .next ((s.setDrive e.drive { d with
          misses := 0, remaining := some c, transfer := .sending 0, carry := [], abandonOwed := true
          withdrawn := false }).startUnit e.drive .abandon (.abandon f.stream f.seq)).kick)) ∧
    (∀ (n : News) (t : State) (x : DriveRec), burnAccepted kindSpaceOk u = true → e.phase = .window .space →
      readNewsBody u.body = some n → t = (s.setDrive e.drive { d with misses := 0 }).applyNews e.drive n →
      x = t.drive e.drive →
      (s.burn.mode = .block ∨ t.monitor.halted = true → exec (.spaceOk u) s =
        .next (t.clearExchange.setDrive e.drive { x with
          transfer := if x.condition = .ready ∨ x.condition = .full then .sending 0 else .waitingSpace
          carry := [], abandonOwed := true, withdrawn := false }).kick) ∧
      (s.burn.mode = .frame → t.monitor.halted = false → exec (.spaceOk u) s =
        .next ((t.setDrive e.drive { x with
          transfer := if x.condition = .ready ∨ x.condition = .full then .sending 0 else .waitingSpace
          carry := [], abandonOwed := true, withdrawn := false }).startUnit e.drive .abandon
            (.abandon f.stream f.seq)).kick)) ∧
    (burnAccepted kindSpaceNo u = true → e.phase = .window .space → readNewsBody u.body = some .nothing →
      d.condition = .ready ∨ d.condition = .full →
      ∃ t : State, exec (.spaceNo u) s = .next t.kick ∧ t.burn = { s.burn with exchange := none } ∧
        t.drive e.drive = { d with
          misses := 0, spaceRefusals := d.spaceRefusals + 1, queue := rest, committed := d.committed - f.need
          transfer := .waitingSpace, carry := [], abandonOwed := false, withdrawn := false } ∧
        t.store = (f.stripes.filterMap (·.slot)).foldl Store.release s.store ∧
        (∀ b, b ≠ e.drive → t.drive b = s.drive b) ∧ t.monitor = s.monitor) ∧
    (∀ c : Word32, burnAccepted kindWriteDone u = true → e.phase = .window .done → readDoneBody u.body = some c →
      ∃ t : State, exec (.writeDone u) s = .next t.kick ∧ t.burn = { s.burn with exchange := none } ∧
        (t.drive e.drive).queue = rest ∧ (t.drive e.drive).committed = d.committed - f.need ∧
        (t.drive e.drive).framesWritten = d.framesWritten + 1 ∧ (t.drive e.drive).abandonOwed = false ∧
        (t.drive e.drive).withdrawn = false ∧
        t.store = (f.stripes.filterMap (·.slot)).foldl Store.release s.store) ∧
    (∀ n, burnAccepted kindWriteFail u = true → e.phase = .window .done → readNewsBody u.body = some n →
      (∀ i, d.binding ≠ .active i) →
      ∃ t : State, exec (.writeFail u) s = .next t.kick ∧ (t.drive e.drive).condition = .fault ∧
        (t.drive e.drive).queue = d.queue ∧ (t.drive e.drive).committed = d.committed ∧
        (t.drive e.drive).remaining = (match n with
          | .mediaReady c => some c
          | .mediaFull => some 0
          | .mediaGone => none
          | .nothing => d.remaining) ∧
        (t.drive e.drive).abandonOwed = true ∧
        (t.drive e.drive).withdrawn = false ∧ (t.fault .driveWriteFail).pending = true ∧
        (((s.setDrive e.drive { d with misses := 0, transfer := .waitingSpace, carry := [] }).applyNews e.drive n).raise
          .driveWriteFail (driveAddress e.drive) f.seq).Silent t ∧
        (t.burn.exchange = none ∨ (s.burn.mode = .frame ∧ t.burn.exchange = some {
          drive := e.drive, purpose := .abandon, factor := s.burn.factor
          phase := .sending (.abandon f.stream f.seq) })) ∧
        (s.burn.mode = .block ∨ s.monitor.halted = true → t.burn.exchange = none) ∧
        (s.burn.mode = .frame → t.monitor.halted = false → t.burn.exchange ≠ none)))

/-- A missed answer counts against a present drive and ends the exchange; a miss of an ABSENT address is none (R126). The
third in a row makes the drive ABSENT (R127, R141): DRIVE_SILENT is raised with the address as scope and 3 as detail, then
DRIVE_CHANGE occurs; its requests and its relay end, and a frame withdrawn or owed an ABANDON is discarded. Its other frames
stay with it, unless it is ACTIVE and a READY STANDBY takes over with the longest prefix that fits (R146, R147). A requested
ask's request is cleared, and set again while the release is pending (R118, R150). A survey then asks its next address, or
ends, and a poll round asks its next drive or makes the discovery ask; in HALTED both stop (R129, R130, R131, R132, R135; log
18). A withdrawn frame is discarded after a missed SPACE_ASK and owed an ABANDON after a missed NOTE (R133). The end of a
relay window refuses the PASS_TO_DRIVE with NO_ANSWER (R134). -/
def Obligations.MissesCountUpToSilence : Prop :=
  (∀ (s : State) (e : Exchange) (w : WindowKind) (d : DriveRec), s.burn.exchange = some e → e.phase = .window w →
    s.drive e.drive = d → s.burn.item = .idle →
    (d.condition = .absent → w = .presence →
      exec .missedAnswer s = .next s.clearExchange.kick) ∧
    (d.condition ≠ .absent → d.misses < 2 →
      (w = .presence ∨ (w = .status ∧ e.purpose ≠ .requested) →
        exec .missedAnswer s = .next (s.clearExchange.setDrive e.drive { d with
          misses := d.misses + 1, missCount := d.missCount + 1 }).kick) ∧
      (w = .status → e.purpose = .requested →
        exec .missedAnswer s = .next (s.clearExchange.setDrive e.drive { d with
          misses := d.misses + 1, missCount := d.missCount + 1, statusRequested := d.releasePending }).kick) ∧
      (w = .space ∨ w = .done → d.withdrawn = false → d.abandonOwed = false →
        exec .missedAnswer s = .next (s.clearExchange.setDrive e.drive { d with
          misses := d.misses + 1, missCount := d.missCount + 1, transfer := .waitingSpace, carry := [] }).kick) ∧
      (∀ f rest, w = .space → d.withdrawn = true → d.queue = f :: rest →
        ∃ t : State, exec .missedAnswer s = .next t.kick ∧ t.burn = { s.burn with exchange := none } ∧
          t.drive e.drive = { d with
            misses := d.misses + 1, missCount := d.missCount + 1, queue := rest, committed := d.committed - f.need
            transfer := .waitingSpace, carry := [], abandonOwed := false, withdrawn := false } ∧
          t.store = (f.stripes.filterMap (·.slot)).foldl Store.release s.store ∧
          (∀ b, b ≠ e.drive → t.drive b = s.drive b) ∧ t.monitor = s.monitor) ∧
      (∀ f rest, w = .done → d.withdrawn = true → d.queue = f :: rest →
        (s.burn.mode = .block ∨ s.monitor.halted = true →
          exec .missedAnswer s = .next (s.clearExchange.setDrive e.drive { d with
            misses := d.misses + 1, missCount := d.missCount + 1, transfer := .waitingSpace, carry := []
            abandonOwed := true, withdrawn := false }).kick) ∧
        (s.burn.mode = .frame → s.monitor.halted = false →
          exec .missedAnswer s = .next ((s.setDrive e.drive { d with
            misses := d.misses + 1, missCount := d.missCount + 1, transfer := .waitingSpace, carry := []
            abandonOwed := true, withdrawn := false }).startUnit e.drive .abandon (.abandon f.stream f.seq)).kick))) ∧
    (d.condition ≠ .absent → d.misses = 2 →
      ∃ t : State, exec .missedAnswer s = .next t.kick ∧ s.WentSilent t e.drive d ∧ t.burn.exchange = none)) ∧
  (∀ (s : State) (e : Exchange) (w : WindowKind) (d : DriveRec), s.burn.exchange = some e → e.phase = .window w →
    s.drive e.drive = d → w = .presence ∨ (w = .status ∧ e.purpose ≠ .requested) → d.misses ≤ 2 →
    ∃ t r : State, exec .missedAnswer s = .next r.kick ∧ t.burn = s.burn ∧ t.GoesOn r ∧
      (d.condition = .absent → t = s) ∧
      (d.condition ≠ .absent → d.misses < 2 →
        t = s.setDrive e.drive { d with misses := d.misses + 1, missCount := d.missCount + 1 }) ∧
      (d.condition ≠ .absent → d.misses = 2 → s.WentSilent t e.drive d)) ∧
  (∀ (s : State) (a : DriveIx) (tag : Word16), (s.drive a).relay = .outstanding tag →
    exec (.relayWindowExpiry a) s = .next ((s.setDrive a { s.drive a with relay := .none }).deferred tag
      (.refused .noAnswer)).kick)

end
end

