-- ==== Sys2Proof/Laws/State.lean ====
section
/-! SUPPORT. One lemma per field and update of State, each true by rfl, so that no proof unfolds a record update; and
what a record reads as after a write of it or of another. -/

namespace Sys2Proof.Machine.State

/-! ### setStream -/

@[simp] theorem setStream_store (s : State) (i : StreamIx) (r : StreamRec) : (s.setStream i r).store = s.store := rfl
@[simp] theorem setStream_dir (s : State) (i : StreamIx) (r : StreamRec) : (s.setStream i r).dir = s.dir := rfl
@[simp] theorem setStream_plans (s : State) (i : StreamIx) (r : StreamRec) : (s.setStream i r).plans = s.plans := rfl
@[simp] theorem setStream_engine (s : State) (i : StreamIx) (r : StreamRec) : (s.setStream i r).engine = s.engine := rfl
@[simp] theorem setStream_drives (s : State) (i : StreamIx) (r : StreamRec) : (s.setStream i r).drives = s.drives := rfl
@[simp] theorem setStream_burn (s : State) (i : StreamIx) (r : StreamRec) : (s.setStream i r).burn = s.burn := rfl
@[simp] theorem setStream_ret (s : State) (i : StreamIx) (r : StreamRec) : (s.setStream i r).ret = s.ret := rfl
@[simp] theorem setStream_linkUp (s : State) (i : StreamIx) (r : StreamRec) : (s.setStream i r).linkUp = s.linkUp := rfl
@[simp] theorem setStream_controlQueue (s : State) (i : StreamIx) (r : StreamRec) : (s.setStream i r).controlQueue = s.controlQueue := rfl
@[simp] theorem setStream_monitor (s : State) (i : StreamIx) (r : StreamRec) : (s.setStream i r).monitor = s.monitor := rfl
@[simp] theorem setStream_pending (s : State) (i : StreamIx) (r : StreamRec) : (s.setStream i r).pending = s.pending := rfl
@[simp] theorem setStream_freshIndex (s : State) (i : StreamIx) (r : StreamRec) : (s.setStream i r).freshIndex = s.freshIndex := rfl

/-! ### modStream -/

@[simp] theorem modStream_store (s : State) (i : StreamIx) (f : StreamRec → StreamRec) : (s.modStream i f).store = s.store := rfl
@[simp] theorem modStream_dir (s : State) (i : StreamIx) (f : StreamRec → StreamRec) : (s.modStream i f).dir = s.dir := rfl
@[simp] theorem modStream_plans (s : State) (i : StreamIx) (f : StreamRec → StreamRec) : (s.modStream i f).plans = s.plans := rfl
@[simp] theorem modStream_engine (s : State) (i : StreamIx) (f : StreamRec → StreamRec) : (s.modStream i f).engine = s.engine := rfl
@[simp] theorem modStream_drives (s : State) (i : StreamIx) (f : StreamRec → StreamRec) : (s.modStream i f).drives = s.drives := rfl
@[simp] theorem modStream_burn (s : State) (i : StreamIx) (f : StreamRec → StreamRec) : (s.modStream i f).burn = s.burn := rfl
@[simp] theorem modStream_ret (s : State) (i : StreamIx) (f : StreamRec → StreamRec) : (s.modStream i f).ret = s.ret := rfl
@[simp] theorem modStream_linkUp (s : State) (i : StreamIx) (f : StreamRec → StreamRec) : (s.modStream i f).linkUp = s.linkUp := rfl
@[simp] theorem modStream_controlQueue (s : State) (i : StreamIx) (f : StreamRec → StreamRec) : (s.modStream i f).controlQueue = s.controlQueue := rfl
@[simp] theorem modStream_monitor (s : State) (i : StreamIx) (f : StreamRec → StreamRec) : (s.modStream i f).monitor = s.monitor := rfl
@[simp] theorem modStream_pending (s : State) (i : StreamIx) (f : StreamRec → StreamRec) : (s.modStream i f).pending = s.pending := rfl
@[simp] theorem modStream_freshIndex (s : State) (i : StreamIx) (f : StreamRec → StreamRec) : (s.modStream i f).freshIndex = s.freshIndex := rfl

/-! ### setDrive -/

@[simp] theorem setDrive_streams (s : State) (a : DriveIx) (d : DriveRec) : (s.setDrive a d).streams = s.streams := rfl
@[simp] theorem setDrive_store (s : State) (a : DriveIx) (d : DriveRec) : (s.setDrive a d).store = s.store := rfl
@[simp] theorem setDrive_dir (s : State) (a : DriveIx) (d : DriveRec) : (s.setDrive a d).dir = s.dir := rfl
@[simp] theorem setDrive_plans (s : State) (a : DriveIx) (d : DriveRec) : (s.setDrive a d).plans = s.plans := rfl
@[simp] theorem setDrive_engine (s : State) (a : DriveIx) (d : DriveRec) : (s.setDrive a d).engine = s.engine := rfl
@[simp] theorem setDrive_burn (s : State) (a : DriveIx) (d : DriveRec) : (s.setDrive a d).burn = s.burn := rfl
@[simp] theorem setDrive_ret (s : State) (a : DriveIx) (d : DriveRec) : (s.setDrive a d).ret = s.ret := rfl
@[simp] theorem setDrive_linkUp (s : State) (a : DriveIx) (d : DriveRec) : (s.setDrive a d).linkUp = s.linkUp := rfl
@[simp] theorem setDrive_controlQueue (s : State) (a : DriveIx) (d : DriveRec) : (s.setDrive a d).controlQueue = s.controlQueue := rfl
@[simp] theorem setDrive_monitor (s : State) (a : DriveIx) (d : DriveRec) : (s.setDrive a d).monitor = s.monitor := rfl
@[simp] theorem setDrive_pending (s : State) (a : DriveIx) (d : DriveRec) : (s.setDrive a d).pending = s.pending := rfl
@[simp] theorem setDrive_freshIndex (s : State) (a : DriveIx) (d : DriveRec) : (s.setDrive a d).freshIndex = s.freshIndex := rfl

/-! ### modDrive -/

@[simp] theorem modDrive_streams (s : State) (a : DriveIx) (f : DriveRec → DriveRec) : (s.modDrive a f).streams = s.streams := rfl
@[simp] theorem modDrive_store (s : State) (a : DriveIx) (f : DriveRec → DriveRec) : (s.modDrive a f).store = s.store := rfl
@[simp] theorem modDrive_dir (s : State) (a : DriveIx) (f : DriveRec → DriveRec) : (s.modDrive a f).dir = s.dir := rfl
@[simp] theorem modDrive_plans (s : State) (a : DriveIx) (f : DriveRec → DriveRec) : (s.modDrive a f).plans = s.plans := rfl
@[simp] theorem modDrive_engine (s : State) (a : DriveIx) (f : DriveRec → DriveRec) : (s.modDrive a f).engine = s.engine := rfl
@[simp] theorem modDrive_burn (s : State) (a : DriveIx) (f : DriveRec → DriveRec) : (s.modDrive a f).burn = s.burn := rfl
@[simp] theorem modDrive_ret (s : State) (a : DriveIx) (f : DriveRec → DriveRec) : (s.modDrive a f).ret = s.ret := rfl
@[simp] theorem modDrive_linkUp (s : State) (a : DriveIx) (f : DriveRec → DriveRec) : (s.modDrive a f).linkUp = s.linkUp := rfl
@[simp] theorem modDrive_controlQueue (s : State) (a : DriveIx) (f : DriveRec → DriveRec) : (s.modDrive a f).controlQueue = s.controlQueue := rfl
@[simp] theorem modDrive_monitor (s : State) (a : DriveIx) (f : DriveRec → DriveRec) : (s.modDrive a f).monitor = s.monitor := rfl
@[simp] theorem modDrive_pending (s : State) (a : DriveIx) (f : DriveRec → DriveRec) : (s.modDrive a f).pending = s.pending := rfl
@[simp] theorem modDrive_freshIndex (s : State) (a : DriveIx) (f : DriveRec → DriveRec) : (s.modDrive a f).freshIndex = s.freshIndex := rfl

/-! ### setContext -/

@[simp] theorem setContext_streams (s : State) (c : Fin 4) (b : Option Busy) : (s.setContext c b).streams = s.streams := rfl
@[simp] theorem setContext_store (s : State) (c : Fin 4) (b : Option Busy) : (s.setContext c b).store = s.store := rfl
@[simp] theorem setContext_dir (s : State) (c : Fin 4) (b : Option Busy) : (s.setContext c b).dir = s.dir := rfl
@[simp] theorem setContext_plans (s : State) (c : Fin 4) (b : Option Busy) : (s.setContext c b).plans = s.plans := rfl
@[simp] theorem setContext_drives (s : State) (c : Fin 4) (b : Option Busy) : (s.setContext c b).drives = s.drives := rfl
@[simp] theorem setContext_burn (s : State) (c : Fin 4) (b : Option Busy) : (s.setContext c b).burn = s.burn := rfl
@[simp] theorem setContext_ret (s : State) (c : Fin 4) (b : Option Busy) : (s.setContext c b).ret = s.ret := rfl
@[simp] theorem setContext_linkUp (s : State) (c : Fin 4) (b : Option Busy) : (s.setContext c b).linkUp = s.linkUp := rfl
@[simp] theorem setContext_controlQueue (s : State) (c : Fin 4) (b : Option Busy) : (s.setContext c b).controlQueue = s.controlQueue := rfl
@[simp] theorem setContext_monitor (s : State) (c : Fin 4) (b : Option Busy) : (s.setContext c b).monitor = s.monitor := rfl
@[simp] theorem setContext_pending (s : State) (c : Fin 4) (b : Option Busy) : (s.setContext c b).pending = s.pending := rfl
@[simp] theorem setContext_freshIndex (s : State) (c : Fin 4) (b : Option Busy) : (s.setContext c b).freshIndex = s.freshIndex := rfl

/-! ### modEngine -/

@[simp] theorem modEngine_streams (s : State) (f : Engine → Engine) : (s.modEngine f).streams = s.streams := rfl
@[simp] theorem modEngine_store (s : State) (f : Engine → Engine) : (s.modEngine f).store = s.store := rfl
@[simp] theorem modEngine_dir (s : State) (f : Engine → Engine) : (s.modEngine f).dir = s.dir := rfl
@[simp] theorem modEngine_plans (s : State) (f : Engine → Engine) : (s.modEngine f).plans = s.plans := rfl
@[simp] theorem modEngine_drives (s : State) (f : Engine → Engine) : (s.modEngine f).drives = s.drives := rfl
@[simp] theorem modEngine_burn (s : State) (f : Engine → Engine) : (s.modEngine f).burn = s.burn := rfl
@[simp] theorem modEngine_ret (s : State) (f : Engine → Engine) : (s.modEngine f).ret = s.ret := rfl
@[simp] theorem modEngine_linkUp (s : State) (f : Engine → Engine) : (s.modEngine f).linkUp = s.linkUp := rfl
@[simp] theorem modEngine_controlQueue (s : State) (f : Engine → Engine) : (s.modEngine f).controlQueue = s.controlQueue := rfl
@[simp] theorem modEngine_monitor (s : State) (f : Engine → Engine) : (s.modEngine f).monitor = s.monitor := rfl
@[simp] theorem modEngine_pending (s : State) (f : Engine → Engine) : (s.modEngine f).pending = s.pending := rfl
@[simp] theorem modEngine_freshIndex (s : State) (f : Engine → Engine) : (s.modEngine f).freshIndex = s.freshIndex := rfl

/-! ### modStore -/

@[simp] theorem modStore_streams (s : State) (f : Store → Store) : (s.modStore f).streams = s.streams := rfl
@[simp] theorem modStore_dir (s : State) (f : Store → Store) : (s.modStore f).dir = s.dir := rfl
@[simp] theorem modStore_plans (s : State) (f : Store → Store) : (s.modStore f).plans = s.plans := rfl
@[simp] theorem modStore_engine (s : State) (f : Store → Store) : (s.modStore f).engine = s.engine := rfl
@[simp] theorem modStore_drives (s : State) (f : Store → Store) : (s.modStore f).drives = s.drives := rfl
@[simp] theorem modStore_burn (s : State) (f : Store → Store) : (s.modStore f).burn = s.burn := rfl
@[simp] theorem modStore_ret (s : State) (f : Store → Store) : (s.modStore f).ret = s.ret := rfl
@[simp] theorem modStore_linkUp (s : State) (f : Store → Store) : (s.modStore f).linkUp = s.linkUp := rfl
@[simp] theorem modStore_controlQueue (s : State) (f : Store → Store) : (s.modStore f).controlQueue = s.controlQueue := rfl
@[simp] theorem modStore_monitor (s : State) (f : Store → Store) : (s.modStore f).monitor = s.monitor := rfl
@[simp] theorem modStore_pending (s : State) (f : Store → Store) : (s.modStore f).pending = s.pending := rfl
@[simp] theorem modStore_freshIndex (s : State) (f : Store → Store) : (s.modStore f).freshIndex = s.freshIndex := rfl

/-! ### modBurn -/

@[simp] theorem modBurn_streams (s : State) (f : Burn → Burn) : (s.modBurn f).streams = s.streams := rfl
@[simp] theorem modBurn_store (s : State) (f : Burn → Burn) : (s.modBurn f).store = s.store := rfl
@[simp] theorem modBurn_dir (s : State) (f : Burn → Burn) : (s.modBurn f).dir = s.dir := rfl
@[simp] theorem modBurn_plans (s : State) (f : Burn → Burn) : (s.modBurn f).plans = s.plans := rfl
@[simp] theorem modBurn_engine (s : State) (f : Burn → Burn) : (s.modBurn f).engine = s.engine := rfl
@[simp] theorem modBurn_drives (s : State) (f : Burn → Burn) : (s.modBurn f).drives = s.drives := rfl
@[simp] theorem modBurn_ret (s : State) (f : Burn → Burn) : (s.modBurn f).ret = s.ret := rfl
@[simp] theorem modBurn_linkUp (s : State) (f : Burn → Burn) : (s.modBurn f).linkUp = s.linkUp := rfl
@[simp] theorem modBurn_controlQueue (s : State) (f : Burn → Burn) : (s.modBurn f).controlQueue = s.controlQueue := rfl
@[simp] theorem modBurn_monitor (s : State) (f : Burn → Burn) : (s.modBurn f).monitor = s.monitor := rfl
@[simp] theorem modBurn_pending (s : State) (f : Burn → Burn) : (s.modBurn f).pending = s.pending := rfl
@[simp] theorem modBurn_freshIndex (s : State) (f : Burn → Burn) : (s.modBurn f).freshIndex = s.freshIndex := rfl

/-! ### setFault -/

@[simp] theorem setFault_streams (s : State) (k : FaultKind) (e : FaultEntry) : (s.setFault k e).streams = s.streams := rfl
@[simp] theorem setFault_store (s : State) (k : FaultKind) (e : FaultEntry) : (s.setFault k e).store = s.store := rfl
@[simp] theorem setFault_dir (s : State) (k : FaultKind) (e : FaultEntry) : (s.setFault k e).dir = s.dir := rfl
@[simp] theorem setFault_plans (s : State) (k : FaultKind) (e : FaultEntry) : (s.setFault k e).plans = s.plans := rfl
@[simp] theorem setFault_engine (s : State) (k : FaultKind) (e : FaultEntry) : (s.setFault k e).engine = s.engine := rfl
@[simp] theorem setFault_drives (s : State) (k : FaultKind) (e : FaultEntry) : (s.setFault k e).drives = s.drives := rfl
@[simp] theorem setFault_burn (s : State) (k : FaultKind) (e : FaultEntry) : (s.setFault k e).burn = s.burn := rfl
@[simp] theorem setFault_ret (s : State) (k : FaultKind) (e : FaultEntry) : (s.setFault k e).ret = s.ret := rfl
@[simp] theorem setFault_linkUp (s : State) (k : FaultKind) (e : FaultEntry) : (s.setFault k e).linkUp = s.linkUp := rfl
@[simp] theorem setFault_controlQueue (s : State) (k : FaultKind) (e : FaultEntry) : (s.setFault k e).controlQueue = s.controlQueue := rfl
@[simp] theorem setFault_pending (s : State) (k : FaultKind) (e : FaultEntry) : (s.setFault k e).pending = s.pending := rfl
@[simp] theorem setFault_freshIndex (s : State) (k : FaultKind) (e : FaultEntry) : (s.setFault k e).freshIndex = s.freshIndex := rfl

/-! ### setWatch -/

@[simp] theorem setWatch_streams (s : State) (w : Fin 16) (b : Option Booking) : (s.setWatch w b).streams = s.streams := rfl
@[simp] theorem setWatch_store (s : State) (w : Fin 16) (b : Option Booking) : (s.setWatch w b).store = s.store := rfl
@[simp] theorem setWatch_dir (s : State) (w : Fin 16) (b : Option Booking) : (s.setWatch w b).dir = s.dir := rfl
@[simp] theorem setWatch_plans (s : State) (w : Fin 16) (b : Option Booking) : (s.setWatch w b).plans = s.plans := rfl
@[simp] theorem setWatch_engine (s : State) (w : Fin 16) (b : Option Booking) : (s.setWatch w b).engine = s.engine := rfl
@[simp] theorem setWatch_drives (s : State) (w : Fin 16) (b : Option Booking) : (s.setWatch w b).drives = s.drives := rfl
@[simp] theorem setWatch_burn (s : State) (w : Fin 16) (b : Option Booking) : (s.setWatch w b).burn = s.burn := rfl
@[simp] theorem setWatch_ret (s : State) (w : Fin 16) (b : Option Booking) : (s.setWatch w b).ret = s.ret := rfl
@[simp] theorem setWatch_linkUp (s : State) (w : Fin 16) (b : Option Booking) : (s.setWatch w b).linkUp = s.linkUp := rfl
@[simp] theorem setWatch_controlQueue (s : State) (w : Fin 16) (b : Option Booking) : (s.setWatch w b).controlQueue = s.controlQueue := rfl
@[simp] theorem setWatch_pending (s : State) (w : Fin 16) (b : Option Booking) : (s.setWatch w b).pending = s.pending := rfl
@[simp] theorem setWatch_freshIndex (s : State) (w : Fin 16) (b : Option Booking) : (s.setWatch w b).freshIndex = s.freshIndex := rfl

/-! ### putSet -/

@[simp] theorem putSet_streams (s : State) (k : Fin 256) (x : DirSet) : (s.putSet k x).streams = s.streams := rfl
@[simp] theorem putSet_store (s : State) (k : Fin 256) (x : DirSet) : (s.putSet k x).store = s.store := rfl
@[simp] theorem putSet_plans (s : State) (k : Fin 256) (x : DirSet) : (s.putSet k x).plans = s.plans := rfl
@[simp] theorem putSet_engine (s : State) (k : Fin 256) (x : DirSet) : (s.putSet k x).engine = s.engine := rfl
@[simp] theorem putSet_drives (s : State) (k : Fin 256) (x : DirSet) : (s.putSet k x).drives = s.drives := rfl
@[simp] theorem putSet_burn (s : State) (k : Fin 256) (x : DirSet) : (s.putSet k x).burn = s.burn := rfl
@[simp] theorem putSet_ret (s : State) (k : Fin 256) (x : DirSet) : (s.putSet k x).ret = s.ret := rfl
@[simp] theorem putSet_linkUp (s : State) (k : Fin 256) (x : DirSet) : (s.putSet k x).linkUp = s.linkUp := rfl
@[simp] theorem putSet_controlQueue (s : State) (k : Fin 256) (x : DirSet) : (s.putSet k x).controlQueue = s.controlQueue := rfl
@[simp] theorem putSet_monitor (s : State) (k : Fin 256) (x : DirSet) : (s.putSet k x).monitor = s.monitor := rfl
@[simp] theorem putSet_pending (s : State) (k : Fin 256) (x : DirSet) : (s.putSet k x).pending = s.pending := rfl
@[simp] theorem putSet_freshIndex (s : State) (k : Fin 256) (x : DirSet) : (s.putSet k x).freshIndex = s.freshIndex := rfl

/-! ### queueReply -/

@[simp] theorem queueReply_streams (s : State) (im : Bool) (tag : Word16) (a : Answer) : (s.queueReply im tag a).streams = s.streams := rfl
@[simp] theorem queueReply_store (s : State) (im : Bool) (tag : Word16) (a : Answer) : (s.queueReply im tag a).store = s.store := rfl
@[simp] theorem queueReply_dir (s : State) (im : Bool) (tag : Word16) (a : Answer) : (s.queueReply im tag a).dir = s.dir := rfl
@[simp] theorem queueReply_plans (s : State) (im : Bool) (tag : Word16) (a : Answer) : (s.queueReply im tag a).plans = s.plans := rfl
@[simp] theorem queueReply_engine (s : State) (im : Bool) (tag : Word16) (a : Answer) : (s.queueReply im tag a).engine = s.engine := rfl
@[simp] theorem queueReply_drives (s : State) (im : Bool) (tag : Word16) (a : Answer) : (s.queueReply im tag a).drives = s.drives := rfl
@[simp] theorem queueReply_burn (s : State) (im : Bool) (tag : Word16) (a : Answer) : (s.queueReply im tag a).burn = s.burn := rfl
@[simp] theorem queueReply_linkUp (s : State) (im : Bool) (tag : Word16) (a : Answer) : (s.queueReply im tag a).linkUp = s.linkUp := rfl
@[simp] theorem queueReply_controlQueue (s : State) (im : Bool) (tag : Word16) (a : Answer) : (s.queueReply im tag a).controlQueue = s.controlQueue := rfl
@[simp] theorem queueReply_monitor (s : State) (im : Bool) (tag : Word16) (a : Answer) : (s.queueReply im tag a).monitor = s.monitor := rfl
@[simp] theorem queueReply_pending (s : State) (im : Bool) (tag : Word16) (a : Answer) : (s.queueReply im tag a).pending = s.pending := rfl
@[simp] theorem queueReply_freshIndex (s : State) (im : Bool) (tag : Word16) (a : Answer) : (s.queueReply im tag a).freshIndex = s.freshIndex := rfl

/-! ### queueFlow -/

@[simp] theorem queueFlow_streams (s : State) (i : StreamIx) (p : Bool) : (s.queueFlow i p).streams = s.streams := rfl
@[simp] theorem queueFlow_store (s : State) (i : StreamIx) (p : Bool) : (s.queueFlow i p).store = s.store := rfl
@[simp] theorem queueFlow_dir (s : State) (i : StreamIx) (p : Bool) : (s.queueFlow i p).dir = s.dir := rfl
@[simp] theorem queueFlow_plans (s : State) (i : StreamIx) (p : Bool) : (s.queueFlow i p).plans = s.plans := rfl
@[simp] theorem queueFlow_engine (s : State) (i : StreamIx) (p : Bool) : (s.queueFlow i p).engine = s.engine := rfl
@[simp] theorem queueFlow_drives (s : State) (i : StreamIx) (p : Bool) : (s.queueFlow i p).drives = s.drives := rfl
@[simp] theorem queueFlow_burn (s : State) (i : StreamIx) (p : Bool) : (s.queueFlow i p).burn = s.burn := rfl
@[simp] theorem queueFlow_linkUp (s : State) (i : StreamIx) (p : Bool) : (s.queueFlow i p).linkUp = s.linkUp := rfl
@[simp] theorem queueFlow_controlQueue (s : State) (i : StreamIx) (p : Bool) : (s.queueFlow i p).controlQueue = s.controlQueue := rfl
@[simp] theorem queueFlow_monitor (s : State) (i : StreamIx) (p : Bool) : (s.queueFlow i p).monitor = s.monitor := rfl
@[simp] theorem queueFlow_pending (s : State) (i : StreamIx) (p : Bool) : (s.queueFlow i p).pending = s.pending := rfl
@[simp] theorem queueFlow_freshIndex (s : State) (i : StreamIx) (p : Bool) : (s.queueFlow i p).freshIndex = s.freshIndex := rfl

/-! ### Reading back -/

@[simp] theorem stream_setStream_same (s : State) (i : StreamIx) (r : StreamRec) : (s.setStream i r).stream i = r := by
  simp [stream, setStream]

theorem stream_setStream_other (s : State) {i j : StreamIx} (r : StreamRec) (h : i ≠ j) :
    (s.setStream i r).stream j = s.stream j := by
  have h' : i.val ≠ j.val := fun e => h (Fin.ext e)
  simp [stream, setStream, h']

@[simp] theorem stream_modStream_same (s : State) (i : StreamIx) (f : StreamRec → StreamRec) :
    (s.modStream i f).stream i = f (s.stream i) := by simp [modStream]

theorem stream_modStream_other (s : State) {i j : StreamIx} (f : StreamRec → StreamRec) (h : i ≠ j) :
    (s.modStream i f).stream j = s.stream j := stream_setStream_other s _ h

@[simp] theorem drive_setDrive_same (s : State) (a : DriveIx) (d : DriveRec) : (s.setDrive a d).drive a = d := by
  simp [drive, setDrive]

theorem drive_setDrive_other (s : State) {a b : DriveIx} (d : DriveRec) (h : a ≠ b) :
    (s.setDrive a d).drive b = s.drive b := by
  have h' : a.val ≠ b.val := fun e => h (Fin.ext e)
  simp [drive, setDrive, h']

@[simp] theorem drive_modDrive_same (s : State) (a : DriveIx) (f : DriveRec → DriveRec) :
    (s.modDrive a f).drive a = f (s.drive a) := by simp [modDrive]

theorem drive_modDrive_other (s : State) {a b : DriveIx} (f : DriveRec → DriveRec) (h : a ≠ b) :
    (s.modDrive a f).drive b = s.drive b := drive_setDrive_other s _ h

@[simp] theorem context_setContext_same (s : State) (c : Fin 4) (b : Option Busy) :
    (s.setContext c b).context c = b := by simp [context, setContext]

theorem context_setContext_other (s : State) {c e : Fin 4} (b : Option Busy) (h : c ≠ e) :
    (s.setContext c b).context e = s.context e := by
  have h' : c.val ≠ e.val := fun x => h (Fin.ext x)
  simp [context, setContext, h']

theorem ix_injective {k l : FaultKind} (h : k.ix = l.ix) : k = l := by
  cases k <;> cases l <;> first | rfl | (simp [FaultKind.ix] at h)

@[simp] theorem fault_setFault_same (s : State) (k : FaultKind) (e : FaultEntry) : (s.setFault k e).fault k = e := by
  simp [fault, setFault]

theorem fault_setFault_other (s : State) {k l : FaultKind} (e : FaultEntry) (h : k ≠ l) :
    (s.setFault k e).fault l = s.fault l := by
  have h' : k.ix.val ≠ l.ix.val := fun x => h (ix_injective (Fin.ext x))
  simp [fault, setFault, h']

@[simp] theorem watch_setWatch_same (s : State) (w : Fin 16) (b : Option Booking) : (s.setWatch w b).watch w = b := by
  simp [watch, setWatch]

theorem watch_setWatch_other (s : State) {w v : Fin 16} (b : Option Booking) (h : w ≠ v) :
    (s.setWatch w b).watch v = s.watch v := by
  have h' : w.val ≠ v.val := fun x => h (Fin.ext x)
  simp [watch, setWatch, h']

@[simp] theorem stream_congr_modDrive (s : State) (a : DriveIx) (f : DriveRec → DriveRec) (i : StreamIx) :
    (s.modDrive a f).stream i = s.stream i := rfl

@[simp] theorem drive_congr_modStream (s : State) (i : StreamIx) (f : StreamRec → StreamRec) (a : DriveIx) :
    (s.modStream i f).drive a = s.drive a := rfl

@[simp] theorem stream_congr_modStore (s : State) (f : Store → Store) (i : StreamIx) :
    (s.modStore f).stream i = s.stream i := rfl

@[simp] theorem drive_congr_modStore (s : State) (f : Store → Store) (a : DriveIx) :
    (s.modStore f).drive a = s.drive a := rfl

@[simp] theorem drive_congr_modBurn (s : State) (f : Burn → Burn) (a : DriveIx) :
    (s.modBurn f).drive a = s.drive a := rfl

@[simp] theorem stream_congr_modEngine (s : State) (f : Engine → Engine) (i : StreamIx) :
    (s.modEngine f).stream i = s.stream i := rfl

@[simp] theorem modStore_store (s : State) (f : Store → Store) : (s.modStore f).store = f s.store := rfl
@[simp] theorem modBurn_burn (s : State) (f : Burn → Burn) : (s.modBurn f).burn = f s.burn := rfl
@[simp] theorem modEngine_engine (s : State) (f : Engine → Engine) : (s.modEngine f).engine = f s.engine := rfl

end Sys2Proof.Machine.State
end

