-- ==== Sys2Proof/Laws/Link.lean ====
section
/-! SUPPORT. What begins on the burn link: a WRITE exchange with its reads (R122, R123), and what follows the end of an
exchange in a survey and in a poll round (R118, R129 to R132, R135). -/

namespace Sys2Proof.Machine

/-! ### Searches over the drives -/

/-- The lowest drive that meets a test. -/
theorem find_lowest (P : DriveIx → Bool) (a : DriveIx) (hp : P a = true) (hm : ∀ b, b < a → P b = false) :
    allDrives.find? P = some a := by
  have h : allDrives = List.finRange 8 := by decide
  rw [h, List.find?_eq_some_iff_getElem]
  refine ⟨hp, a.val, by simp, by simp, fun j hj => ?_⟩
  rw [List.getElem_finRange]
  simpa using hm ⟨j, by omega⟩ hj

theorem find_none_of_all {l : List DriveIx} (P : DriveIx → Bool) (h : ∀ a, P a = false) : l.find? P = none := by
  simp [List.find?_eq_none, h]

/-- The first drive above a pointer that meets a test, `k` places above it. -/
theorem find_above (p : DriveIx) (P : DriveIx → Bool) (k : Nat) (h1 : 1 ≤ k) (h8 : k ≤ 8)
    (hp : P (p + Fin.ofNat 8 k) = true) (hm : ∀ j : Nat, 1 ≤ j → j < k → P (p + Fin.ofNat 8 j) = false) :
    (State.addressesAbove p).find? P = some (p + Fin.ofNat 8 k) := by
  have h : State.addressesAbove p = (List.range' 1 8).map fun j => p + Fin.ofNat 8 j := by
    clear hp hm
    revert p
    decide
  rw [h, List.find?_map]
  have : (List.range' 1 8).find? (P ∘ fun j => p + Fin.ofNat 8 j) = some k := by
    rw [List.find?_eq_some_iff_getElem]
    refine ⟨hp, k - 1, by simp; omega, by simp; omega, fun j hj => ?_⟩
    simpa using hm (1 + j) (by omega) (by omega)
  rw [this]
  rfl

namespace State

/-- A WRITE exchange begins (R122, R123). -/
theorem startWrite_writeBegins (s : State) (a : DriveIx) (f : FrameRec) (first : Nat) :
    s.WriteBegins (s.startWrite a f first) a f first := by
  intro count parts onHand hc hp ho
  have hparts : readParts f first count = parts := by
    rw [hp]
    simp only [readParts, Config.sectorBytes, ← Bool.decide_and]
    refine List.map_congr_left fun q _ => ?_
    cases q.1.slot <;> simp [zeroBytes]
  have hcount : min Config.writeSectors (dataSectors f.stripeCount f.stripeSize - first) = count := by
    rw [hc]
    rfl
  unfold startWrite
  simp only [hcount, hparts]
  refine ⟨fun ⟨q, hq, hn⟩ => ?_, fun h => ?_⟩
  · have hd : ¬ partsDone parts = true := fun h => by simpa [hn] using List.all_eq_true.1 h q hq
    rw [if_neg hd]
    rfl
  · have hd : partsDone parts = true := List.all_eq_true.2 fun q hq => Option.isSome_iff_ne_none.2 (h q hq)
    rw [if_pos hd, ho]
    rfl

theorem pollAsks_iff (t : State) (m : Nat) (a : DriveIx) :
    (decide (m ≤ driveAddress a) && (t.drive a).present && !(t.drive a).hasWork && !t.surveyWill a) = true ↔
      t.PollAsks m a := by
  unfold PollAsks surveyWill
  cases t.burn.survey <;> simp [and_assoc]

theorem discoveryAsks_iff (t : State) (a : DriveIx) :
    ((t.drive a).condition == .absent && !t.surveyWill a) = true ↔ t.DiscoveryAsks a := by
  unfold DiscoveryAsks surveyWill
  cases t.burn.survey <;> simp

/-- The end of an exchange other than a frame's (R118, R129 to R132, R135). -/
theorem endExchange_goesOn (t : State) : t.GoesOn t.endExchange := by
  refine ⟨fun h => ?_, fun v h hv => ⟨fun a ha => ⟨fun hh => ?_, fun hh => ?_⟩, fun h9 => ⟨fun hr => ?_, fun tag hr => ?_⟩⟩,
    fun m h => ⟨fun hh => ?_, fun hh => ⟨fun a ha hl => ?_, fun hn => ⟨fun k h1 h8 hk hl => ?_, fun ha => ?_⟩⟩⟩⟩
  · simp [endExchange, clearExchange, h]
  · have hb : 1 ≤ driveAddress a ∧ driveAddress a ≤ 8 := by simp [driveAddress]
    simp [endExchange, clearExchange, nextSurvey, h, hv, ha, hb, hh, modBurn]
  · have hb : 1 ≤ driveAddress a ∧ driveAddress a ≤ 8 := by simp [driveAddress]
    simp [endExchange, clearExchange, nextSurvey, h, hv, ha, hb, hh, modBurn, startUnit]
    simp [driveAddress]
  · simp [endExchange, clearExchange, nextSurvey, finishSurvey, h, hv, h9, hr, modBurn]
  · simp [endExchange, clearExchange, nextSurvey, finishSurvey, h, hv, h9, hr, modBurn]
    rfl
  · simp [endExchange, clearExchange, nextPoll, h, hh, modBurn]
  · have hf := find_lowest _ a ((pollAsks_iff t m a).2 ha)
      fun b hb => Bool.eq_false_iff.2 fun e => hl b hb ((pollAsks_iff t m b).1 e)
    have : t.endExchange = t.clearExchange.nextPoll m := by simp [endExchange, clearExchange, h]
    rw [this, nextPoll, if_neg (by simpa [clearExchange] using hh)]
    rw [show (allDrives.find? fun a => decide (m ≤ driveAddress a) && (t.clearExchange.drive a).present &&
      !(t.clearExchange.drive a).hasWork && !t.clearExchange.surveyWill a) = some a from hf]
    rfl
  all_goals
    have hf : (allDrives.find? fun a => decide (m ≤ driveAddress a) && (t.clearExchange.drive a).present &&
        !(t.clearExchange.drive a).hasWork && !t.clearExchange.surveyWill a) = none :=
      find_none_of_all _ fun a => Bool.eq_false_iff.2 fun e => hn a ((pollAsks_iff t m a).1 e)
    have he : t.endExchange = t.clearExchange.discover := by
      have : t.endExchange = t.clearExchange.nextPoll m := by simp [endExchange, clearExchange, h]
      rw [this, nextPoll, if_neg (by simpa [clearExchange] using hh), hf]
    rw [he, discover]
  · rw [show ((addressesAbove t.clearExchange.burn.discovery).find? fun a =>
      (t.clearExchange.drive a).condition == .absent && !t.clearExchange.surveyWill a) =
        some (t.burn.discovery + Fin.ofNat 8 k) from find_above _ _ k h1 h8 ((discoveryAsks_iff t _).2 hk)
          fun j h1 h2 => Bool.eq_false_iff.2 fun e => hl j h1 h2 ((discoveryAsks_iff t _).1 e)]
    rfl
  · rw [show ((addressesAbove t.clearExchange.burn.discovery).find? fun a =>
      (t.clearExchange.drive a).condition == .absent && !t.clearExchange.surveyWill a) = none from
        find_none_of_all _ fun a => Bool.eq_false_iff.2 fun e => ha a ((discoveryAsks_iff t a).1 e)]
    rfl

end State

end Sys2Proof.Machine
end

