-- ==== Sys2Proof/Laws/Signals.lean ====
section
/-! SUPPORT. What raises, occurrences and flow judgements can change: the monitor, the flow set, the outbox, and in the
stream records the flow state, the step to STOPPED and the cadence timer. -/

namespace Sys2Proof.Machine

/-- A state after raises, occurrences and flow judgements. -/
structure Signals (s t : State) : Prop where
  rest : t = { s with
    streams := t.streams, monitor := t.monitor
    ret := { s.ret with flowSet := t.ret.flowSet, outbox := t.ret.outbox } }
  stream : ∀ i, t.stream i = { s.stream i with
    state := (t.stream i).state, paused := (t.stream i).paused
    cadence := { (s.stream i).cadence with running := (t.stream i).cadence.running } }

namespace Signals

variable {s t u : State}

theorem refl (s : State) : Signals s s := ⟨rfl, fun _ => rfl⟩

theorem trans (h : Signals s t) (g : Signals t u) : Signals s u := by
  refine ⟨?_, fun i => ?_⟩
  · have e := g.rest
    rw [h.rest] at e
    exact e
  · have e := g.stream i
    rw [h.stream i] at e
    exact e

theorem store (h : Signals s t) : t.store = s.store := by rw [h.rest]
theorem dir (h : Signals s t) : t.dir = s.dir := by rw [h.rest]
theorem plans (h : Signals s t) : t.plans = s.plans := by rw [h.rest]
theorem engine (h : Signals s t) : t.engine = s.engine := by rw [h.rest]
theorem drives (h : Signals s t) : t.drives = s.drives := by rw [h.rest]
theorem burn (h : Signals s t) : t.burn = s.burn := by rw [h.rest]
theorem linkUp (h : Signals s t) : t.linkUp = s.linkUp := by rw [h.rest]
theorem controlQueue (h : Signals s t) : t.controlQueue = s.controlQueue := by rw [h.rest]
theorem pending (h : Signals s t) : t.pending = s.pending := by rw [h.rest]
theorem freshIndex (h : Signals s t) : t.freshIndex = s.freshIndex := by rw [h.rest]
theorem asks (h : Signals s t) : t.ret.asks = s.ret.asks := by rw [h.rest]
theorem replies (h : Signals s t) : t.ret.replies = s.ret.replies := by rw [h.rest]
theorem sending (h : Signals s t) : t.ret.sending = s.ret.sending := by rw [h.rest]
theorem drive (h : Signals s t) (a : DriveIx) : t.drive a = s.drive a := by simp [State.drive, h.drives]
theorem context (h : Signals s t) (c : Fin 4) : t.context c = s.context c := by simp [State.context, h.engine]
theorem window (h : Signals s t) (i : StreamIx) : (t.stream i).window = (s.stream i).window := by rw [h.stream i]
theorem config (h : Signals s t) (i : StreamIx) : (t.stream i).config = (s.stream i).config := by rw [h.stream i]
theorem counters (h : Signals s t) (i : StreamIx) : (t.stream i).counters = (s.stream i).counters := by rw [h.stream i]
theorem lastNumber (h : Signals s t) (i : StreamIx) : (t.stream i).lastNumber = (s.stream i).lastNumber := by
  rw [h.stream i]
theorem frame (h : Signals s t) (i : StreamIx) (n : Word32) : t.frame i n = s.frame i n := by
  simp [State.frame, h.window]
theorem stripe (h : Signals s t) (j : Job) : t.stripe j = s.stripe j := by simp [State.stripe, h.frame]

theorem ite {c : Prop} [Decidable c] (h : c → Signals s t) (g : ¬ c → Signals s u) :
    Signals s (if c then t else u) := by
  split
  · exact h ‹_›
  · exact g ‹_›

/-- A change of the monitor alone. -/
theorem monitor (s : State) (m : Monitor) : Signals s { s with monitor := m } := ⟨rfl, fun _ => rfl⟩

/-- A change of the outbox alone. -/
theorem outbox (s : State) (o : List Notice) : Signals s { s with ret := { s.ret with outbox := o } } :=
  ⟨rfl, fun _ => rfl⟩

/-- A change of the flow set alone. -/
theorem flowSet (s : State) (o : List FlowUnit) : Signals s { s with ret := { s.ret with flowSet := o } } :=
  ⟨rfl, fun _ => rfl⟩

theorem setFault (s : State) (k : FaultKind) (e : FaultEntry) : Signals s (s.setFault k e) := monitor s _
theorem setWatch (s : State) (w : Fin 16) (b : Option Booking) : Signals s (s.setWatch w b) := monitor s _
theorem noteFault (s : State) (k : FaultKind) (n : Nat) : Signals s (s.noteFault k n) := setFault s k _
theorem queueFlow (s : State) (i : StreamIx) (p : Bool) : Signals s (s.queueFlow i p) := flowSet s _

/-- A change of a stream record in its state, flow state and cadence timer. -/
theorem modStream (s : State) (i : StreamIx) (f : StreamRec → StreamRec)
    (h : f (s.stream i) = { s.stream i with
      state := (f (s.stream i)).state, paused := (f (s.stream i)).paused
      cadence := { (s.stream i).cadence with running := (f (s.stream i)).cadence.running } }) :
    Signals s (s.modStream i f) := by
  refine ⟨rfl, fun j => ?_⟩
  by_cases e : j = i
  · subst e
    simpa using h
  · rw [State.stream_modStream_other s _ (Ne.symm e)]

theorem judgeFlow (s : State) (i : StreamIx) : Signals s (s.judgeFlow i) :=
  ite (fun _ => refl s) fun _ => (modStream s i _ rfl).trans (queueFlow _ _ _)

theorem enterHalted (s : State) : Signals s s.enterHalted :=
  ⟨rfl, fun i => by simp [State.enterHalted, State.stream]⟩

theorem pushNotice (s : State) (n : Notice) : Signals s (s.pushNotice n) :=
  ite (fun _ => outbox s _) fun _ => refl s

theorem raiseOverflow (s : State) (x : NoticeSource) : Signals s (s.raiseOverflow x) := by
  unfold State.raiseOverflow
  have h := noteFault s .noticeOverflow 0
  dsimp only
  split
  · exact h
  · exact h.trans (pushNotice _ _)
  · exact h.trans (pushNotice _ _)
  · exact (h.trans (pushNotice _ _)).trans (enterHalted _)

theorem offerNotice (s : State) (n : Notice) : Signals s (s.offerNotice n) :=
  ite (fun _ => pushNotice s n) fun _ => raiseOverflow s _

theorem stopStream (s : State) (i : StreamIx) : Signals s (s.stopStream i) :=
  ite (fun _ => (modStream s i _ rfl).trans (judgeFlow _ _)) fun _ => refl s

theorem raise (s : State) (k : FaultKind) (scope : Nat) (detail : Word32) : Signals s (s.raise k scope detail) := by
  unfold State.raise
  have h := noteFault s k scope
  dsimp only
  split
  · exact h
  · exact h.trans (offerNotice _ _)
  · split
    · exact (h.trans (offerNotice _ _)).trans (stopStream _ _)
    · exact h.trans (offerNotice _ _)
  · exact (h.trans (offerNotice _ _)).trans (enterHalted _)

theorem fireWatch (s : State) (w : Fin 16) (b : Booking) (c : WatchCondition) (n : Nat) (d : Word32) :
    Signals s (s.fireWatch w b c n d) := by
  unfold State.fireWatch
  have h : ∀ x v, Signals s ((s.offerNotice x).setWatch w v) := fun x v => (offerNotice s x).trans (setWatch _ w v)
  dsimp only
  split
  · split
    · exact (h _ _).trans (judgeFlow _ _)
    · exact h _ _
  · exact h _ _

theorem foldl {α : Type} (f : State → α → State) (hf : ∀ s x, Signals s (f s x)) (l : List α) (s : State) :
    Signals s (l.foldl f s) := by
  induction l generalizing s with
  | nil => exact refl s
  | cons x l ih => exact (hf s x).trans (ih _)

theorem occur (s : State) (c : WatchCondition) (n : Nat) (d : Word32) : Signals s (s.occur c n d) :=
  foldl _ (fun s w => by
    split
    · exact ite (fun _ => fireWatch s w _ c n d) fun _ => refl s
    · exact refl s) _ s

end Signals

/-! ### Occurrences keep the stream states (R168): only a raise with action STOP changes one -/

namespace State

theorem state_modStream (s : State) (i : StreamIx) (f : StreamRec → StreamRec)
    (h : (f (s.stream i)).state = (s.stream i).state) (j : StreamIx) :
    ((s.modStream i f).stream j).state = (s.stream j).state := by
  by_cases e : j = i
  · subst e
    simpa using h
  · rw [stream_modStream_other s _ (Ne.symm e)]

theorem state_judgeFlow (s : State) (i j : StreamIx) : ((s.judgeFlow i).stream j).state = (s.stream j).state := by
  unfold judgeFlow
  split
  · rfl
  · exact state_modStream s i (fun r => { r with paused := s.pauseReason i }) rfl j

theorem state_enterHalted (s : State) (j : StreamIx) : (s.enterHalted.stream j).state = (s.stream j).state := by
  simp [enterHalted, stream]

theorem state_pushNotice (s : State) (n : Notice) (j : StreamIx) :
    ((s.pushNotice n).stream j).state = (s.stream j).state := by
  unfold pushNotice
  split <;> rfl

theorem state_raiseOverflow (s : State) (x : NoticeSource) (j : StreamIx) :
    ((s.raiseOverflow x).stream j).state = (s.stream j).state := by
  unfold raiseOverflow
  dsimp only
  split
  · rfl
  · exact state_pushNotice _ _ _
  · exact state_pushNotice _ _ _
  · exact (state_enterHalted _ _).trans (state_pushNotice _ _ _)

theorem state_offerNotice (s : State) (n : Notice) (j : StreamIx) :
    ((s.offerNotice n).stream j).state = (s.stream j).state := by
  unfold offerNotice
  split
  · exact state_pushNotice _ _ _
  · exact state_raiseOverflow _ _ _

theorem state_fireWatch (s : State) (w : Fin 16) (b : Booking) (c : WatchCondition) (n : Nat) (d : Word32)
    (j : StreamIx) : ((s.fireWatch w b c n d).stream j).state = (s.stream j).state := by
  unfold fireWatch
  dsimp only
  split
  · split
    · exact (state_judgeFlow _ _ _).trans (state_offerNotice _ _ _)
    · exact state_offerNotice _ _ _
  · exact state_offerNotice _ _ _

/-- An occurrence changes no stream's state (R168). -/
theorem state_occur (s : State) (c : WatchCondition) (n : Nat) (d : Word32) (j : StreamIx) :
    ((s.occur c n d).stream j).state = (s.stream j).state := by
  unfold occur
  generalize allWatches = l
  induction l generalizing s with
  | nil => rfl
  | cons w l ih =>
    rw [List.foldl_cons, ih]
    split
    · split
      · exact state_fireWatch _ _ _ _ _ _ _
      · rfl
    · rfl

end State

end Sys2Proof.Machine
end

