-- ==== Sys2Proof/Laws/Frames.lean ====
section
/-! SUPPORT. Frames in the windows: what a lookup reads after a change of one frame, what joining the repair queue and the
return of PARKED stripes can do (R5, R69, R70, R78). -/

namespace Sys2Proof.Machine

/-! ### Lookups in a window -/

/-- The first frame of a number, after a change of the frames of that number. -/
theorem find_map_same {n : Word32} {g : FrameRec → FrameRec} (hg : ∀ f, f.number = n → (g f).number = n) :
    ∀ {w : List FrameRec} {f : FrameRec}, w.find? (fun f => f.number == n) = some f →
      (w.map fun f => if f.number == n then g f else f).find? (fun f => f.number == n) = some (g f)
  | [], _, h => nomatch h
  | x :: w, f, h => by
    by_cases hx : x.number = n
    · rw [List.find?_cons, beq_iff_eq.2 hx] at h
      cases h
      simp [hx, hg x hx]
    · rw [List.find?_cons, beq_eq_false_iff_ne.2 hx] at h
      rw [List.map_cons, List.find?_cons, if_neg (by simpa using hx), beq_eq_false_iff_ne.2 hx]
      exact find_map_same hg h

/-- The first frame of another number, after that change. -/
theorem find_map_other {n m : Word32} {g : FrameRec → FrameRec} (hg : ∀ f, f.number = n → (g f).number = n)
    (hm : m ≠ n) : ∀ {w : List FrameRec},
      (w.map fun f => if f.number == n then g f else f).find? (fun f => f.number == m) =
        w.find? (fun f => f.number == m)
  | [] => rfl
  | x :: w => by
    by_cases hx : x.number = n
    · have h1 : ((g x).number == m) = false := by simpa [hg x hx] using Ne.symm hm
      have h2 : (x.number == m) = false := by simpa [hx] using Ne.symm hm
      rw [List.map_cons, List.find?_cons, List.find?_cons, if_pos (by simpa using hx), h1, h2]
      exact find_map_other hg hm
    · rw [List.map_cons, List.find?_cons, List.find?_cons, if_neg (by simpa using hx), find_map_other hg hm]

/-- In a window whose numbers rise strictly (R5) a number names one frame. -/
theorem mem_unique {w : List FrameRec} (hp : (w.map (·.number)).Pairwise (· < ·)) {f g : FrameRec} {n : Word32}
    (h : w.find? (fun f => f.number == n) = some f) (hg : g ∈ w) (hn : g.number = n) : g = f := by
  induction w with
  | nil => cases hg
  | cons x w ih =>
    rw [List.map_cons, List.pairwise_cons] at hp
    rw [List.find?_cons] at h
    by_cases e : x.number = n
    · rw [beq_iff_eq.2 e] at h
      cases h
      rcases List.mem_cons.1 hg with rfl | hg
      · rfl
      · have := hp.1 g.number (List.mem_map_of_mem hg)
        simp [e, hn] at this
    · rw [beq_eq_false_iff_ne.2 e] at h
      rcases List.mem_cons.1 hg with rfl | hg
      · exact absurd hn e
      · exact ih hp.2 h hg

/-- A change of one place of a list sets it. -/
theorem modify_eq_set {α : Type} {l : List α} {k : Nat} {x : α} (g : α → α) (h : l[k]? = some x) :
    l.modify k g = l.set k (g x) := by
  apply List.ext_getElem?
  intro m
  rw [List.getElem?_modify, List.getElem?_set]
  by_cases e : k = m
  · subst e
    obtain ⟨hl, he⟩ := List.getElem?_eq_some_iff.1 h
    simp [hl, he]
  · simp [e]

namespace State

variable {s : State} {i : StreamIx} {n m : Word32} {g : FrameRec → FrameRec} {f : FrameRec} {st : StripeRec} {j : Job}

theorem frame_number (h : s.frame i n = some f) : f.number = n := by simpa using List.find?_some h

theorem frame_of_mem (hp : ((s.stream i).window.map (·.number)).Pairwise (· < ·)) (hf : f ∈ (s.stream i).window) :
    s.frame i f.number = some f := by
  cases hx : s.frame i f.number with
  | none => simpa using List.find?_eq_none.1 hx f hf
  | some q => rw [mem_unique hp hx hf rfl]

theorem stream_modFrame_same (s : State) (i : StreamIx) (n : Word32) (g : FrameRec → FrameRec) :
    (s.modFrame i n g).stream i = { s.stream i with
      window := (s.stream i).window.map fun f => if f.number == n then g f else f } := by
  simp [modFrame]

theorem stream_modFrame_other (s : State) {i j : StreamIx} (n : Word32) (g : FrameRec → FrameRec) (h : j ≠ i) :
    (s.modFrame i n g).stream j = s.stream j := stream_modStream_other s _ (Ne.symm h)

theorem frame_modFrame_same (hg : ∀ f, f.number = n → (g f).number = n) (h : s.frame i n = some f) :
    (s.modFrame i n g).frame i n = some (g f) := by
  simp only [frame, modFrame, stream_modStream_same]
  exact find_map_same hg h

theorem frame_modFrame_other (hg : ∀ f, f.number = n → (g f).number = n) (h : m ≠ n) :
    (s.modFrame i n g).frame i m = s.frame i m := by
  simp only [frame, modFrame, stream_modStream_same]
  exact find_map_other hg h

/-- A stripe enters a resolved state (R4, R90). -/
theorem frame_resolveStripe (g : StripeRec → StripeRec) (h : s.frame j.stream j.number = some f)
    (hs : f.stripeAt j.stripe = some st) :
    (s.resolveStripe j g).frame j.stream j.number = some (f.withResolved j.stripe (g st)) := by
  rw [resolveStripe, frame_modFrame_same (g := fun f => (f.modStripe j.stripe g).resolveOne) (fun _ e => e) h]
  simp [FrameRec.modStripe, FrameRec.resolveOne, FrameRec.withResolved, modify_eq_set g hs]

theorem frame_modStripe (g : StripeRec → StripeRec) (h : s.frame j.stream j.number = some f)
    (hs : f.stripeAt j.stripe = some st) :
    (s.modStripe j g).frame j.stream j.number = some { f with stripes := f.stripes.set j.stripe (g st) } := by
  rw [modStripe, frame_modFrame_same (g := (·.modStripe j.stripe g)) (fun _ e => e) h]
  simp [FrameRec.modStripe, modify_eq_set g hs]

end State

/-! ### The repair queue (R69, R70) -/

theorem mem_insertRef (r : QueueRef) : ∀ q, r ∈ insertRef r q
  | [] => by simp [insertRef]
  | x :: q => by
    unfold insertRef
    split <;> simp [mem_insertRef r q]

theorem mem_insertRef_of_mem (r y : QueueRef) : ∀ q, y ∈ q → y ∈ insertRef r q
  | [], h => nomatch h
  | x :: q, h => by
    unfold insertRef
    split
    · exact List.mem_cons_of_mem _ h
    · rcases List.mem_cons.1 h with rfl | h
      · exact List.mem_cons_self
      · exact List.mem_cons_of_mem _ (mem_insertRef_of_mem r y q h)

namespace State

/-- Joining the repair queue changes the queue alone. -/
theorem enqueueFrame_eq (s : State) (i : StreamIx) (n : Word32) :
    s.enqueueFrame i n = { s with engine := { s.engine with queue := (s.enqueueFrame i n).engine.queue } } := by
  unfold enqueueFrame
  split
  · rfl
  · split <;> rfl

/-- What stands in the queue stays. -/
theorem enqueueFrame_keeps (s : State) (i : StreamIx) (n : Word32) :
    ∀ q ∈ s.engine.queue, q ∈ (s.enqueueFrame i n).engine.queue := by
  intro q hq
  unfold enqueueFrame
  split
  · exact hq
  · split
    · exact mem_insertRef_of_mem _ _ _ hq
    · exact hq

/-- A frame with a close ordinal is in the queue after it joins (R70); `g` is the frame as a caller writes it. -/
theorem enqueueFrame_queued (s : State) (i : StreamIx) (n : Word32) (f g : FrameRec) (h : s.frame i n = some f)
    (hg : g.ordinal = f.ordinal) (hn : g.number = n) : (s.enqueueFrame i n).Queued g i := by
  intro o ho
  unfold enqueueFrame
  split
  · rename_i hq
    obtain ⟨q, hq, hx⟩ := List.any_eq_true.1 hq
    exact ⟨q, hq, by rw [hn]; simpa [QueueRef.names] using hx⟩
  · rw [hg] at ho
    simp only [h, ho, Option.bind_some]
    exact ⟨_, mem_insertRef _ _, rfl, hn.symm⟩

end State

/-! ### The return of PARKED stripes (R78) -/

/-- A frame with its PARKED stripes DAMAGED again. -/
def FrameRec.unparked (f : FrameRec) : FrameRec :=
  { f with stripes := f.stripes.map fun st => if st.state = .parked then { st with state := .damaged } else st }

theorem FrameRec.unparked_of_none (f : FrameRec) (h : ∀ st ∈ f.stripes, st.state ≠ .parked) : f.unparked = f := by
  have : (f.stripes.map fun st => if st.state = .parked then { st with state := .damaged } else st) = f.stripes := by
    conv => rhs; rw [← List.map_id f.stripes]
    exact List.map_congr_left fun st hs => by simp [h st hs]
  simp [FrameRec.unparked, this]

theorem FrameRec.unparked_none (f : FrameRec) : ∀ st ∈ f.unparked.stripes, st.state ≠ .parked := by
  intro st hs
  obtain ⟨x, -, rfl⟩ := List.mem_map.1 hs
  split
  · simp
  · assumption

theorem FrameRec.none_of_parkedNow (f : FrameRec) (h : f.parkedNow = 0) : ∀ st ∈ f.stripes, st.state ≠ .parked := by
  simpa [FrameRec.parkedNow] using h

/-- What `State.unparkFrame` makes of a state, `f` being the frame it names. -/
structure State.Unparked (s t : State) (i : StreamIx) (n : Word32) (f : FrameRec) : Prop where
  rest : t = { s with streams := t.streams, engine := t.engine }
  frame : t.frame i n = some f.unparked
  others : ∀ m, m ≠ n → t.frame i m = s.frame i m
  streams : ∀ j, j ≠ i → t.stream j = s.stream j
  stream : t.stream i = { s.stream i with window := (t.stream i).window }
  numbers : (t.stream i).window.map (·.number) = (s.stream i).window.map (·.number)
  parked : t.engine.parked = s.engine.parked - (f.stripes.filter fun st => st.state == .parked).length
  contexts : t.engine.contexts = s.engine.contexts
  ordinal : t.engine.closeOrdinal = s.engine.closeOrdinal
  queued : (∃ st ∈ f.stripes, st.state = .parked) → t.Queued f i
  keeps : ∀ q ∈ s.engine.queue, q ∈ t.engine.queue

theorem State.unparkFrame_unparked (s : State) (i : StreamIx) (n : Word32) (f : FrameRec) (h : s.frame i n = some f) :
    Unparked s (s.unparkFrame i n) i n f := by
  unfold unparkFrame
  rw [h]
  dsimp only
  by_cases h0 : f.parkedNow = 0
  · rw [if_pos h0]
    have hn := f.none_of_parkedNow h0
    refine ⟨rfl, by rw [f.unparked_of_none hn, h], fun _ _ => rfl, fun _ _ => rfl, rfl, rfl, ?_, rfl, rfl,
      fun ⟨st, hs, he⟩ => absurd he (hn st hs), fun _ hq => hq⟩
    have : (f.stripes.filter fun st => st.state == .parked).length = 0 := h0
    omega
  · rw [if_neg h0]
    generalize hu : (fun g : FrameRec => ({ g with
      stripes := g.stripes.map fun st => if st.state == .parked then { st with state := .damaged } else st } :
        FrameRec)) = u
    have hg : ∀ g : FrameRec, g.number = n → (u g).number = n := by rw [← hu]; exact fun _ h => h
    have huf : u f = f.unparked := by rw [← hu]; simp [FrameRec.unparked]
    have hff : ((s.modFrame i n u).modEngine fun e => { e with parked := e.parked - f.parkedNow }).frame i n =
        some f.unparked := (frame_modFrame_same hg h).trans (congrArg some huf)
    have hq := enqueueFrame_queued _ _ _ _ f hff rfl (frame_number h)
    have hm := enqueueFrame_keeps
      ((s.modFrame i n u).modEngine fun e => { e with parked := e.parked - f.parkedNow }) i n
    rw [enqueueFrame_eq] at hq hm ⊢
    refine ⟨rfl, hff, fun m hm => frame_modFrame_other hg hm, fun j hj => stream_modFrame_other s n _ hj, ?_, ?_, rfl,
      rfl, rfl, fun _ => hq, hm⟩
    · show (s.modFrame i n u).stream i = { s.stream i with window := ((s.modFrame i n u).stream i).window }
      rw [stream_modFrame_same]
    · show ((s.modFrame i n u).stream i).window.map (·.number) = _
      rw [stream_modFrame_same, List.map_map]
      refine List.map_congr_left fun x _ => ?_
      simp only [Function.comp]
      split
      · rename_i e
        rw [hg x (by simpa using e), eq_comm]
        simpa using e
      · rfl

end Sys2Proof.Machine
end

