-- ==== Sys2Proof/Laws/Repair.lean ====
section
/-! SUPPORT. What a step's end makes of a state: a repair, a failed step, a failed try of a REFETCH; and what a store read
leaves (R28, R29, R49, R58, R59, R73, R79 to R83). -/

namespace Sys2Proof.Machine.State

/-- Claims of −1 change the store alone. -/
theorem releaseAll_eq (s : State) (xs : List Slot) :
    s.releaseAll xs = { s with store := xs.foldl Store.release s.store } := by
  induction xs generalizing s with
  | nil => rfl
  | cons x xs ih =>
    unfold releaseAll at *
    rw [List.foldl_cons, ih]
    rfl

/-! ### A repair (R59) -/

/-- `t` is `s` after the repair of a stripe: `st` of frame `f`, with new data on slot `x`, the store then being `w`. -/
structure Repaired (s t : State) (c : Fin 4) (j : Job) (x : Slot) (m : Method) (donors : List Word32) (gen : Nat)
    (f : FrameRec) (st : StripeRec) (w : Store) : Prop where
  context : t.context c = none
  frame : t.frame j.stream j.number = some (f.withResolved j.stripe
    { st with state := .repaired, slot := some x, method := some m, donors := donors, generation := some gen })
  counters : (t.stream j.stream).counters[m.counter.ix] = (s.stream j.stream).counters[m.counter.ix] + 1
  store : t.store = w
  dir : t.dir = s.dir
  drives : t.drives = s.drives
  ret : t.ret = s.ret
  monitor : t.monitor = s.monitor

theorem completeRepair_repaired (s : State) (c : Fin 4) (j : Job) (x : Slot) (adopt : Bool) (m : Method)
    (donors : List Word32) (gen : Nat) (inputs : List Slot) (f : FrameRec) (st : StripeRec)
    (hf : s.frame j.stream j.number = some f) (hs : f.stripeAt j.stripe = some st) :
    Repaired s (s.completeRepair c j x adopt m donors gen inputs) c j x m donors gen f st
      (inputs.foldl Store.release (match st.slot with
        | some y => (if adopt then s.store.claim x else s.store).release y
        | none => if adopt then s.store.claim x else s.store)) := by
  simp only [completeRepair]
  have h1 : (if adopt = true then s.claim x else s) =
      { s with store := if adopt then s.store.claim x else s.store } := by cases adopt <;> rfl
  rw [h1]
  generalize (if adopt then s.store.claim x else s.store) = w
  have h2 : ({ s with store := w } : State).releaseOld j = { s with store := match st.slot with
      | some y => w.release y
      | none => w } := by
    have : ({ s with store := w } : State).frame j.stream j.number = some f := hf
    simp only [releaseOld, stripe, this, Option.bind_some, hs]
    cases st.slot <;> rfl
  rw [h2]
  generalize (match st.slot with
    | some y => w.release y
    | none => w) = w
  have hfr := frame_resolveStripe (s := { s with store := w }) (j := j) (fun st =>
    { st with state := .repaired, slot := some x, method := some m, donors := donors, generation := some gen }) hf hs
  rw [releaseAll_eq]
  refine ⟨?_, ?_, ?_, ?_, rfl, rfl, rfl, rfl⟩
  · simp [freeContext, State.context, setContext]
  · rw [← hfr]
    simp [freeContext, bump, bumpBy, State.frame, setContext, State.stream, modStream, setStream]
  · simp [freeContext, bump, bumpBy, setContext, State.stream, modStream, setStream, resolveStripe, modFrame]
  · rfl

/-! ### Failures (R58, R73, R83) -/

/-- A stripe is MARKED and its context is FREE (R58, R68). -/
theorem marked_marked (s : State) (c : Fin 4) (j : Job) (m : Method) (f : FrameRec) (st : StripeRec)
    (h : s.frame j.stream j.number = some f) (hs : f.stripeAt j.stripe = some st) :
    let t := (s.markStripe j m).freeContext c
    t.context c = none ∧
      t.frame j.stream j.number = some (f.withResolved j.stripe { st with
        state := .marked, method := some m, donors := [], generation := none }) ∧
      (t.stream j.stream).counters = (s.stream j.stream).counters.set Counter.marked.ix
        ((s.stream j.stream).counters[Counter.marked.ix] + 1) ∧
      t.store = s.store ∧ t.dir = s.dir ∧ t.drives = s.drives ∧ t.ret = s.ret ∧ t.monitor = s.monitor ∧
      t.engine.queue = s.engine.queue := by
  refine ⟨by simp [freeContext], ?_, ?_, rfl, rfl, rfl, rfl, rfl, rfl⟩
  · rw [← frame_resolveStripe (fun st =>
      { st with state := .marked, method := some m, donors := [], generation := none }) h hs]
    simp [freeContext, markStripe, bump, bumpBy, frame, setContext, stream, modStream, setStream]
  · simp [freeContext, markStripe, bump, bumpBy, setContext, stream, modStream, setStream, resolveStripe, modFrame]

/-- An immediate check that fails leaves the windows as they were (R61, R63, R65): at most STORE_FULL was raised. -/
theorem beginStep_failed {s v : State} {c : Fin 4} {j : Job} {ix : Nat} {m : PlanMethod}
    (h : s.beginStep c j ix m = (.failed, v)) (i : StreamIx) (n : Word32) : v.frame i n = s.frame i n := by
  have ask : ∀ {k w}, s.askSlot k = (none, w) → w.frame i n = s.frame i n := by
    intro k w hw
    unfold askSlot at hw
    split at hw
    · simp at hw
    · cases hw
      exact (Signals.raise _ _ _ _).frame i n
  have same : ∀ {e}, ((StepStart.failed, s) : StepStart × State) = (e, v) → v.frame i n = s.frame i n := by
    intro e he
    cases he
    rfl
  cases m with
  | neighbour edge =>
    simp only [beginStep, beginNeighbour] at h
    split at h
    · exact same h
    · split at h
      · exact same h
      · split at h
        · exact same h
        · split at h
          · cases h
            exact ask (by assumption)
          · simp at h
  | previous age =>
    simp only [beginStep, beginPrevious] at h
    split at h
    · exact same h
    · simp at h
  | blend age =>
    simp only [beginStep, beginBlend] at h
    split at h
    · exact same h
    · split at h
      · split at h
        · simp at h
        · exact same h
      · split at h
        · split at h
          · simp at h
          · exact same h
        · split at h
          · exact same h
          · split at h
            · cases h
              exact ask (by assumption)
            · simp at h
  | refetch tries wait => simp [beginStep] at h
  | mark => simp [beginStep] at h

theorem failStep_stepsFail (c : Fin 4) (j : Job) (rest : List PlanStep) : ∀ (step : PlanStep) (ix : Nat) (s : State)
    (f : FrameRec) (st : StripeRec), s.frame j.stream j.number = some f → f.stripeAt j.stripe = some st →
    StepsFail c j ix (step :: rest) f st s (s.failStep c j ix step rest.isEmpty (runSteps c j (ix + 1) rest)) := by
  induction rest with
  | nil =>
    intro step ix s f st h hs
    refine ⟨fun _ => ?_, fun nxt _ hr => nomatch hr⟩
    rw [failStep, if_pos (.inr rfl)]
    exact marked_marked s c j step.method.name f st h hs
  | cons nxt more ih =>
    intro step ix s f st h hs
    refine ⟨fun hc => ?_, fun n hn hr => ?_⟩
    · rw [failStep, if_pos (by simpa using hc)]
      exact marked_marked s c j step.method.name f st h hs
    · cases hr
      rw [failStep, if_neg (by simp [hn])]
      have hf := frame_modStripe (fun r => { r with resume := ix + 1 }) h hs
      have hl := (List.getElem?_eq_some_iff.1 hs).1
      have hm : (s.modStripe j fun r => { r with resume := ix + 1 }).mayStart j.stream = s.mayStart j.stream := by
        simp [mayStart, modStripe, modFrame]
      refine ⟨fun h1 h2 e v hv => ?_, fun h1 => ?_⟩
      · dsimp only
        rw [if_pos (hm.trans (by simp [mayStart, h1, h2])), runSteps, hv]
        refine ⟨fun he => ?_, fun he => ?_⟩
        · cases e <;> first | rfl | exact absurd rfl he
        · subst he
          exact ih nxt (ix + 1) v _ _ ((beginStep_failed hv _ _).trans hf) (by simp [FrameRec.stripeAt, hl])
      · have : ¬ s.mayStart j.stream = true := by rcases h1 with h1 | h1 <;> simp [mayStart, h1]
        dsimp only
        rw [if_neg fun e => this (hm.symm.trans e)]
        unfold returnToDamaged
        have hf2 := frame_modStripe (s := (s.modStripe j fun r => { r with resume := ix + 1 }).freeContext c)
          (fun st => { st with state := .damaged }) hf (st := { st with resume := ix + 1 }) (by
            simp [FrameRec.stripeAt, hl])
        simp only [List.set_set] at hf2
        have hQ := enqueueFrame_queued _ _ _ _ f hf2 rfl (frame_number h)
        rw [enqueueFrame_eq] at hQ ⊢
        refine ⟨?_, hQ, hf2, rfl, rfl, rfl, rfl, rfl⟩
        simp [context, modStripe, modFrame, freeContext, setContext, modStream]

/-- The step a context runs has failed (R58, R73). -/
theorem stepFailed_stepFails (s : State) (c : Fin 4) (b : Busy) (f : FrameRec) (st : StripeRec)
    (h : s.frame b.job.stream b.job.number = some f) (hs : f.stripeAt b.job.stripe = some st) :
    s.StepFails (s.stepFailed c b) c b f st := by
  unfold StepFails stepFailed
  split
  · rename_i e
    rw [e]
    exact trivial
  · rename_i step rest e
    rw [e]
    exact failStep_stepsFail c b.job rest step b.step s f st h hs

/-- A try fails in `u`, which is `s` with the ask of the try withdrawn. -/
theorem tryFailed_tryFails (s u : State) (c : Fin 4) (b : Busy) (n left wait : Nat) (f : FrameRec) (st : StripeRec)
    (h : s.frame b.job.stream b.job.number = some f) (hs : f.stripeAt b.job.stripe = some st)
    (ha : u.ret.asks = s.ret.asks.filter fun a => a.context != c) (hr : { u with ret := s.ret } = s)
    (hp : u.ret.replies = s.ret.replies) (ho : u.ret.outbox = s.ret.outbox) :
    s.TryFails (u.tryFailed c b n left wait) c b n left wait f st := by
  have e1 : u.streams = s.streams := by rw [← hr]
  have e2 : u.store = s.store := by rw [← hr]
  have e3 : u.dir = s.dir := by rw [← hr]
  have e4 : u.drives = s.drives := by rw [← hr]
  have e5 : u.monitor = s.monitor := by rw [← hr]
  have e6 : u.engine = s.engine := by rw [← hr]
  have e7 : u.plans = s.plans := by rw [← hr]
  have hst : ∀ i, u.stream i = s.stream i := by simp [stream, e1]
  have hf : u.frame b.job.stream b.job.number = some f := by simpa [frame, hst] using h
  refine ⟨fun h1 h2 h3 => ?_, fun h1 h2 => ?_, fun h1 => ?_⟩
  · have hm : u.mayStart b.job.stream = true := by simp [mayStart, hst, e5, h2, h3]
    rw [tryFailed, if_neg (by omega), if_pos hm]
    refine ⟨?_, ?_, e1, e2, e3, e4, e5, hp, ho⟩
    · simp [startTry, context, setContext]
    · simp [startTry, setContext, ha]
  · have hm : ¬ u.mayStart b.job.stream = true := by rcases h2 with h2 | h2 <;> simp [mayStart, hst, e5, h2]
    rw [tryFailed, if_neg (by omega), if_neg hm, returnToDamaged]
    have hf2 := frame_modStripe (s := u.freeContext c) (fun st => { st with state := .damaged }) (j := b.job) hf hs
    have hQ := enqueueFrame_queued _ _ _ _ f hf2 rfl (frame_number h)
    rw [enqueueFrame_eq] at hQ ⊢
    refine ⟨?_, hQ, hf2, ha, e2, e3, e4, e5⟩
    simp [context, modStripe, modFrame, freeContext, setContext, modStream]
  · rw [tryFailed, if_pos h1]
    have S := Signals.occur u .refetchExhausted (streamId b.job.stream) b.job.number
    refine ⟨_, ⟨u, e5, ho, rfl, rfl⟩, by rw [S.asks, ha], S.store.trans e2, S.dir.trans e3, S.plans.trans e7,
      S.engine.trans e6, S.drives.trans e4, fun i => ⟨?_, ?_, ?_, ?_⟩, ?_⟩
    · rw [S.window, hst]
    · rw [S.config, hst]
    · rw [S.counters, hst]
    · rw [state_occur, hst]
    · exact stepFailed_stepFails _ c b f st (by rw [S.frame, hf]) hs

/-- The context that awaits a resend waits on that stripe (R80). -/
theorem context_of_awaiting {s : State} {j : Job} {c : Fin 4} {b : Busy} (h : s.awaiting j = some (c, b)) :
    s.context c = some b ∧ b.job = j := by
  obtain ⟨c', h1, h2⟩ := Option.bind_eq_some_iff.1 h
  have hx := List.find?_some h1
  obtain ⟨b', hc, he⟩ := Option.map_eq_some_iff.1 h2
  cases he
  rw [hc] at hx
  exact ⟨hc, by simpa using (Bool.and_eq_true_iff.1 hx).1⟩

/-! ### Store reads (R28, R29, R49) -/

/-- An invalidation changes the directory and the store alone. -/
theorem invalidate_eq (s : State) (test : DirEntry → Bool) :
    s.invalidate test = { s with dir := (s.invalidate test).dir, store := (s.invalidate test).store } := by
  have hd : ∀ (s : State) (k : Fin 256) (o : Option DirEntry) (y : DirSet),
      ∃ d w, dropWay test s k o y = { s with dir := d, store := w } := by
    intro s k o y
    unfold dropWay
    split
    · split
      · exact ⟨_, _, rfl⟩
      · exact ⟨s.dir, s.store, rfl⟩
    · exact ⟨s.dir, s.store, rfl⟩
  have key : ∀ (l : List (Fin 256)) (s : State),
      ∃ d w, l.foldl (invalidateSet test) s = { s with dir := d, store := w } := by
    intro l
    induction l with
    | nil => exact fun s => ⟨s.dir, s.store, rfl⟩
    | cons k l ih =>
      intro s
      rw [List.foldl_cons]
      obtain ⟨d, w, h⟩ : ∃ d w, invalidateSet test s k = { s with dir := d, store := w } := by
        unfold invalidateSet
        dsimp only
        obtain ⟨d, w, h⟩ := hd s k (s.dir.row k).way0 { s.dir.row k with way0 := none }
        rw [h]
        exact hd _ _ _ _
      rw [h]
      exact ih _
  have h : ∃ d w, s.invalidate test = { s with dir := d, store := w } := key _ s
  obtain ⟨d, w, h⟩ := h
  rw [h]

/-- Beside the store and the directory a read only raises. -/
theorem readSlot_signals (s : State) (p : ReadPurpose) (x : Slot) (size : Nat) :
    Signals { s with dir := (s.readSlot p x size).2.2.dir, store := (s.readSlot p x size).2.2.store }
      (s.readSlot p x size).2.2 := by
  unfold readSlot noteRead
  generalize s.store.judge x size = r
  cases r with
  | clean => exact Signals.refl _
  | corrected =>
    have S := Signals.raise (s.modStore (·.log x p .corrected)) .storeCorrected 0 (BitVec.ofNat 32 x.val)
    dsimp only
    rw [S.dir, S.store]
    exact S
  | flawed =>
    have S := Signals.raise (s.modStore (·.log x p .flawed)) .storeUncorrectable 0 (BitVec.ofNat 32 x.val)
    obtain ⟨d, w, h⟩ : ∃ d w, ((s.modStore (·.log x p .flawed)).raise .storeUncorrectable 0
        (BitVec.ofNat 32 x.val)).invalidate (fun e => e.slot == x) =
          { (s.modStore (·.log x p .flawed)).raise .storeUncorrectable 0 (BitVec.ofNat 32 x.val) with
            dir := d, store := w } := ⟨_, _, invalidate_eq _ _⟩
    dsimp only [reportFlaw]
    rw [h]
    refine ⟨?_, fun i => S.stream i⟩
    have := S.rest
    generalize (s.modStore (·.log x p .flawed)).raise .storeUncorrectable 0 (BitVec.ofNat 32 x.val) = q at *
    rw [this]
    rfl

end Sys2Proof.Machine.State
end

