-- ==== Sys2Proof/Laws/Drives.lean ====
section
/-! SUPPORT. What the Drive Table's operations make of a drive: leaving service and spans (R141, R146, R147), silence (R127),
conditions and news (R120, R139, R140); and what DRIVE_STATUS and READ_PLAN report (R56, R152). -/

namespace Sys2Proof.Machine.State

/-! ### The fault summary after occurrences and raises (R172, R177) -/

theorem fault_enterHalted (s : State) (k : FaultKind) : s.enterHalted.fault k = s.fault k := rfl

theorem fault_pushNotice (s : State) (n : Notice) (k : FaultKind) : (s.pushNotice n).fault k = s.fault k := by
  unfold pushNotice
  split <;> rfl

/-- A notice offered changes the entry of NOTICE_OVERFLOW alone (R177). -/
theorem fault_offerNotice (s : State) (n : Notice) {k : FaultKind} (h : k ≠ .noticeOverflow) :
    (s.offerNotice n).fault k = s.fault k := by
  have e : (s.noteFault .noticeOverflow 0).fault k = s.fault k := fault_setFault_other s _ (Ne.symm h)
  unfold offerNotice
  split
  · exact fault_pushNotice _ _ _
  · unfold raiseOverflow
    dsimp only
    split
    · exact e
    · exact (fault_pushNotice _ _ _).trans e
    · exact (fault_pushNotice _ _ _).trans e
    · exact (fault_enterHalted _ _).trans ((fault_pushNotice _ _ _).trans e)

theorem fault_judgeFlow (s : State) (i : StreamIx) (k : FaultKind) : (s.judgeFlow i).fault k = s.fault k := by
  unfold judgeFlow
  split <;> rfl

theorem fault_fireWatch (s : State) (w : Fin 16) (b : Booking) (c : WatchCondition) (n : Nat) (d : Word32)
    {k : FaultKind} (h : k ≠ .noticeOverflow) : (s.fireWatch w b c n d).fault k = s.fault k := by
  unfold fireWatch
  dsimp only
  split
  · split
    · exact (fault_judgeFlow _ _ _).trans (fault_offerNotice s _ h)
    · exact fault_offerNotice s _ h
  · exact fault_offerNotice s _ h

/-- An occurrence changes no entry but that of NOTICE_OVERFLOW (R168, R177). -/
theorem fault_occur (s : State) (c : WatchCondition) (n : Nat) (d : Word32) {k : FaultKind} (h : k ≠ .noticeOverflow) :
    (s.occur c n d).fault k = s.fault k := by
  unfold occur
  generalize allWatches = l
  induction l generalizing s with
  | nil => rfl
  | cons w l ih =>
    rw [List.foldl_cons, ih]
    split
    · split
      · exact fault_fireWatch _ _ _ _ _ _ h
      · rfl
    · rfl

theorem fault_stopStream (s : State) (i : StreamIx) (k : FaultKind) : (s.stopStream i).fault k = s.fault k := by
  unfold stopStream
  split
  · exact fault_judgeFlow _ _ _
  · rfl

theorem bumpCount_eq (n : Word16) : Store.bumpCount n = if n = 65535#16 then 65535#16 else n + 1 := by
  unfold Store.bumpCount
  split
  · assumption
  · rfl

/-- A raise updates the entry of its kind (R172). -/
theorem fault_raise_same (s : State) (k : FaultKind) (scope : Nat) (d : Word32) (h : k ≠ .noticeOverflow) :
    (s.raise k scope d).fault k = { s.fault k with
      pending := true
      count := Store.bumpCount (s.fault k).count
      firstScope := if (s.fault k).pending then (s.fault k).firstScope else some scope } := by
  have e := fault_setFault_same s k { s.fault k with
    pending := true
    count := Store.bumpCount (s.fault k).count
    firstScope := if (s.fault k).pending then (s.fault k).firstScope else some scope }
  unfold raise
  dsimp only
  split
  · exact e
  · exact (fault_offerNotice _ _ h).trans e
  · split
    · exact (fault_stopStream _ _ _).trans ((fault_offerNotice _ _ h).trans e)
    · exact (fault_offerNotice _ _ h).trans e
  · exact (fault_enterHalted _ _).trans ((fault_offerNotice _ _ h).trans e)

/-! ### Moves and spans (R146, R147) -/

/-- Nothing but drive records has changed. -/
structure LinkKept (s t : State) : Prop where
  monitor : t.monitor = s.monitor
  ret : t.ret = s.ret
  dir : t.dir = s.dir
  burn : t.burn = s.burn

/-- A drive record after moves from its queue: only the queue and what is kept for its head may change. -/
structure HeadKept (d e : DriveRec) : Prop where
  eq : e = { d with
    queue := e.queue, committed := e.committed, transfer := e.transfer, carry := e.carry
    abandonOwed := e.abandonOwed, withdrawn := e.withdrawn }
  transfer : d.transfer = .waitingSpace → e.transfer = .waitingSpace
  abandon : d.abandonOwed = false → e.abandonOwed = false
  withdrawn : d.withdrawn = false → e.withdrawn = false
  carry : d.carry = [] → e.carry = []

/-- The frames that move are the longest prefix that fits (R146 step 2); no other drive's record changes. -/
theorem moveFrames_prefix (a b : DriveIx) (hab : a ≠ b) : ∀ (n : Nat) (s : State), 4 ≤ (s.drive b).queue.length + n →
    ((s.drive a).queue = [] ∨ ((s.drive a).abandonOwed = false ∧ (s.drive a).withdrawn = false)) →
    ∃ k, k ≤ (s.drive a).queue.length ∧
      ((moveFrames n a b s).drive a).queue = (s.drive a).queue.drop k ∧
      ((moveFrames n a b s).drive b).queue = (s.drive b).queue ++ (s.drive a).queue.take k ∧
      ((moveFrames n a b s).drive a).committed =
        (s.drive a).committed - (((s.drive a).queue.take k).map (·.need)).sum ∧
      ((moveFrames n a b s).drive b).committed =
        (s.drive b).committed + (((s.drive a).queue.take k).map (·.need)).sum ∧
      (∀ m f, m < k → (s.drive a).queue[m]? = some f → s.MayJoin b (s.drive a).queue m f) ∧
      (∀ f, (s.drive a).queue[k]? = some f → ¬ s.MayJoin b (s.drive a).queue k f) ∧
      ((moveFrames n a b s).drive b).binding = (s.drive b).binding ∧
      ∀ x, x ≠ a → x ≠ b → (moveFrames n a b s).drive x = s.drive x := by
  intro n
  induction n with
  | zero =>
    intro s h _
    refine ⟨0, by simp, by simp [moveFrames], by simp [moveFrames], by simp [moveFrames], by simp [moveFrames],
      by simp, fun f _ g => ?_, rfl, fun _ _ _ => rfl⟩
    have := g.1
    simp at this
    omega
  | succ n ih =>
    intro s h hf
    unfold moveFrames
    split
    · rename_i hq
      have hq : (s.drive a).queue = [] := by simpa using hq
      exact ⟨0, by simp [hq], by simp [hq], by simp [hq], by simp [hq], by simp [hq], by simp, by simp [hq], rfl,
        fun _ _ _ => rfl⟩
    · rename_i f hq
      obtain ⟨rest, hr⟩ : ∃ rest, (s.drive a).queue = f :: rest := by
        cases hx : (s.drive a).queue with
        | nil => simp [hx] at hq
        | cons y l => simp [hx] at hq; exact ⟨l, by rw [hq]⟩
      have hflags : (s.drive a).abandonOwed = false ∧ (s.drive a).withdrawn = false :=
        hf.resolve_left (by simp [hr])
      have hm : s.mayMove a b f = true ↔ s.MayJoin b (s.drive a).queue 0 f := by
        unfold mayMove MayJoin
        simp only [hflags, List.take_zero, List.append_nil, Config.burnQueueDepth, List.map_nil, List.sum_nil]
        cases hl : (s.drive b).queue.getLast? <;> simp [and_assoc]
      split
      · rename_i hmv
        have ea : ((s.dropHead a).appendFrame b f).drive a = { s.drive a with
            queue := rest, committed := (s.drive a).committed - f.need
            transfer := .waitingSpace, carry := [], abandonOwed := false, withdrawn := false } := by
          rw [appendFrame, drive_modDrive_other _ _ (Ne.symm hab)]
          simp [dropHead, hr]
        have eb : ((s.dropHead a).appendFrame b f).drive b = { s.drive b with
            queue := (s.drive b).queue ++ [f], committed := (s.drive b).committed + f.need
            transfer := if (s.drive b).queue.isEmpty then .waitingSpace else (s.drive b).transfer
            carry := if (s.drive b).queue.isEmpty then [] else (s.drive b).carry } := by
          rw [appendFrame, drive_modDrive_same, dropHead, drive_modDrive_other _ _ hab]
        have ex : ∀ x, x ≠ a → x ≠ b → ((s.dropHead a).appendFrame b f).drive x = s.drive x := fun x h1 h2 => by
          rw [appendFrame, drive_modDrive_other _ _ (Ne.symm h2), dropHead, drive_modDrive_other _ _ (Ne.symm h1)]
        generalize (s.dropHead a).appendFrame b f = y at *
        obtain ⟨k, k1, k2, k3, k4, k5, k6, k7, k8, k9⟩ := ih y (by rw [eb]; simp; omega) (by rw [ea]; simp)
        have hroom : f.need ≤ (s.drive b).uncommitted := by simpa using (hm.1 hmv).2.1
        have hu : (y.drive b).uncommitted = (s.drive b).uncommitted - f.need := by
          rw [eb]
          simp only [DriveRec.uncommitted]
          cases (s.drive b).remaining <;> simp [Nat.sub_sub]
        have hj : ∀ m g, y.MayJoin b (y.drive a).queue m g ↔ s.MayJoin b (s.drive a).queue (m + 1) g := by
          intro m g
          unfold MayJoin
          rw [hu, hr, ea, eb]
          simp only [List.take_succ_cons, List.map_cons, List.sum_cons, List.append_assoc, List.singleton_append]
          exact and_congr_right fun _ => and_congr_left fun _ => by omega
        have hqa : (y.drive a).queue = rest := by rw [ea]
        have hqb : (y.drive b).queue = (s.drive b).queue ++ [f] := by rw [eb]
        have hca : (y.drive a).committed = (s.drive a).committed - f.need := by rw [ea]
        have hcb : (y.drive b).committed = (s.drive b).committed + f.need := by rw [eb]
        have hbb : (y.drive b).binding = (s.drive b).binding := by rw [eb]
        rw [hqa] at k1 k2 k3 k4 k5
        refine ⟨k + 1, by simp [hr]; omega, by rw [k2]; simp [hr], by rw [k3, hqb]; simp [hr], ?_, ?_,
          fun m g hm' hg => ?_, fun g hg => ?_, k8.trans hbb, fun x h1 h2 => (k9 x h1 h2).trans (ex x h1 h2)⟩
        · rw [k4, hr, hca]
          simp
          omega
        · rw [k5, hr, hcb]
          simp
          omega
        · cases m with
          | zero =>
            rw [hr] at hg
            cases hg
            exact hm.1 hmv
          | succ m =>
            rw [hr] at hg
            exact (hj m g).1 (k6 m g (by omega) (by rw [hqa]; exact hg))
        · rw [hr] at hg
          exact fun e => k7 g (by rw [hqa]; exact hg) ((hj k g).2 e)
      · rename_i hmv
        refine ⟨0, by simp, by simp, by simp, by simp, by simp, by simp, fun g hg => ?_, rfl, fun _ _ _ => rfl⟩
        rw [hr] at hg
        cases hg
        exact fun e => hmv (hm.2 e)

theorem moveFrames_moved (n : Nat) (a b : DriveIx) (hab : a ≠ b) : ∀ s : State,
    LinkKept s (moveFrames n a b s) ∧ HeadKept (s.drive a) ((moveFrames n a b s).drive a) := by
  induction n with
  | zero => intro s; exact ⟨⟨rfl, rfl, rfl, rfl⟩, ⟨rfl, id, id, id, id⟩⟩
  | succ n ih =>
    intro s
    unfold moveFrames
    split
    · exact ⟨⟨rfl, rfl, rfl, rfl⟩, ⟨rfl, id, id, id, id⟩⟩
    · rename_i f _
      split
      · obtain ⟨h1, h2⟩ := ih ((s.dropHead a).appendFrame b f)
        have e : ((s.dropHead a).appendFrame b f).drive a = { s.drive a with
          queue := (s.drive a).queue.tail
          committed := (s.drive a).committed - ((s.drive a).queue.head?.map (·.need)).getD 0
          transfer := .waitingSpace, carry := [], abandonOwed := false, withdrawn := false } := by
          rw [appendFrame, drive_modDrive_other _ _ (Ne.symm hab)]
          simp [dropHead]
        refine ⟨⟨h1.monitor, h1.ret, h1.dir, h1.burn⟩, ?_⟩
        rw [e] at h2
        refine ⟨h2.eq, fun _ => h2.transfer rfl, fun _ => h2.abandon rfl, fun _ => h2.withdrawn rfl, fun _ => h2.carry rfl⟩
      · exact ⟨⟨rfl, rfl, rfl, rfl⟩, ⟨rfl, id, id, id, id⟩⟩

theorem standby_binding {s : State} {i : StreamIx} {b : DriveIx} (h : s.standbyOf i = some b) :
    (s.drive b).binding = .standby i := by
  simpa using List.find?_some h

theorem standbyOf_congr {s t : State} (h : ∀ b, (t.drive b).binding = (s.drive b).binding) (i : StreamIx) :
    t.standbyOf i = s.standbyOf i := by
  simp [standbyOf, h]

/-- A drive has a READY STANDBY to span to (R146). -/
def SpansFrom (s : State) (d : DriveRec) : Prop :=
  ∃ i b, d.binding = .active i ∧ s.standbyOf i = some b ∧ (s.drive b).condition = .ready

/-- Without one it stays as it is, its frames waiting (R147). -/
theorem leaveService_stays (s : State) (a : DriveIx) (h : ∀ i b, (s.drive a).binding = .active i →
    s.standbyOf i = some b → (s.drive b).condition ≠ .ready) : s.leaveService a = s := by
  unfold leaveService
  split
  · rename_i i hb
    split
    · rename_i b hs
      rw [if_neg (h i b hb hs)]
    · rfl
  · rfl
  · rfl

/-- With one the roles are exchanged, SPAN occurs, and frames move (R146): what the leaving drive then holds. -/
theorem leaveService_spans (s : State) (a b : DriveIx) (i : StreamIx) (h : (s.drive a).binding = .active i)
    (hs : s.standbyOf i = some b) (hr : (s.drive b).condition = .ready) :
    ∃ y : State, y.monitor = s.monitor ∧ y.ret = s.ret ∧
      (s.leaveService a).monitor = (y.occur .span (streamId i) (BitVec.ofNat 32 (driveAddress b))).monitor ∧
      (s.leaveService a).ret = (y.occur .span (streamId i) (BitVec.ofNat 32 (driveAddress b))).ret ∧
      (s.leaveService a).dir = s.dir ∧ (s.leaveService a).burn = s.burn ∧
      HeadKept { s.drive a with binding := .standby i } ((s.leaveService a).drive a) ∧
      (s.leaveService a).ret.replies = s.ret.replies := by
  have hab : a ≠ b := by
    rintro rfl
    have := standby_binding hs
    rw [h] at this
    exact absurd this (by simp)
  have e : s.leaveService a =
      moveFrames 4 a b ((s.swapRoles i a b).occur .span (streamId i) (BitVec.ofNat 32 (driveAddress b))) := by
    unfold leaveService
    simp [h, hs, hr, Config.burnQueueDepth]
  have S := Signals.occur (s.swapRoles i a b) .span (streamId i) (BitVec.ofNat 32 (driveAddress b))
  obtain ⟨h1, h2⟩ := moveFrames_moved 4 a b hab
    ((s.swapRoles i a b).occur .span (streamId i) (BitVec.ofNat 32 (driveAddress b)))
  rw [e]
  refine ⟨s.swapRoles i a b, rfl, rfl, h1.monitor, h1.ret, h1.dir.trans (S.dir.trans rfl),
    h1.burn.trans (S.burn.trans rfl), ?_, ?_⟩
  · rw [S.drive] at h2
    have : (s.swapRoles i a b).drive a = { s.drive a with binding := .standby i } := by
      rw [swapRoles, drive_modDrive_same, drive_modDrive_other _ _ (Ne.symm hab)]
    rw [this] at h2
    exact h2
  · rw [h1.ret, S.replies]
    rfl

/-- With one, when its head is owed no ABANDON, the prefix of its queue that fits moves (R146). -/
theorem leaveService_spanned (s : State) (a b : DriveIx) (i : StreamIx) (h : (s.drive a).binding = .active i)
    (hs : s.standbyOf i = some b) (hr : (s.drive b).condition = .ready)
    (hf : (s.drive a).queue = [] ∨ ((s.drive a).abandonOwed = false ∧ (s.drive a).withdrawn = false)) :
    s.Spanned (s.leaveService a) i a b (s.drive a).queue (s.drive a).committed ∧
      ∀ x, x ≠ a → x ≠ b → (s.leaveService a).drive x = s.drive x := by
  have hab : a ≠ b := by
    rintro rfl
    have := standby_binding hs
    rw [h] at this
    exact absurd this (by simp)
  have e : s.leaveService a =
      moveFrames 4 a b ((s.swapRoles i a b).occur .span (streamId i) (BitVec.ofNat 32 (driveAddress b))) := by
    unfold leaveService
    simp [h, hs, hr, Config.burnQueueDepth]
  have S := Signals.occur (s.swapRoles i a b) .span (streamId i) (BitVec.ofNat 32 (driveAddress b))
  rw [e]
  generalize (s.swapRoles i a b).occur .span (streamId i) (BitVec.ofNat 32 (driveAddress b)) = y at *
  have ya : y.drive a = { s.drive a with binding := .standby i } := by
    rw [S.drive, swapRoles, drive_modDrive_same, drive_modDrive_other _ _ (Ne.symm hab)]
  have yb : y.drive b = { s.drive b with binding := .active i } := by
    rw [S.drive, swapRoles, drive_modDrive_other _ _ hab, drive_modDrive_same]
  have yx : ∀ x, x ≠ a → x ≠ b → y.drive x = s.drive x := fun x h1 h2 => by
    rw [S.drive, swapRoles, drive_modDrive_other _ _ (Ne.symm h1), drive_modDrive_other _ _ (Ne.symm h2)]
  have hj : ∀ q m f, y.MayJoin b q m f ↔ s.MayJoin b q m f := fun q m f => by
    unfold MayJoin
    rw [yb]
    rfl
  obtain ⟨k, k1, k2, k3, k4, k5, k6, k7, k8, k9⟩ := moveFrames_prefix a b hab 4 y (by omega) (by rw [ya]; exact hf)
  have ha := (moveFrames_moved 4 a b hab y).2.eq
  simp only [ya, yb, hj] at k1 k2 k3 k4 k5 k6 k7 k8
  refine ⟨⟨?_, k8, k, k1, k2, k3, k4, k5, k6, k7⟩, fun x h1 h2 => (k9 x h1 h2).trans (yx x h1 h2)⟩
  rw [ha, ya]

/-- What the tests of a move see is the record of the drive the frames join. -/
theorem spanned_congr {s u t : State} {i : StreamIx} {a b : DriveIx} {q : List FrameRec} {n : Nat}
    (h : u.drive b = s.drive b) (H : u.Spanned t i a b q n) : s.Spanned t i a b q n := by
  unfold Spanned MayJoin at *
  rw [h] at H
  exact H

/-! ### Conditions and news (R120, R127, R139, R140) -/

/-- A frame owed or to be owed an ABANDON is discarded (R127, R133): what the drive then holds. -/
theorem discardOwed_discarded (s : State) (a : DriveIx) (d : DriveRec) (hd : s.drive a = d) :
    ∃ w, s.discardOwed a = { s with store := w, drives := (s.discardOwed a).drives } ∧
      (∀ b, b ≠ a → (s.discardOwed a).drive b = s.drive b) ∧ HeadKept d ((s.discardOwed a).drive a) ∧
      ((s.discardOwed a).drive a).queue =
        (if d.withdrawn = true ∨ d.abandonOwed = true then d.queue.tail else d.queue) ∧
      ((s.discardOwed a).drive a).committed = (if d.withdrawn = true ∨ d.abandonOwed = true then
        d.committed - (d.queue.head?.map (·.need)).getD 0 else d.committed) ∧
      (d.queue ≠ [] ∨ (d.withdrawn = false ∧ d.abandonOwed = false) →
        ((s.discardOwed a).drive a).abandonOwed = false ∧ ((s.discardOwed a).drive a).withdrawn = false) := by
  subst hd
  unfold discardOwed
  by_cases h : ((s.drive a).abandonOwed || (s.drive a).withdrawn) = true
  · rw [if_pos h]
    unfold discardHead
    split
    · rename_i f hf
      refine ⟨_, by rw [returnRecord, releaseAll_eq]; rfl, ?_, ?_, ?_, ?_, ?_⟩
      · intro b hb
        rw [returnRecord, releaseAll_eq]
        show (s.dropHead a).drive b = _
        exact drive_modDrive_other _ _ (Ne.symm hb)
      all_goals
        have e : ((s.dropHead a).returnRecord f).drive a = { s.drive a with
            queue := (s.drive a).queue.tail
            committed := (s.drive a).committed - ((s.drive a).queue.head?.map (·.need)).getD 0
            transfer := .waitingSpace, carry := [], abandonOwed := false, withdrawn := false } := by
          rw [returnRecord, releaseAll_eq]
          show (s.dropHead a).drive a = _
          simp [dropHead]
        rw [e]
      · exact ⟨rfl, fun _ => rfl, fun _ => rfl, fun _ => rfl, fun _ => rfl⟩
      · rw [if_pos (by simpa [or_comm] using h)]
      · rw [if_pos (by simpa [or_comm] using h)]
      · simp
    · rename_i hf
      have hq : (s.drive a).queue = [] := by simpa using hf
      refine ⟨s.store, rfl, fun _ _ => rfl, ⟨rfl, id, id, id, id⟩, by simp [hq], by simp [hq], ?_⟩
      rintro (h' | h')
      · exact absurd hq h'
      · simp [h'.1, h'.2]
  · rw [if_neg h]
    have h2 : (s.drive a).abandonOwed = false ∧ (s.drive a).withdrawn = false := by simpa using h
    exact ⟨s.store, rfl, fun _ _ => rfl, ⟨rfl, id, id, id, id⟩, by simp [h2.1, h2.2], by simp [h2.1, h2.2],
      fun _ => h2⟩

/-- The end of a relay (R134). -/
theorem endRelay_ended (s : State) (a : DriveIx) (x : Answer) :
    ∃ rp, s.endRelay a x = { s with drives := (s.endRelay a x).drives, ret := { s.ret with replies := rp } } ∧
      (s.endRelay a x).drive a = { s.drive a with relay := .none } ∧
      (∀ b, b ≠ a → (s.endRelay a x).drive b = s.drive b) ∧
      (∀ tag, ((s.drive a).relay = .outstanding tag ∨ ∃ bs, (s.drive a).relay = .pending tag bs) →
        rp = s.ret.replies ++ [{ immediate := false, reply := { tag := tag, answer := x } }]) := by
  unfold endRelay
  split
  · rename_i h
    refine ⟨_, rfl, ?_, fun _ _ => rfl, by simp [h]⟩
    cases hx : s.drive a
    simp_all
  · rename_i tag bs h
    refine ⟨_, rfl, drive_modDrive_same s a (fun d => { d with relay := .none }),
      fun b hb => drive_modDrive_other s (fun d => { d with relay := .none }) (Ne.symm hb), ?_⟩
    rintro t (h' | ⟨b, h'⟩)
    · simp [h] at h'
    · rw [h] at h'
      cases h'
      rfl
  · rename_i tag h
    refine ⟨_, rfl, drive_modDrive_same s a (fun d => { d with relay := .none }),
      fun b hb => drive_modDrive_other s (fun d => { d with relay := .none }) (Ne.symm hb), ?_⟩
    rintro t (h' | ⟨b, h'⟩)
    · rw [h] at h'
      cases h'
      rfl
    · simp [h] at h'

/-- A drive's third miss in a row (R127, R141). -/
theorem silent_wentSilent (s : State) (a : DriveIx) (d : DriveRec) (m : Nat) (hd : s.drive a = d) :
    s.WentSilent ((s.setDrive a { d with misses := m, missCount := d.missCount + 1 }).silent a) a d ∧
      ((s.setDrive a { d with misses := m, missCount := d.missCount + 1 }).silent a).burn = s.burn := by
  generalize he : ({ d with misses := m, missCount := d.missCount + 1 } : DriveRec) = d'
  unfold silent
  dsimp only
  generalize hx : (s.setDrive a d').goAbsent a = x
  have x1 : x.drive a = { d' with condition := .absent, remaining := none, misses := 0 } := by
    rw [← hx]
    simp [goAbsent]
  have x2 : ∀ b, b ≠ a → x.drive b = s.drive b := fun b hb => by
    rw [← hx, goAbsent, drive_modDrive_other _ _ (Ne.symm hb), drive_setDrive_other _ _ (Ne.symm hb)]
  have x3 : x = { s with drives := x.drives } := by
    rw [← hx]
    rfl
  have xm : x.monitor = s.monitor := by rw [x3]
  generalize hy : (x.raise .driveSilent (driveAddress a) 3).occur .driveChange (driveAddress a) 0 = y
  have S : Signals x y := hy ▸ (Signals.raise _ _ _ _).trans (Signals.occur _ _ _ _)
  have hfault : y.fault .driveSilent = { s.fault .driveSilent with
      pending := true
      count := if (s.fault .driveSilent).count = 65535#16 then 65535#16 else (s.fault .driveSilent).count + 1
      firstScope := if (s.fault .driveSilent).pending = true then (s.fault .driveSilent).firstScope
        else some (driveAddress a) } := by
    have hf : x.fault .driveSilent = s.fault .driveSilent := congrArg (fun m : Monitor => m.faults[FaultKind.driveSilent.ix]) xm
    rw [← hy, fault_occur _ _ _ _ (by decide), fault_raise_same _ _ _ _ (by decide), hf, bumpCount_eq]
  generalize hz : (y.headWaiting a).endAsks a = z
  have z1 : z.drive a = { d' with
      condition := .absent, remaining := none, misses := 0, transfer := .waitingSpace, carry := []
      statusRequested := false, releasePending := false } := by
    rw [← hz]
    simp [endAsks, headWaiting, S.drive, x1]
  have z2 : ∀ b, b ≠ a → z.drive b = s.drive b := fun b hb => by
    rw [← hz, endAsks, drive_modDrive_other _ _ (Ne.symm hb), headWaiting, drive_modDrive_other _ _ (Ne.symm hb),
      S.drive, x2 b hb]
  have zr : z = { y with drives := z.drives } := by
    rw [← hz]
    rfl
  obtain ⟨w, v1, v2, v3, v4, v6, v5⟩ := discardOwed_discarded z a _ z1
  generalize z.discardOwed a = v at *
  obtain ⟨rp, q1, q2, q3, q4⟩ := endRelay_ended v a (.refused .noAnswer)
  generalize v.endRelay a (.refused .noAnswer) = q at *
  have hother : ∀ b, b ≠ a → q.drive b = s.drive b := fun b hb => by rw [q3 b hb, v2 b hb, z2 b hb]
  have hv3 := v3.eq
  have hqa : q.drive a = { d' with
      condition := .absent, remaining := none, misses := 0, carry := (v.drive a).carry, statusRequested := false
      releasePending := false, queue := (v.drive a).queue, committed := (v.drive a).committed
      transfer := .waitingSpace, abandonOwed := (v.drive a).abandonOwed, withdrawn := (v.drive a).withdrawn
      relay := .none } := by
    rw [q2]
    have := v3.transfer rfl
    conv_lhs => rw [hv3]
    simp [this]
  have hbind : ∀ b, (q.drive b).binding = (s.drive b).binding := fun b => by
    by_cases e : b = a
    · subst e
      rw [hqa, hd, ← he]
    · rw [hother b e]
  have hqm : q.monitor = y.monitor := by rw [q1, v1, zr]
  have hqo : q.ret.outbox = y.ret.outbox := by rw [q1, v1, zr]
  have hqb : q.burn = s.burn := by
    rw [q1, v1, zr]
    exact S.burn.trans (by rw [x3])
  have hqd : q.dir = s.dir := by
    rw [q1, v1, zr]
    exact S.dir.trans (by rw [x3])
  have hrep : ∀ tag, (d.relay = .outstanding tag ∨ ∃ bs, d.relay = .pending tag bs) →
      q.ret.replies = s.ret.replies ++
        [{ immediate := false, reply := { tag := tag, answer := .refused .noAnswer } }] := fun tag h => by
    have hr : (v.drive a).relay = d.relay := by rw [hv3, ← he]
    have hv : v.ret.replies = s.ret.replies := by
      rw [v1, zr]
      exact S.replies.trans (by rw [x3])
    rw [q1]
    show rp = _
    rw [q4 tag (by rw [hr]; exact h), hv]
  have hmiss : d'.missCount = d.missCount + 1 := by rw [← he]
  have hqbd : (q.drive a).binding = d.binding := by rw [hbind, hd]
  have hab : ∀ i b, d.binding = .active i → s.standbyOf i = some b → b ≠ a := by
    rintro i b h1 h2 rfl
    have := standby_binding h2
    rw [hd, h1] at this
    simp at this
  have howed : d.queue ≠ [] ∨ (d.withdrawn = false ∧ d.abandonOwed = false) →
      (v.drive a).abandonOwed = false ∧ (v.drive a).withdrawn = false := by
    have := v5
    rw [← he] at this
    exact this
  have hqq : (v.drive a).queue = (if d.withdrawn = true ∨ d.abandonOwed = true then d.queue.tail else d.queue) := by
    have := v4
    rw [← he] at this
    exact this
  have hqc : (v.drive a).committed = (if d.withdrawn = true ∨ d.abandonOwed = true then
      d.committed - (d.queue.head?.map (·.need)).getD 0 else d.committed) := by
    have := v6
    rw [← he] at this
    exact this
  have hleft : ∀ (l : List FrameRec) (n : Nat),
      (d.withdrawn = true ∨ d.abandonOwed = true → l = d.queue.tail ∧
        n = d.committed - (d.queue.head?.map (·.need)).getD 0) →
      (d.withdrawn = false → d.abandonOwed = false → l = d.queue ∧ n = d.committed) →
      l = (v.drive a).queue ∧ n = (v.drive a).committed := by
    intro l n h1 h2
    rw [hqq, hqc]
    by_cases h : d.withdrawn = true ∨ d.abandonOwed = true
    · rw [if_pos h, if_pos h]
      exact h1 h
    · rw [if_neg h, if_neg h]
      exact h2 (by simpa using fun e => h (.inl e)) (by simpa using fun e => h (.inr e))
  have hflags : (q.drive a).queue = [] ∨ ((q.drive a).abandonOwed = false ∧ (q.drive a).withdrawn = false) := by
    rw [hqa]
    by_cases h : d.queue = []
    · left
      show (v.drive a).queue = []
      rw [hqq, h]
      simp
    · exact .inr (howed (.inl h))
  by_cases hc : s.SpansFrom d
  · obtain ⟨i, b, c1, c2, c3⟩ := hc
    obtain ⟨p, p1, p2, p3, p4, p5, p6, p7, p8⟩ := leaveService_spans q a b i (hqbd.trans c1)
      ((standbyOf_congr hbind i).trans c2) (by rw [hother b (hab i b c1 c2)]; exact c3)
    have E := p7.eq
    rw [hqa] at E p7
    refine ⟨⟨by rw [E], by rw [E], by rw [E], by rw [E]; exact hmiss, by rw [E], by rw [E], by rw [E],
      p7.transfer rfl, fun h => ⟨p7.abandon (howed h).1, p7.withdrawn (howed h).2⟩, ?_, ?_,
      fun l n hl hn => ⟨fun h => absurd c3 (h i b c1 c2), fun j b' h1 h2 h3 => ?_⟩,
      fun tag h => by rw [p8, hrep tag h], p5.trans hqd⟩, p6.trans hqb⟩
    · rw [← hfault]
      show (q.leaveService a).monitor.faults[_] = _
      rw [p3]
      show (p.occur _ _ _).fault _ = _
      rw [fault_occur _ _ _ _ (by decide)]
      show p.monitor.faults[_] = _
      rw [p1, hqm]
      rfl
    · refine ⟨x, y, by rw [x3], by rw [x3], hy.symm, fun h => absurd c1 (h i), fun j h1 h2 => ?_,
        fun j b' h1 h2 _ => ?_⟩
      · rw [c1] at h1
        cases h1
        exact absurd c3 (h2 b c2)
      · rw [c1] at h1
        cases h1
        rw [c2] at h2
        cases h2
        exact ⟨p, p1.trans hqm, by rw [p2, hqo], p3, by rw [p4]⟩
    · obtain ⟨e1, e2⟩ := hleft l n hl hn
      have hb : q.drive b' = s.drive b' := hother b' (hab j b' h1 h2)
      obtain ⟨L, X⟩ := leaveService_spanned q a b' j (hqbd.trans h1) ((standbyOf_congr hbind j).trans h2)
        (by rw [hb]; exact h3) hflags
      have g1 : (q.drive a).queue = l := by rw [hqa, e1]
      have g2 : (q.drive a).committed = n := by rw [hqa, e2]
      rw [g1, g2] at L
      exact ⟨spanned_congr hb L, fun x x1 x2 => (X x x1 x2).trans (hother x x1)⟩
  · have hl : q.leaveService a = q := leaveService_stays q a fun i b h1 h2 h3 => by
      rw [hqbd] at h1
      rw [standbyOf_congr hbind] at h2
      rw [hother b (hab i b h1 h2)] at h3
      exact hc ⟨i, b, h1, h2, h3⟩
    rw [hl]
    refine ⟨⟨by rw [hqa], by rw [hqa], by rw [hqa], by rw [hqa]; exact hmiss, by rw [hqa], by rw [hqa], by rw [hqa],
      by rw [hqa], fun h => by rw [hqa]; exact howed h, ?_, ?_, fun l n hl hn => ⟨fun _ => ?_,
        fun i b h1 h2 h3 => absurd ⟨i, b, h1, h2, h3⟩ hc⟩, hrep, hqd⟩, hqb⟩
    · rw [← hfault]
      show q.monitor.faults[_] = _
      rw [hqm]
      rfl
    · exact ⟨x, y, by rw [x3], by rw [x3], hy.symm, fun _ => ⟨hqm, hqo⟩, fun _ _ _ => ⟨hqm, hqo⟩,
        fun i b h1 h2 h3 => absurd ⟨i, b, h1, h2, h3⟩ hc⟩
    · obtain ⟨e1, e2⟩ := hleft l n hl hn
      exact ⟨by rw [hqa, e1], by rw [hqa, e2], hqbd, hother⟩

theorem setDrive_setDrive (s : State) (a : DriveIx) (d e : DriveRec) :
    (s.setDrive a d).setDrive a e = s.setDrive a e := by
  simp [setDrive]

/-- What setting a drive's condition makes of its record `d` (R120, R139, R141). -/
structure ConditionSet (s t : State) (a : DriveIx) (d : DriveRec) (c : Condition) : Prop where
  burn : t.burn = s.burn
  condition : (t.drive a).condition = c
  remaining : (t.drive a).remaining = d.remaining
  kept : HeadKept { d with condition := c, binding := (t.drive a).binding, relay := (t.drive a).relay } (t.drive a)
  waiting : c ≠ .ready → c ≠ .full → (t.drive a).transfer = .waitingSpace ∧ (t.drive a).carry = []
  stays : c.outOfService = false ∨ ¬ s.SpansFrom d → t.drive a = { d with
    condition := c, relay := (t.drive a).relay, transfer := (t.drive a).transfer, carry := (t.drive a).carry }

theorem setCondition_set (s : State) (a : DriveIx) (d : DriveRec) (hd : s.drive a = d) (c : Condition) :
    ConditionSet s (s.setCondition a c) a d c := by
  unfold setCondition
  rw [hd]
  dsimp only
  generalize hx : (s.modDrive a fun d => { d with condition := c }).leftHeld a d.condition c = x
  have hX : x.drive a = { d with condition := c, relay := (x.drive a).relay } ∧ x.burn = s.burn ∧
      ∀ b, b ≠ a → x.drive b = s.drive b := by
    rw [← hx]
    unfold leftHeld
    split
    · obtain ⟨rp, q1, q2, q3, -⟩ := endRelay_ended (s.modDrive a fun d => { d with condition := c }) a
        (.refused .noAnswer)
      refine ⟨?_, by rw [q1]; rfl, fun b hb => by rw [q3 b hb]; exact drive_modDrive_other _ _ (Ne.symm hb)⟩
      rw [q2]
      simp [hd]
    · exact ⟨by simp [hd], rfl, fun b hb => drive_modDrive_other _ _ (Ne.symm hb)⟩
  obtain ⟨x1, x2, x3⟩ := hX
  have S : Signals x (x.enteredFull a d.condition c) := Signals.ite (fun _ => Signals.occur _ _ _ _)
    fun _ => Signals.refl _
  generalize x.enteredFull a d.condition c = y at *
  generalize hz : (if renewsAsk d.condition c = true then y.headWaiting a else y) = z
  have hZ : z.drive a = { d with
      condition := c, relay := (x.drive a).relay
      transfer := if renewsAsk d.condition c = true then .waitingSpace else d.transfer
      carry := if renewsAsk d.condition c = true then [] else d.carry } ∧ z.burn = s.burn ∧
      ∀ b, b ≠ a → z.drive b = s.drive b := by
    rw [← hz]
    split
    · refine ⟨?_, S.burn.trans x2,
        fun b hb => by rw [headWaiting, drive_modDrive_other _ _ (Ne.symm hb), S.drive, x3 b hb]⟩
      simp only [headWaiting, drive_modDrive_same, S.drive]
      conv_lhs => rw [x1]
    · refine ⟨?_, S.burn.trans x2, fun b hb => by rw [S.drive, x3 b hb]⟩
      rw [S.drive]
      conv_lhs => rw [x1]
  obtain ⟨z1, z2, z3⟩ := hZ
  have hw : c ≠ .ready → c ≠ .full → renewsAsk d.condition c = true := by
    intro h1 h2
    cases c <;> first | exact absurd rfl h1 | exact absurd rfl h2 | rfl
  have ht : d.transfer = .waitingSpace →
      (if renewsAsk d.condition c = true then Transfer.waitingSpace else d.transfer) = .waitingSpace := by
    intro h
    split
    · rfl
    · exact h
  have hstay : ConditionSet s z a d c := by
    refine ⟨z2, by rw [z1], by rw [z1], ⟨by rw [z1], ?_, ?_, ?_, ?_⟩, fun h1 h2 => ?_, fun _ => by rw [z1]⟩
    · rw [z1]
      exact ht
    · rw [z1]
      exact id
    · rw [z1]
      exact id
    · rw [z1]
      intro h
      dsimp only at h ⊢
      split
      · rfl
      · exact h
    · rw [z1]
      simp [hw h1 h2]
  by_cases ho : (c.outOfService && d.condition != c) = true
  · rw [if_pos ho]
    by_cases hl : s.SpansFrom d
    · obtain ⟨i, b, l1, l2, l3⟩ := hl
      have hb : ∀ b, (z.drive b).binding = (s.drive b).binding := fun b => by
        by_cases e : b = a
        · subst e
          rw [z1, hd]
        · rw [z3 b e]
      have hne : b ≠ a := by
        rintro rfl
        have := standby_binding l2
        rw [hd, l1] at this
        simp at this
      obtain ⟨p, p1, p2, p3, p4, p5, p6, p7, p8⟩ := leaveService_spans z a b i (by rw [hb, hd, l1])
        ((standbyOf_congr hb i).trans l2) (by rw [z3 b hne, l3])
      have E := p7.eq
      have W := p7.transfer
      have A := p7.abandon
      have B := p7.withdrawn
      have C := p7.carry
      rw [z1] at E W A B C
      refine ⟨p6.trans z2, by rw [E], by rw [E], ⟨by rw [E], fun h => W (ht h), A, B, ?_⟩, fun h1 h2 => ?_, ?_⟩
      · intro h
        refine C ?_
        dsimp only at h ⊢
        split
        · rfl
        · exact h
      · have h3 : (if renewsAsk d.condition c = true then Transfer.waitingSpace else d.transfer) = .waitingSpace := by
          rw [if_pos (hw h1 h2)]
        have h4 : (if renewsAsk d.condition c = true then [] else d.carry) = [] := by rw [if_pos (hw h1 h2)]
        exact ⟨W h3, C h4⟩
      · rintro (h | h)
        · simp [h] at ho
        · exact absurd ⟨i, b, l1, l2, l3⟩ h
    · rw [leaveService_stays z a]
      · exact hstay
      · intro i b h1 h2 h3
        have hb : ∀ b, (z.drive b).binding = (s.drive b).binding := fun b => by
          by_cases e : b = a
          · subst e
            rw [z1, hd]
          · rw [z3 b e]
        rw [hb, hd] at h1
        rw [standbyOf_congr hb] at h2
        have hne : b ≠ a := by
          rintro rfl
          have := standby_binding h2
          rw [hd, h1] at this
          simp at this
        rw [z3 b hne] at h3
        exact hl ⟨i, b, h1, h2, h3⟩
  · rw [if_neg ho]
    exact hstay

/-- What news makes of a drive's record (R139). -/
theorem applyNews_set (s : State) (a : DriveIx) (d : DriveRec) (hd : s.drive a = d) (n : News) :
    ConditionSet s (s.applyNews a n) a { d with remaining := n.normal.remaining d.remaining }
      (n.normal.condition d.condition d.remaining) := by
  have h := setCondition_set (s.modDrive a fun d => { d with remaining := n.normal.remaining d.remaining }) a
    { d with remaining := n.normal.remaining d.remaining } (by simp [hd]) (n.normal.condition d.condition d.remaining)
  have e : s.applyNews a n = (s.modDrive a fun d => { d with remaining := n.normal.remaining d.remaining }).setCondition a
      (n.normal.condition d.condition d.remaining) := by simp [applyNews, hd]
  rw [e]
  refine ⟨h.burn.trans rfl, h.condition, h.remaining, h.kept, h.waiting, fun hs => h.stays ?_⟩
  refine hs.imp id fun hs => ?_
  rintro ⟨i, b, h1, h2, h3⟩
  refine hs ⟨i, b, h1, ?_, ?_⟩
  · rw [← h2]
    refine (standbyOf_congr (fun b => ?_) i).symm
    by_cases e : b = a
    · subst e
      simp
    · rw [drive_modDrive_other _ _ (Ne.symm e)]
  · by_cases e : b = a
    · subst e
      simpa using h3
    · rwa [drive_modDrive_other _ _ (Ne.symm e)] at h3

/-- News NONE changes nothing at a READY or FULL drive (R139). -/
theorem applyNews_nothing (s : State) (a : DriveIx) (d : DriveRec) (hd : s.drive a = d)
    (h : d.condition = .ready ∨ d.condition = .full) : s.applyNews a .nothing = s := by
  have e : s.setDrive a d = s := by
    rw [← hd]
    simp [setDrive, drive]
  obtain ⟨c0, r0⟩ := d
  rcases h with h | h <;> dsimp only at h <;> subst h <;>
    simp [applyNews, News.normal, News.remaining, News.condition, setCondition, leftHeld, enteredFull, renewsAsk,
      Condition.stopsTransfer, Condition.outOfService, modDrive, hd, e]

/-! ### Reports (R56, R152) -/

/-- What DRIVE_STATUS reports of a drive (R152). -/
theorem driveReport_reports (s : State) (a : DriveIx) : (s.driveReport a).Reports (s.drive a) := by
  unfold driveReport DriveReport.Reports
  refine ⟨rfl, rfl, rfl, fun h => by simp [DriveRec.uncommitted, h], fun q h => by simp [DriveRec.uncommitted, h], rfl,
    by simp, fun k f h => ?_, fun h => by simp [h], fun h => by simp [h], rfl, rfl, ?_, ?_, ?_, rfl, rfl, rfl, rfl⟩
  · refine ⟨_, by simp only [List.getElem?_map, h]; rfl, rfl, rfl, fun n h => by simp [FrameRec.seq, h],
      fun n h => by simp [h], fun n h => by simp [h]⟩
  all_goals
    dsimp only
    cases (s.drive a).relay <;> simp [relayReport]

/-- The users READ_PLAN reports (R56). -/
theorem mem_planUsers (s : State) (p : Fin 16) (u : PlanUser) : u ∈ s.planUsers p ↔
    u.causes ≠ [] ∧ u.causes = s.planCauses p u.stream := by
  have hall : ∀ i, i ∈ allStreams := by decide
  simp only [planUsers, List.mem_filter, List.mem_map, Bool.not_eq_true', List.isEmpty_eq_false_iff]
  constructor
  · rintro ⟨⟨j, -, rfl⟩, hne⟩
    exact ⟨hne, rfl⟩
  · rintro ⟨h1, h2⟩
    exact ⟨⟨u.stream, hall _, by rw [← h2]⟩, h1⟩

end Sys2Proof.Machine.State
end

