-- ==== Sys2Proof/Laws/Flow.lean ====
section
/-! SUPPORT. What judging a flow state and an occurrence do to the flow states and the flow set (R19, R165, R168). -/

namespace Sys2Proof.Machine.State

/-- On the way from `s` to `t` a suspension may be put on stream `i`, and no other reason changes: the flow state comes to
fit its reasons, and PAUSED stays. -/
structure FlowRises (s t : State) (i : StreamIx) : Prop where
  judged : s.FlowJudged t i
  reason : s.pauseReason i = true → t.pauseReason i = true
  record : ∀ j, (t.stream j).occupancyReason = (s.stream j).occupancyReason

theorem FlowRises.refl (s : State) (i : StreamIx) : FlowRises s s i :=
  ⟨⟨fun _ _ => rfl, fun h => ⟨h, by simp⟩⟩, id, fun _ => rfl⟩

/-- A change that keeps the flow states, the flow set and the reasons. -/
theorem FlowRises.of_same {s t : State} (i : StreamIx) (h1 : ∀ j, (t.stream j).paused = (s.stream j).paused)
    (h2 : t.ret.flowSet = s.ret.flowSet) (h3 : t.suspensions i = s.suspensions i)
    (h4 : ∀ j, (t.stream j).occupancyReason = (s.stream j).occupancyReason) : FlowRises s t i := by
  have : t.pauseReason i = s.pauseReason i := by simp [pauseReason, h3, h4]
  exact ⟨⟨fun j _ => h1 j, fun h => ⟨by rw [h1, this, h], by simp [h1, h2]⟩⟩, by rw [this]; exact id, h4⟩

theorem FlowRises.trans {s t u : State} {i : StreamIx} (h : FlowRises s t i) (g : FlowRises t u i) :
    FlowRises s u i := by
  refine ⟨⟨fun j hj => (g.judged.1 j hj).trans (h.judged.1 j hj), fun hs => ?_⟩, fun e => g.reason (h.reason e),
    fun j => (g.record j).trans (h.record j)⟩
  obtain ⟨a1, a2⟩ := h.judged.2 hs
  obtain ⟨b1, b2⟩ := g.judged.2 a1
  refine ⟨b1, ?_⟩
  rw [b2, a2]
  by_cases e1 : (t.stream i).paused = (s.stream i).paused
  · simp [e1]
  · by_cases e2 : (u.stream i).paused = (t.stream i).paused
    · rw [if_pos e2, if_neg e1, if_neg (by rw [e2]; exact e1), e2]
    · exfalso
      have r1 := h.reason
      have r2 := g.reason
      rw [← hs, ← a1] at r1
      rw [← a1, ← b1] at r2
      cases x : (s.stream i).paused <;> cases y : (t.stream i).paused <;> cases z : (u.stream i).paused <;> simp_all

/-- A write of a flow state leaves the reasons as they were. -/
theorem pauseReason_paused (s : State) (i : StreamIx) (p q : Bool) :
    ((s.modStream i fun r => { r with paused := p }).queueFlow i q).pauseReason i = s.pauseReason i := by
  have e : ((s.modStream i fun r => { r with paused := p }).queueFlow i q).stream i = { s.stream i with paused := p } :=
    stream_modStream_same s i fun r => { r with paused := p }
  unfold pauseReason
  rw [e]
  rfl

theorem pauseReason_judgeFlow (s : State) (i : StreamIx) : (s.judgeFlow i).pauseReason i = s.pauseReason i := by
  unfold judgeFlow
  split
  · rfl
  · exact pauseReason_paused _ _ _ _

/-- Judging a flow state (R19): after a change of the stream's reasons, with the flow states and the flow set as they were,
it comes to fit them. -/
theorem judgeFlow_judged {s t : State} (i : StreamIx) (h1 : ∀ j, (t.stream j).paused = (s.stream j).paused)
    (h2 : t.ret.flowSet = s.ret.flowSet) : s.FlowJudged (t.judgeFlow i) i := by
  unfold judgeFlow
  split
  · rename_i h
    exact ⟨fun j _ => h1 j, fun _ => ⟨h.symm, by simp [h1, h2]⟩⟩
  · rename_i h
    have e : ((t.modStream i fun r => { r with paused := t.pauseReason i }).queueFlow i (t.pauseReason i)).stream i =
        { t.stream i with paused := t.pauseReason i } :=
      stream_modStream_same t i fun r => { r with paused := t.pauseReason i }
    refine ⟨fun j hj => ?_, fun _ => ⟨by rw [pauseReason_paused, e], ?_⟩⟩
    · rw [← h1 j]
      show ((t.modStream i fun r => { r with paused := t.pauseReason i }).stream j).paused = _
      rw [stream_modStream_other t _ (Ne.symm hj)]
    · rw [e, if_neg (by rw [← h1]; exact h), ← h2]
      rfl

theorem occupancyReason_eq {r q : StreamRec} (h1 : q.config = r.config) (h2 : q.state = r.state)
    (h3 : q.window = r.window) : q.occupancyReason = r.occupancyReason := by
  simp [StreamRec.occupancyReason, h1, h2, h3]

theorem occupancyReason_of_signals {s t : State} (S : Signals s t) (j : StreamIx)
    (h : (t.stream j).state = (s.stream j).state) : (t.stream j).occupancyReason = (s.stream j).occupancyReason :=
  occupancyReason_eq (S.config j) h (S.window j)

theorem paused_judgeFlow_other (s : State) {i j : StreamIx} (h : j ≠ i) :
    ((s.judgeFlow i).stream j).paused = (s.stream j).paused :=
  (judgeFlow_judged (s := s) (t := s) i (fun _ => rfl) rfl).1 j h

/-- A notice offered leaves every flow state and the watches as they were (R177). -/
theorem offerNotice_flow (s : State) (n : Notice) :
    (∀ j, ((s.offerNotice n).stream j).paused = (s.stream j).paused) ∧
      (s.offerNotice n).ret.flowSet = s.ret.flowSet ∧ (s.offerNotice n).monitor.watches = s.monitor.watches := by
  have push : ∀ (s : State) (n : Notice), (s.pushNotice n).streams = s.streams ∧
      (s.pushNotice n).ret.flowSet = s.ret.flowSet ∧ (s.pushNotice n).monitor.watches = s.monitor.watches := by
    intro s n
    unfold pushNotice
    split <;> exact ⟨rfl, rfl, rfl⟩
  have halt : ∀ (s : State) j, (s.enterHalted.stream j).paused = (s.stream j).paused := by
    intro s j
    simp [enterHalted, stream]
  unfold offerNotice
  split
  · obtain ⟨p1, p2, p3⟩ := push s n
    exact ⟨fun j => by simp [stream, p1], p2, p3⟩
  · unfold raiseOverflow
    dsimp only
    generalize hq : ({ source := .fault .noticeOverflow, scope := 0, detail := noticeSourceCode n.source } : Notice) = q
    obtain ⟨p1, p2, p3⟩ := push (s.noteFault .noticeOverflow 0) q
    split
    · exact ⟨fun _ => rfl, rfl, rfl⟩
    · exact ⟨fun j => by simp only [stream, p1]; rfl, p2, p3⟩
    · exact ⟨fun j => by simp only [stream, p1]; rfl, p2, p3⟩
    · exact ⟨fun j => by rw [halt]; simp only [stream, p1]; rfl, p2, p3⟩

theorem suspensions_pos {s : State} {i : StreamIx} (w : Fin 16) (b : Booking) (h : s.watch w = some b)
    (hb : b.suspension = some i) : 0 < s.suspensions i := by
  unfold suspensions
  rw [List.length_pos_iff_exists_mem]
  refine ⟨some b, List.mem_filter.2 ⟨?_, by simp [hb]⟩⟩
  rw [← h]
  exact Vector.mem_toList_iff.2 (Vector.getElem_mem _)

theorem filter_set_length {α : Type} (P : α → Bool) : ∀ (l : List α) (k : Nat) (x y : α), l[k]? = some y → P x = P y →
    ((l.set k x).filter P).length = (l.filter P).length
  | [], _, _, _, h, _ => nomatch h
  | z :: l, 0, x, y, h, e => by
    cases h
    rw [List.set_cons_zero, List.filter_cons, List.filter_cons, e]
    split <;> rfl
  | z :: l, k + 1, x, y, h, e => by
    have ih := filter_set_length P l k x y h e
    rw [List.set_cons_succ, List.filter_cons, List.filter_cons]
    split <;> simp [ih]

/-- A write of a watch that keeps its suspension keeps those of every stream. -/
theorem suspensions_setWatch (s : State) (w : Fin 16) (b c : Booking) (h : s.watch w = some b)
    (e : c.suspension = b.suspension) (i : StreamIx) : (s.setWatch w (some c)).suspensions i = s.suspensions i := by
  unfold suspensions
  rw [show (s.setWatch w (some c)).monitor.watches.toList = s.monitor.watches.toList.set w.val (some c) from
    Vector.toList_set w.isLt]
  refine filter_set_length _ _ _ _ (some b) ?_ (by simp [e])
  rw [← h]
  simp [watch]

/-- A firing (R168), about stream `i` or about a drive. -/
theorem fireWatch_rises (s : State) (w : Fin 16) (b : Booking) (c : WatchCondition) (scope : Nat) (detail : Word32)
    (i : StreamIx) (hw : s.watch w = some b) (hi : c.ofDrive = true ∨ scope = streamId i) :
    FlowRises s (s.fireWatch w b c scope detail) i := by
  have S := Signals.fireWatch s w b c scope detail
  have hrec : ∀ j, ((s.fireWatch w b c scope detail).stream j).occupancyReason = (s.stream j).occupancyReason :=
    fun j => occupancyReason_of_signals S j (state_fireWatch s w b c scope detail j)
  obtain ⟨o1, o2, o3⟩ := offerNotice_flow s { source := .watch w b.tag, scope := scope, detail := detail }
  have ow : (s.offerNotice { source := .watch w b.tag, scope := scope, detail := detail }).watch w = some b := by
    rw [← hw]
    simp [watch, o3]
  have os : ∀ j, (s.offerNotice { source := .watch w b.tag, scope := scope, detail := detail }).suspensions j =
      s.suspensions j := fun j => by simp [suspensions, o3]
  have plain : ∀ t, s.fireWatch w b c scope detail = t →
      t = (s.offerNotice { source := .watch w b.tag, scope := scope, detail := detail }).setWatch w
        (some { b with fired := !b.every }) → FlowRises s (s.fireWatch w b c scope detail) i := by
    rintro t h rfl
    refine FlowRises.of_same i ?_ ?_ ?_ hrec
    · rw [h]
      exact o1
    · rw [h]
      exact o2
    · rw [h, suspensions_setWatch _ w b { b with fired := !b.every } ow rfl, os]
  unfold fireWatch at plain hrec ⊢
  dsimp only at plain hrec ⊢
  split
  · rename_i k hk
    rw [hk] at plain hrec
    split
    · rename_i hs
      have hki : k = i := by
        unfold occurrenceStream at hk
        rcases hi with hi | hi
        · simp [hi] at hk
        · split at hk
          · simp at hk
          · subst hi
            split at hk
            · cases hk
              simp [streamId]
            · simp at hk
      subst hki
      dsimp only at hrec
      rw [if_pos hs] at hrec
      refine ⟨judgeFlow_judged k o1 o2, fun _ => ?_, hrec⟩
      rw [pauseReason_judgeFlow]
      unfold pauseReason
      rw [decide_eq_true (suspensions_pos w { b with fired := !b.every, suspension := some k } ?_ rfl), Bool.or_true]
      simp [watch, setWatch]
    · rename_i hs
      dsimp only at plain
      rw [if_neg hs] at plain
      exact plain _ rfl rfl
  · rename_i hk
    rw [hk] at plain
    exact plain _ rfl rfl

/-- An occurrence about stream `i` or about a drive (R168): at most a suspension is put on stream `i`. -/
theorem occur_rises (s : State) (c : WatchCondition) (scope : Nat) (detail : Word32) (i : StreamIx)
    (hi : c.ofDrive = true ∨ scope = streamId i) : FlowRises s (s.occur c scope detail) i := by
  unfold occur
  generalize allWatches = l
  induction l generalizing s with
  | nil => exact FlowRises.refl s i
  | cons w l ih =>
    rw [List.foldl_cons]
    refine FlowRises.trans ?_ (ih _)
    split
    · rename_i b hb
      split
      · exact fireWatch_rises s w b c scope detail i hb hi
      · exact FlowRises.refl s i
    · exact FlowRises.refl s i

/-- The pause reasons of a stream (R19). -/
theorem pauseReason_iff (s : State) (i : StreamIx) : s.pauseReason i = true ↔
    (s.stream i).occupancyReason = true ∨ ∃ w b, s.watch w = some b ∧ b.suspension = some i := by
  unfold pauseReason
  rw [Bool.or_eq_true, decide_eq_true_iff]
  refine or_congr_right ⟨fun h => ?_, fun ⟨w, b, h, e⟩ => suspensions_pos w b h e⟩
  unfold suspensions at h
  obtain ⟨x, hx⟩ := List.length_pos_iff_exists_mem.1 h
  obtain ⟨h1, h2⟩ := List.mem_filter.1 hx
  obtain ⟨w, hw, e⟩ := List.mem_iff_getElem.1 h1
  cases x with
  | none => simp at h2
  | some b => exact ⟨⟨w, by simpa using hw⟩, b, by simpa [watch] using e, by simpa using h2⟩

end Sys2Proof.Machine.State
end

