-- ==== Sys2Proof/Laws/Tables.lean ====
section
/-! SUPPORT. Canonical tables: every operation keeps the form, and a read after a write. The DRAM, the holder counts and the
flips are such tables. -/

namespace Sys2Proof.Machine

namespace Table

variable {β : Type} [DecidableEq β]

theorem wfFrom_cons (d : β) (lo k : Nat) (v : β) (t : List (Nat × β)) :
    wfFrom d lo ((k, v) :: t) = true ↔ lo ≤ k ∧ v ≠ d ∧ wfFrom d (k + 1) t = true := by
  simp [wfFrom, and_assoc]

theorem wfFrom_mono (d : β) : ∀ (t : List (Nat × β)) (lo lo' : Nat), lo' ≤ lo → wfFrom d lo t = true →
    wfFrom d lo' t = true
  | [], _, _, _, _ => rfl
  | (k, v) :: t, lo, lo', hle, h => by
    rw [wfFrom_cons] at h ⊢
    exact ⟨hle.trans h.1, h.2⟩

theorem wfFrom_set (d : β) (k : Nat) (v : β) : ∀ (t : List (Nat × β)) (lo : Nat), lo ≤ k → wfFrom d lo t = true →
    wfFrom d lo (set d k v t) = true
  | [], lo, hk, _ => by
    by_cases hv : v = d
    · simp [set, hv, wfFrom]
    · simp [set, hv, wfFrom, hk]
  | (k', v') :: t, lo, hk, h => by
    have h' := (wfFrom_cons d lo k' v' t).1 h
    unfold set
    by_cases h1 : k < k'
    · by_cases hv : v = d
      · simpa [h1, hv] using h
      · simp only [h1, hv, if_true, if_false]
        exact (wfFrom_cons ..).2 ⟨hk, hv, (wfFrom_cons ..).2 ⟨h1, h'.2⟩⟩
    · by_cases h2 : k = k'
      · by_cases hv : v = d
        · simp only [h2, hv, if_true, if_false, lt_irrefl]
          exact wfFrom_mono d t _ _ (by omega) h'.2.2
        · simp only [h2, hv, if_true, if_false, lt_irrefl]
          exact (wfFrom_cons ..).2 ⟨h'.1, hv, h'.2.2⟩
      · simp only [h1, h2, if_false]
        exact (wfFrom_cons ..).2 ⟨h'.1, h'.2.1, wfFrom_set d k v t _ (by omega) h'.2.2⟩

/-- A write keeps the canonical form. -/
theorem wf_set (d : β) (k : Nat) (v : β) (t : List (Nat × β)) (h : wf d t = true) : wf d (set d k v t) = true :=
  wfFrom_set d k v t 0 (Nat.zero_le k) h

theorem wfFrom_filter (d : β) (p : Nat × β → Bool) : ∀ (t : List (Nat × β)) (lo : Nat), wfFrom d lo t = true →
    wfFrom d lo (t.filter p) = true
  | [], _, _ => rfl
  | (k, v) :: t, lo, h => by
    have h' := (wfFrom_cons ..).1 h
    have ih := wfFrom_filter d p t (k + 1) h'.2.2
    cases hp : p (k, v)
    · simp only [List.filter_cons, hp]
      exact wfFrom_mono d _ _ _ (by omega) ih
    · simp only [List.filter_cons, hp, if_true]
      exact (wfFrom_cons ..).2 ⟨h'.1, h'.2.1, ih⟩

/-- Removing entries keeps the canonical form. -/
theorem wf_filter (d : β) (p : Nat × β → Bool) (t : List (Nat × β)) (h : wf d t = true) :
    wf d (t.filter p) = true := wfFrom_filter d p t 0 h

theorem get_of_lt (d : β) : ∀ (t : List (Nat × β)) (lo k : Nat), k < lo → wfFrom d lo t = true → get d k t = d
  | [], _, _, _, _ => rfl
  | (k', v) :: t, lo, k, hk, h => by
    have h' := (wfFrom_cons ..).1 h
    have hne : k ≠ k' := by omega
    simp only [get, hne, if_false]
    exact get_of_lt d t (k' + 1) k (by omega) h'.2.2

theorem get_set_same_from (d : β) (k : Nat) (v : β) : ∀ (t : List (Nat × β)) (lo : Nat), wfFrom d lo t = true →
    get d k (set d k v t) = v
  | [], _, _ => by
    by_cases hv : v = d
    · simp [set, hv, get]
    · simp [set, hv, get]
  | (k', v') :: t, lo, h => by
    have h' := (wfFrom_cons ..).1 h
    unfold set
    by_cases h1 : k < k'
    · by_cases hv : v = d
      · have hne : k ≠ k' := by omega
        simp only [h1, hv, if_true, get, hne, if_false]
        exact get_of_lt d t (k' + 1) k (by omega) h'.2.2
      · simp [h1, hv, get]
    · by_cases h2 : k = k'
      · subst h2
        by_cases hv : v = d
        · simp only [lt_irrefl, hv, if_true, if_false]
          exact get_of_lt d t (k + 1) k (by omega) h'.2.2
        · simp [hv, get]
      · simp only [h1, h2, if_false, get]
        exact get_set_same_from d k v t _ h'.2.2

/-- A read of the key written gives what was written. -/
theorem get_set_same (d : β) (k : Nat) (v : β) (t : List (Nat × β)) (h : wf d t = true) :
    get d k (set d k v t) = v := get_set_same_from d k v t 0 h

/-- A read of another key is as before. -/
theorem get_set_other (d : β) {k j : Nat} (v : β) (hne : j ≠ k) : ∀ t : List (Nat × β),
    get d j (set d k v t) = get d j t
  | [] => by by_cases hv : v = d <;> simp [set, hv, get, hne]
  | (k', v') :: t => by
    unfold set
    by_cases h1 : k < k'
    · by_cases hv : v = d <;> simp [h1, hv, get, hne]
    · by_cases h2 : k = k'
      · subst h2
        by_cases hv : v = d <;> simp [hv, get, hne]
      · simp only [h1, h2, if_false, get]
        by_cases h3 : j = k'
        · simp [h3]
        · simp only [h3, if_false]
          exact get_set_other d v hne t

end Table

namespace Memory

theorem wf_write (m : Memory) (a : Nat) (b : Byte) (h : wf m = true) : wf (write m a b) = true := Table.wf_set _ a b m h

theorem read_write_same (m : Memory) (a : Nat) (b : Byte) (h : wf m = true) : read (write m a b) a = b :=
  Table.get_set_same _ a b m h

theorem read_write_other (m : Memory) {a c : Nat} (b : Byte) (h : c ≠ a) : read (write m a b) c = read m c :=
  Table.get_set_other _ b h m

theorem wf_writeBytes : ∀ (bs : List Byte) (m : Memory) (a : Nat), wf m = true → wf (writeBytes m a bs) = true
  | [], _, _, h => h
  | b :: bs, m, a, h => wf_writeBytes bs (write m a b) (a + 1) (wf_write m a b h)

/-- A byte outside the run written reads as before. -/
theorem read_writeBytes_other : ∀ (bs : List Byte) (m : Memory) (a c : Nat), (c < a ∨ a + bs.length ≤ c) →
    read (writeBytes m a bs) c = read m c
  | [], _, _, _, _ => rfl
  | b :: bs, m, a, c, h => by
    have hc : c ≠ a := by
      rw [List.length_cons] at h
      omega
    have := read_writeBytes_other bs (write m a b) (a + 1) c (by
      rcases h with h | h
      · left; omega
      · right; simp at h; omega)
    rw [writeBytes, this, read_write_other m b hc]

/-- A byte inside the run written reads as what was written there. -/
theorem read_writeBytes_in : ∀ (bs : List Byte) (m : Memory) (a k : Nat), wf m = true → (h : k < bs.length) →
    read (writeBytes m a bs) (a + k) = bs[k]
  | [], _, _, _, _, h => by simp at h
  | b :: bs, m, a, 0, hw, _ => by
    have h1 := read_writeBytes_other bs (write m a b) (a + 1) a (Or.inl (by omega))
    rw [read_write_same m a b hw] at h1
    simpa [writeBytes] using h1
  | b :: bs, m, a, k + 1, hw, h => by
    have h2 : k < bs.length := by simpa using h
    have := read_writeBytes_in bs (write m a b) (a + 1) k (wf_write m a b hw) h2
    rw [writeBytes, show a + (k + 1) = a + 1 + k by omega, this]
    simp

theorem length_readBytes (m : Memory) : ∀ (n a : Nat), (readBytes m a n).length = n
  | 0, _ => rfl
  | n + 1, a => by simp [readBytes, length_readBytes m n (a + 1)]

/-- Reading a run back after writing it gives the run. -/
theorem readBytes_writeBytes : ∀ (bs : List Byte) (m : Memory) (a : Nat), wf m = true →
    readBytes (writeBytes m a bs) a bs.length = bs := by
  intro bs m a hw
  have key : ∀ (n k : Nat), k + n = bs.length →
      readBytes (writeBytes m a bs) (a + k) n = bs.drop k := by
    intro n
    induction n with
    | zero => intro k hk; simp [readBytes, ← hk]
    | succ n ih =>
      intro k hk
      have hlt : k < bs.length := by omega
      rw [readBytes, read_writeBytes_in bs m a k hw hlt, show a + k + 1 = a + (k + 1) by omega, ih (k + 1) (by omega),
        List.drop_eq_getElem_cons hlt]
  simpa using key bs.length 0 (by simp)

end Memory

/-! ### The store's tables -/

namespace Store

/-- The three tables of a store are canonical. -/
def Canonical (st : Store) : Prop :=
  Memory.wf st.dram = true ∧ Table.wf 0 st.holders = true ∧ Table.wf 0#64 st.flips = true

theorem canonical_claim (st : Store) (x : Slot) (h : st.Canonical) : (st.claim x).Canonical :=
  ⟨h.1, Table.wf_set _ _ _ _ h.2.1, h.2.2⟩

theorem canonical_release (st : Store) (x : Slot) (h : st.Canonical) : (st.release x).Canonical := by
  unfold release
  split
  · exact h
  · exact ⟨h.1, Table.wf_set _ _ _ _ h.2.1, h.2.2⟩

theorem canonical_alloc (st : Store) (x : Slot) (st' : Store) (h : st.Canonical) (ha : st.alloc = some (x, st')) :
    st'.Canonical := by
  unfold alloc at ha
  split at ha
  · simp at ha
  · simp only [Option.some.injEq, Prod.mk.injEq] at ha
    rw [← ha.2]
    exact ⟨h.1, Table.wf_set _ _ _ _ h.2.1, h.2.2⟩

theorem canonical_write (st : Store) (x : Slot) (bs : List Byte) (h : st.Canonical) : (st.write x bs).Canonical :=
  ⟨Memory.wf_writeBytes _ _ _ h.1, h.2.1, Table.wf_filter _ _ _ h.2.2⟩

theorem canonical_strike (st : Store) (f : Flip) (h : st.Canonical) : (st.strike f).Canonical :=
  ⟨Memory.wf_writeBytes _ _ _ h.1, h.2.1, Table.wf_set _ _ _ _ h.2.2⟩

theorem canonical_strikeAll : ∀ (fs : List Flip) (st : Store), st.Canonical → (st.strikeAll fs).Canonical
  | [], _, h => h
  | f :: fs, st, h => canonical_strikeAll fs (st.strike f) (canonical_strike st f h)

theorem canonical_log (st : Store) (x : Slot) (p : ReadPurpose) (r : ReadResult) (h : st.Canonical) :
    (st.log x p r).Canonical := by
  cases r <;> exact h

theorem canonical_reset : Store.reset.Canonical := ⟨rfl, rfl, rfl⟩

theorem canonical_afterReset (st : Store) (h : st.Canonical) : st.afterReset.Canonical := ⟨h.1, rfl, h.2.2⟩

/-- A claim raises the slot's holder count by one (R25). -/
theorem count_claim_same (st : Store) (x : Slot) (h : st.Canonical) : (st.claim x).count x = st.count x + 1 :=
  Table.get_set_same _ _ _ _ h.2.1

/-- A claim leaves the other slots' counts (R25). -/
theorem count_claim_other (st : Store) {x y : Slot} (h : y ≠ x) : (st.claim x).count y = st.count y :=
  Table.get_set_other _ _ (fun e => h (Fin.ext e)) _

/-- Reading a slot back right after writing it gives the data written (R26). -/
theorem readBytes_write (st : Store) (x : Slot) (bs : List Byte) (h : st.Canonical) :
    Memory.readBytes (st.write x bs).dram (slotBase x) bs.length = bs := Memory.readBytes_writeBytes bs _ _ h.1

end Store

/-- The memory of State.reset has the canonical form. -/
theorem reset_storeCanonical : State.reset.StoreCanonical := Store.canonical_reset

end Sys2Proof.Machine
end

