-- ==== Sys2Proof/Laws/Keeps.lean ====
section
/-! SUPPORT. What every shared operation keeps: the queue of commands waiting, the canonical form of the store, the bound of
the outbox, the committed capacities (R138), the control queue and the number of immediate replies. One lemma per
operation, in the form "if from `a` to `s` all is kept, then also to the operation's result", so that they chain. -/

namespace Sys2Proof.Machine

/-- What the operations below the interpreter keep, from one state to a later one. -/
structure Keeps (s t : State) : Prop where
  pending    : t.pending = s.pending
  control    : t.controlQueue = s.controlQueue
  immediates : t.ret.immediates = s.ret.immediates
  store      : s.store.Canonical → t.store.Canonical
  outbox     : s.ret.outbox.length ≤ Config.outboxDepth → t.ret.outbox.length ≤ Config.outboxDepth
  committed  : s.CommittedSums → t.CommittedSums
  halted     : s.monitor.halted = true → t.monitor.halted = true

namespace Keeps

variable {a s t : State}

theorem refl (s : State) : Keeps s s := ⟨rfl, rfl, rfl, id, id, id, id⟩

theorem trans (h : Keeps a s) (g : Keeps s t) : Keeps a t :=
  ⟨g.pending.trans h.pending, g.control.trans h.control, g.immediates.trans h.immediates, g.store ∘ h.store,
   g.outbox ∘ h.outbox, g.committed ∘ h.committed, g.halted ∘ h.halted⟩

/-- A change that leaves the queues, the store, the drives and the replies. -/
theorem same (h : Keeps a s) (h1 : t.pending = s.pending) (h2 : t.controlQueue = s.controlQueue)
    (h3 : t.ret.replies = s.ret.replies) (h4 : t.store = s.store) (h5 : t.ret.outbox = s.ret.outbox)
    (h6 : t.drives = s.drives) (h7 : t.monitor.halted = s.monitor.halted) : Keeps a t :=
  h.trans ⟨h1, h2, by rw [ReturnPath.immediates, ReturnPath.immediates, h3], by rw [h4]; exact id,
    by rw [h5]; exact id, fun c x => by have := c x; simpa [State.drive, h6] using this, by rw [h7]; exact id⟩

theorem modStream (h : Keeps a s) (i : StreamIx) (f : StreamRec → StreamRec) : Keeps a (s.modStream i f) :=
  h.same rfl rfl rfl rfl rfl rfl rfl

theorem setContext (h : Keeps a s) (c : Fin 4) (b : Option Busy) : Keeps a (s.setContext c b) :=
  h.same rfl rfl rfl rfl rfl rfl rfl

theorem modEngine (h : Keeps a s) (f : Engine → Engine) : Keeps a (s.modEngine f) := h.same rfl rfl rfl rfl rfl rfl rfl

theorem modBurn (h : Keeps a s) (f : Burn → Burn) : Keeps a (s.modBurn f) := h.same rfl rfl rfl rfl rfl rfl rfl

theorem setFault (h : Keeps a s) (k : FaultKind) (e : FaultEntry) : Keeps a (s.setFault k e) :=
  h.same rfl rfl rfl rfl rfl rfl rfl

theorem setWatch (h : Keeps a s) (w : Fin 16) (b : Option Booking) : Keeps a (s.setWatch w b) :=
  h.same rfl rfl rfl rfl rfl rfl rfl

theorem putSet (h : Keeps a s) (k : Fin 256) (x : DirSet) : Keeps a (s.putSet k x) := h.same rfl rfl rfl rfl rfl rfl rfl

theorem queueFlow (h : Keeps a s) (i : StreamIx) (p : Bool) : Keeps a (s.queueFlow i p) :=
  h.same rfl rfl rfl rfl rfl rfl rfl

/-- A change of the store that keeps its canonical form. -/
theorem modStore (h : Keeps a s) (f : Store → Store) (hf : s.store.Canonical → (f s.store).Canonical) :
    Keeps a (s.modStore f) :=
  h.trans ⟨rfl, rfl, rfl, hf, id, id, id⟩

/-- A change of a drive record that keeps the sum of R138. -/
theorem modDrive (h : Keeps a s) (x : DriveIx) (f : DriveRec → DriveRec)
    (hf : (s.drive x).committed = ((s.drive x).queue.map (·.need)).sum →
      (f (s.drive x)).committed = ((f (s.drive x)).queue.map (·.need)).sum) : Keeps a (s.modDrive x f) :=
  h.trans ⟨rfl, rfl, rfl, id, id, fun c y => by
    by_cases hxy : x = y
    · subst hxy
      rw [State.drive_modDrive_same]
      exact hf (c x)
    · rw [State.drive_modDrive_other s f hxy]
      exact c y, id⟩

/-- A choice between two results. -/
theorem ite {p : Prop} [Decidable p] {u v : State} (h1 : p → Keeps a u) (h2 : ¬p → Keeps a v) :
    Keeps a (if p then u else v) := by
  split
  · exact h1 ‹_›
  · exact h2 ‹_›

/-- A fold of operations. -/
theorem foldl {α : Type} (f : State → α → State) (hf : ∀ s x, Keeps s (f s x)) (h : Keeps a s) :
    ∀ xs : List α, Keeps a (xs.foldl f s) := by
  intro xs
  induction xs generalizing s with
  | nil => exact h
  | cons x xs ih => exact ih (h.trans (hf s x))

/-! ### Store claims and counters -/

theorem claim (h : Keeps a s) (x : Slot) : Keeps a (s.claim x) := h.modStore _ (Store.canonical_claim _ x)

theorem release (h : Keeps a s) (x : Slot) : Keeps a (s.release x) := h.modStore _ (Store.canonical_release _ x)

theorem releaseAll (h : Keeps a s) (xs : List Slot) : Keeps a (s.releaseAll xs) :=
  foldl _ (fun s x => (refl s).release x) h xs

theorem strikeAll (h : Keeps a s) (fs : List Flip) : Keeps a (s.modStore (·.strikeAll fs)) :=
  h.modStore _ (Store.canonical_strikeAll fs _)

theorem writeSlot (h : Keeps a s) (x : Slot) (bs : List Byte) : Keeps a (s.modStore (·.write x bs)) :=
  h.modStore _ (Store.canonical_write _ x bs)

theorem bumpBy (h : Keeps a s) (i : StreamIx) (c : Counter) (n : Word32) : Keeps a (s.bumpBy i c n) := h.modStream i _

theorem bump (h : Keeps a s) (i : StreamIx) (c : Counter) : Keeps a (s.bump i c) := h.bumpBy i c 1

/-! ### Flow, faults, notices, watches -/

theorem judgeFlow (h : Keeps a s) (i : StreamIx) : Keeps a (s.judgeFlow i) :=
  ite (fun _ => h) (fun _ => (h.modStream i _).queueFlow i _)

theorem noteFault (h : Keeps a s) (k : FaultKind) (n : Nat) : Keeps a (s.noteFault k n) := h.setFault k _

theorem enterHalted (h : Keeps a s) : Keeps a s.enterHalted :=
  h.trans ⟨rfl, rfl, rfl, id, id, id, fun _ => rfl⟩

theorem pushNotice (h : Keeps a s) (n : Notice) : Keeps a (s.pushNotice n) := by
  unfold State.pushNotice
  refine ite (fun hlt => h.trans ⟨rfl, rfl, rfl, id, fun _ => ?_, id, id⟩) (fun _ => h)
  simpa using hlt

theorem raiseOverflow (h : Keeps a s) (src : NoticeSource) : Keeps a (s.raiseOverflow src) := by
  unfold State.raiseOverflow
  simp only []
  split
  · exact h.noteFault _ _
  · exact (h.noteFault _ _).pushNotice _
  · exact (h.noteFault _ _).pushNotice _
  · exact ((h.noteFault _ _).pushNotice _).enterHalted

theorem offerNotice (h : Keeps a s) (n : Notice) : Keeps a (s.offerNotice n) :=
  ite (fun _ => h.pushNotice n) (fun _ => h.raiseOverflow n.source)

theorem stopStream (h : Keeps a s) (i : StreamIx) : Keeps a (s.stopStream i) :=
  ite (fun _ => (h.modStream i _).judgeFlow i) (fun _ => h)

theorem raise (h : Keeps a s) (k : FaultKind) (n : Nat) (d : Word32) : Keeps a (s.raise k n d) := by
  unfold State.raise
  simp only []
  split
  · exact h.noteFault _ _
  · exact (h.noteFault _ _).offerNotice _
  · split
    · exact ((h.noteFault _ _).offerNotice _).stopStream _
    · exact (h.noteFault _ _).offerNotice _
  · exact ((h.noteFault _ _).offerNotice _).enterHalted

theorem fireWatch (h : Keeps a s) (w : Fin 16) (b : Booking) (c : WatchCondition) (n : Nat) (d : Word32) :
    Keeps a (s.fireWatch w b c n d) := by
  unfold State.fireWatch
  have h1 := h.offerNotice { source := .watch w b.tag, scope := n, detail := d }
  generalize s.offerNotice _ = u at h1 ⊢
  dsimp only
  split
  · split
    · exact (h1.setWatch _ _).judgeFlow _
    · exact h1.setWatch _ _
  · exact h1.setWatch _ _

theorem occur (h : Keeps a s) (c : WatchCondition) (n : Nat) (d : Word32) : Keeps a (s.occur c n d) := by
  unfold State.occur
  generalize allWatches = ws
  refine foldl _ (fun s w => ?_) h ws
  split
  · split
    · exact (refl s).fireWatch _ _ _ _ _
    · exact refl s
  · exact refl s

theorem releaseSuspensions (h : Keeps a s) (i : StreamIx) : Keeps a (s.releaseSuspensions i) := by
  unfold State.releaseSuspensions
  exact h.same rfl rfl rfl rfl rfl rfl rfl

theorem changeWatch (h : Keeps a s) (w : Fin 16) (b : Booking) (f : Booking → Option Booking) :
    Keeps a (s.changeWatch w b f) := by
  unfold State.changeWatch
  split
  · exact (h.setWatch _ _).judgeFlow _
  · exact h.setWatch _ _

theorem stray (h : Keeps a s) (i : StreamIx) (n : Word32) : Keeps a (s.stray i n) := (h.bump i _).raise _ _ _

/-! ### The directory and store reads -/

theorem advanceOrdinal (h : Keeps a s) : Keeps a s.advanceOrdinal := h.same rfl rfl rfl rfl rfl rfl rfl

theorem overwriteWay (h : Keeps a s) (k : Fin 256) (b : Bool) (e o : DirEntry) : Keeps a (s.overwriteWay k b e o) :=
  ((h.putSet _ _).claim _).release _

theorem fillWay (h : Keeps a s) (k : Fin 256) (b : Bool) (e : DirEntry) : Keeps a (s.fillWay k b e) :=
  (h.putSet _ _).claim _

theorem evictWay (h : Keeps a s) (k : Fin 256) (b : Bool) (e o : DirEntry) : Keeps a (s.evictWay k b e o) := by
  have h1 : Keeps a (s.release o.slot) := h.release o.slot
  have h2 : Keeps a { s.release o.slot with
      dir := { (s.release o.slot).dir with evictions := (s.release o.slot).dir.evictions + 1 } } :=
    h1.same rfl rfl rfl rfl rfl rfl rfl
  unfold State.evictWay
  exact (h2.putSet _ _).claim _

theorem insertStripe (h : Keeps a s) (i : StreamIx) (k : Nat) (n : Word32) (g : Nat) (x : Slot) :
    Keeps a (s.insertStripe i k n g x) := by
  unfold State.insertStripe
  simp only []
  split
  · exact h.advanceOrdinal.fillWay _ _ _
  · exact ite (fun _ => h.advanceOrdinal.overwriteWay _ _ _ _) (fun _ => h.advanceOrdinal.fillWay _ _ _)
  · exact ite (fun _ => h.advanceOrdinal.overwriteWay _ _ _ _) (fun _ => h.advanceOrdinal.fillWay _ _ _)
  · exact ite (fun _ => h.advanceOrdinal.overwriteWay _ _ _ _) (fun _ =>
      ite (fun _ => h.advanceOrdinal.overwriteWay _ _ _ _) (fun _ =>
        ite (fun _ => h.advanceOrdinal.evictWay _ _ _ _) (fun _ => h.advanceOrdinal.evictWay _ _ _ _)))

theorem insertFrame (h : Keeps a s) (i : StreamIx) (n : Word32) (l : Nat) (sts : List StripeRec) :
    Keeps a (s.insertFrame i n l sts) := by
  unfold State.insertFrame
  refine foldl _ (fun s p => ?_) h sts.zipIdx
  split
  · exact (refl s).insertStripe _ _ _ _ _
  · exact refl s

theorem dropWay (h : Keeps a s) (test : DirEntry → Bool) (k : Fin 256) (w : Option DirEntry) (y : DirSet) :
    Keeps a (State.dropWay test s k w y) := by
  unfold State.dropWay
  split
  · split
    · exact (h.putSet _ _).release _
    · exact h
  · exact h

theorem invalidateSet (h : Keeps a s) (test : DirEntry → Bool) (k : Fin 256) :
    Keeps a (State.invalidateSet test s k) :=
  (h.dropWay test k _ _).dropWay test k _ _

theorem invalidate (h : Keeps a s) (test : DirEntry → Bool) : Keeps a (s.invalidate test) := by
  unfold State.invalidate
  generalize List.finRange 256 = ks
  exact foldl _ (fun s k => (refl s).invalidateSet test k) h ks

theorem countFlaws (h : Keeps a s) (n : Nat) : Keeps a (s.countFlaws n) := h.same rfl rfl rfl rfl rfl rfl rfl

theorem reportFlaw (h : Keeps a s) (x : Slot) : Keeps a (s.reportFlaw x) := (h.invalidate _).countFlaws _

theorem noteRead (h : Keeps a s) (x : Slot) (p : ReadPurpose) (r : ReadResult) : Keeps a (s.noteRead x p r) := by
  unfold State.noteRead
  simp only []
  have h1 : Keeps a (s.modStore (·.log x p r)) := h.modStore _ (Store.canonical_log _ x p r)
  cases r with
  | clean => exact h1
  | corrected => exact h1.raise _ _ _
  | flawed => exact (h1.raise _ _ _).reportFlaw _

theorem readSlot (h : Keeps a s) (p : ReadPurpose) (x : Slot) (n : Nat) : Keeps a (s.readSlot p x n).2.2 :=
  h.noteRead x p _

end Keeps

end Sys2Proof.Machine
end

