-- ==== Sys2Proof/Laws/KeepsRepair.lean ====
section
/-! SUPPORT. What the Repair Engine's and the Stream Table's operations keep (Laws/Keeps.lean). -/

namespace Sys2Proof.Machine.Keeps

variable {a s t : State}

/-! ### Engine -/

theorem modFrame (h : Keeps a s) (i : StreamIx) (n : Word32) (g : FrameRec → FrameRec) : Keeps a (s.modFrame i n g) :=
  h.modStream i _

theorem modStripe (h : Keeps a s) (j : Job) (g : StripeRec → StripeRec) : Keeps a (s.modStripe j g) :=
  h.modFrame _ _ _

theorem resolveStripe (h : Keeps a s) (j : Job) (g : StripeRec → StripeRec) : Keeps a (s.resolveStripe j g) :=
  h.modFrame _ _ _

theorem enqueueFrame (h : Keeps a s) (i : StreamIx) (n : Word32) : Keeps a (s.enqueueFrame i n) := by
  unfold State.enqueueFrame
  split
  · exact h
  · split
    · exact h.modEngine _
    · exact h

theorem dequeueFrame (h : Keeps a s) (i : StreamIx) (n : Word32) : Keeps a (s.dequeueFrame i n) := h.modEngine _

theorem freeContext (h : Keeps a s) (c : Fin 4) : Keeps a (s.freeContext c) := h.setContext c none

theorem markStripe (h : Keeps a s) (j : Job) (m : Method) : Keeps a (s.markStripe j m) := (h.resolveStripe j _).bump _ _

theorem returnToDamaged (h : Keeps a s) (j : Job) : Keeps a (s.returnToDamaged j) := (h.modStripe j _).enqueueFrame _ _

theorem releaseOld (h : Keeps a s) (j : Job) : Keeps a (s.releaseOld j) := by
  unfold State.releaseOld
  split
  · exact h.release _
  · exact h

theorem completeRepair (h : Keeps a s) (c : Fin 4) (j : Job) (x : Slot) (b : Bool) (m : Method) (ds : List Word32)
    (g : Nat) (xs : List Slot) : Keeps a (s.completeRepair c j x b m ds g xs) := by
  unfold State.completeRepair
  have h1 : Keeps a (if b = true then s.claim x else s) := ite (fun _ => h.claim x) (fun _ => h)
  exact ((((h1.releaseOld j).resolveStripe j _).bump _ _).releaseAll xs).freeContext c

theorem askSlot (h : Keeps a s) (i : StreamIx) : Keeps a (s.askSlot i).2 := by
  unfold State.askSlot
  split
  · rename_i x st hx
    exact h.modStore (fun _ => st) fun hc => Store.canonical_alloc _ x st hc hx
  · exact h.raise _ _ _

/-- The state after asking for a slot, whatever the answer. -/
theorem askedSlot (h : Keeps a s) (i : StreamIx) {o : Option Slot} {u : State} (e : s.askSlot i = (o, u)) :
    Keeps a u := by
  have := h.askSlot i
  rwa [e] at this

theorem claims (h : Keeps a s) (xs : List Slot) : Keeps a (xs.foldl State.claim s) :=
  foldl _ (fun s x => (refl s).claim x) h xs

theorem beginNeighbour (h : Keeps a s) (c : Fin 4) (j : Job) (ix : Nat) (e : Bool) :
    Keeps a (s.beginNeighbour c j ix e).2 := by
  unfold State.beginNeighbour
  split
  · exact h
  · split
    · exact h
    · dsimp only
      split
      · exact h
      · split
        · exact h.askedSlot _ ‹_›
        · exact ((h.askedSlot _ ‹_›).claims _).setContext _ _

theorem beginPrevious (h : Keeps a s) (c : Fin 4) (j : Job) (ix m : Nat) : Keeps a (s.beginPrevious c j ix m).2 := by
  unfold State.beginPrevious
  split
  · exact h
  · exact (h.claim _).setContext _ _

theorem parkStripe (h : Keeps a s) (c : Fin 4) (j : Job) : Keeps a (s.parkStripe c j) :=
  ((h.modStripe j _).modEngine _).freeContext c

theorem beginBlend (h : Keeps a s) (c : Fin 4) (j : Job) (ix m : Nat) : Keeps a (s.beginBlend c j ix m).2 := by
  unfold State.beginBlend
  split
  · exact h
  · split
    · split
      · exact h.parkStripe c j
      · exact h
    · split
      · split
        · exact h.parkStripe c j
        · exact h
      · split
        · exact h
        · split
          · exact h.askedSlot _ ‹_›
          · exact (((h.askedSlot _ ‹_›).claim _).claim _).setContext _ _

theorem startTry (h : Keeps a s) (c : Fin 4) (j : Job) (ix t l w : Nat) : Keeps a (s.startTry c j ix t l w) :=
  (h.setContext c _).same rfl rfl rfl rfl rfl rfl rfl

theorem beginStep (h : Keeps a s) (c : Fin 4) (j : Job) (ix : Nat) (m : PlanMethod) :
    Keeps a (s.beginStep c j ix m).2 := by
  cases m with
  | neighbour e => exact h.beginNeighbour c j ix e
  | previous m => exact h.beginPrevious c j ix m
  | blend m => exact h.beginBlend c j ix m
  | refetch t w => exact h.startTry c j ix 1 _ w
  | mark => exact (h.markStripe j _).freeContext c

theorem failStep (h : Keeps a s) (c : Fin 4) (j : Job) (ix : Nat) (st : PlanStep) (l : Bool) (go : State → State)
    (hgo : ∀ u, Keeps a u → Keeps a (go u)) : Keeps a (s.failStep c j ix st l go) := by
  unfold State.failStep
  split
  · exact (h.markStripe j _).freeContext c
  · dsimp only
    split
    · exact hgo _ (h.modStripe j _)
    · exact ((h.modStripe j _).freeContext c).returnToDamaged j

theorem runSteps (c : Fin 4) (j : Job) : ∀ (steps : List PlanStep) (ix : Nat) (s : State), Keeps a s →
    Keeps a (State.runSteps c j ix steps s)
  | [], _, _, h => (h.markStripe j _).freeContext c
  | st :: rest, ix, s, h => by
    have h1 := h.beginStep c j ix st.method
    unfold State.runSteps
    generalize s.beginStep c j ix st.method = p at h1 ⊢
    obtain ⟨o, u⟩ := p
    cases o with
    | failed => exact failStep h1 c j ix st _ _ fun v hv => runSteps c j rest (ix + 1) v hv
    | begun => exact h1
    | parked => exact h1
    | marked => exact h1

theorem stepFailed (h : Keeps a s) (c : Fin 4) (b : Busy) : Keeps a (s.stepFailed c b) := by
  unfold State.stepFailed
  split
  · exact (h.markStripe _ _).freeContext c
  · exact failStep h _ _ _ _ _ _ fun v hv => runSteps c b.job _ _ v hv

theorem takeStripe (h : Keeps a s) (c : Fin 4) (j : Job) : Keeps a (s.takeStripe c j) := by
  unfold State.takeStripe
  dsimp only
  apply runSteps
  split
  · split
    · exact (h.modStripe j _).dequeueFrame _ _
    · exact h.modStripe j _
  · exact h.modStripe j _

theorem takeWorkFor : ∀ (n k : Nat) (s : State), Keeps a s → Keeps a (State.takeWorkFor n k s)
  | 0, _, _, h => h
  | n + 1, _, s, h => by
    unfold State.takeWorkFor
    split
    · exact h
    · exact takeWorkFor n _ _ (h.takeStripe _ _)

theorem takeWork (h : Keeps a s) : Keeps a s.takeWork := takeWorkFor 6913 0 s h

theorem unparkFrame (h : Keeps a s) (i : StreamIx) (n : Word32) : Keeps a (s.unparkFrame i n) := by
  unfold State.unparkFrame
  split
  · exact h
  · split
    · exact h
    · exact ((h.modFrame _ _ _).modEngine _).enqueueFrame _ _

theorem unparkStream (h : Keeps a s) (i : StreamIx) : Keeps a (s.unparkStream i) := by
  unfold State.unparkStream
  exact foldl _ (fun s (f : FrameRec) => (refl s).unparkFrame i f.number) h _

theorem withdrawAsk (h : Keeps a s) (c : Fin 4) : Keeps a (s.withdrawAsk c) := h.same rfl rfl rfl rfl rfl rfl rfl

theorem releaseHolds (h : Keeps a s) (op : Operation) : Keeps a (s.releaseHolds op) := by
  unfold State.releaseHolds
  apply releaseAll
  split
  · exact h.release _
  · exact h

theorem cancelContext (h : Keeps a s) (c : Fin 4) : Keeps a (s.cancelContext c) := by
  unfold State.cancelContext
  split
  · exact h
  · exact ((h.releaseHolds _).withdrawAsk c).freeContext c

theorem cancelWhere (h : Keeps a s) (test : Job → Bool) : Keeps a (s.cancelWhere test) := by
  unfold State.cancelWhere
  refine foldl _ (fun s c => ?_) h allContexts
  split
  · split
    · exact (refl s).cancelContext c
    · exact refl s
  · exact refl s

theorem giveUp (h : Keeps a s) (i : StreamIx) (n : Word32) : Keeps a (s.giveUp i n) :=
  (((h.cancelWhere _).modFrame i n _).modEngine _).dequeueFrame i n

theorem abandonWork (h : Keeps a s) (i : StreamIx) : Keeps a (s.abandonWork i) := by
  unfold State.abandonWork
  exact (h.cancelWhere _).modEngine _

theorem readSlots (p : ReadPurpose) (n : Nat) : ∀ (xs : List Slot) (s : State), Keeps a s →
    Keeps a (State.readSlots p n xs s).2.2
  | [], _, h => h
  | x :: xs, _, h => readSlots p n xs _ (h.readSlot p x n)

theorem composeDone (h : Keeps a s) (c : Fin 4) (b : Busy) (r : Slot) (xs : List Slot) (ds : List Word32) (g : Nat) :
    Keeps a (s.composeDone c b r xs ds g) := by
  have h1 := readSlots .compose (s.jobSize b.job) xs s h
  unfold State.composeDone
  generalize State.readSlots .compose (s.jobSize b.job) xs s = q at h1 ⊢
  dsimp only
  split
  · exact (h1.releaseHolds _).stepFailed c b
  · exact (h1.writeSlot _ _).completeRepair _ _ _ _ _ _ _ _

theorem verifyDone (h : Keeps a s) (c : Fin 4) (b : Busy) (d : Donor) : Keeps a (s.verifyDone c b d) := by
  have h1 := h.readSlot .verify d.slot (s.jobSize b.job)
  unfold State.verifyDone
  generalize s.readSlot .verify d.slot (s.jobSize b.job) = q at h1 ⊢
  dsimp only
  split
  · exact (h1.releaseHolds _).stepFailed c b
  · exact h1.completeRepair _ _ _ _ _ _ _ _

theorem tryFailed (h : Keeps a s) (c : Fin 4) (b : Busy) (t l w : Nat) : Keeps a (s.tryFailed c b t l w) := by
  unfold State.tryFailed
  split
  · exact (h.occur _ _ _).stepFailed c b
  · split
    · exact h.startTry _ _ _ _ _ _
    · exact (h.freeContext c).returnToDamaged _

theorem assessResend (h : Keeps a s) (c : Fin 4) (b : Busy) (t l w : Nat) (p : List Byte) (ok : Bool) :
    Keeps a (s.assessResend c b t l w p ok) := by
  unfold State.assessResend
  have h1 := h.withdrawAsk c
  generalize s.withdrawAsk c = u at h1 ⊢
  dsimp only
  split
  · exact h1.tryFailed _ _ _ _ _
  · split
    · exact (h1.askedSlot _ ‹_›).tryFailed _ _ _ _ _
    · split
      · exact ((h1.askedSlot _ ‹_›).writeSlot _ _).completeRepair _ _ _ _ _ _ _ _
      · exact (((h1.askedSlot _ ‹_›).writeSlot _ _).release _).tryFailed _ _ _ _ _

theorem refetchExpired (h : Keeps a s) (c : Fin 4) (b : Busy) (t l w : Nat) : Keeps a (s.refetchExpired c b t l w) :=
  (h.withdrawAsk c).tryFailed _ _ _ _ _

theorem askTransmitted (h : Keeps a s) (k : Ask) : Keeps a (s.askTransmitted k) := by
  unfold State.askTransmitted
  split
  · split
    · exact h.setContext _ _
    all_goals exact h
  · exact h

/-! ### Stream Table -/

theorem closeFrame (h : Keeps a s) (i : StreamIx) (n : Word32) : Keeps a (s.closeFrame i n) := by
  unfold State.closeFrame
  split
  · exact h
  · rename_i f _
    have h1 : Keeps a (((((s.modFrame i n fun _ => f.close s.engine.closeOrdinal).bumpBy i .damagedFlagged
        (BitVec.ofNat 32 (countCause .flagged (f.close s.engine.closeOrdinal).stripes))).bumpBy i .damagedCorrupt
        (BitVec.ofNat 32 (countCause .corrupt (f.close s.engine.closeOrdinal).stripes))).bumpBy i .damagedAbsent
        (BitVec.ofNat 32 (countCause .absent (f.close s.engine.closeOrdinal).stripes))).modEngine fun e =>
          { e with closeOrdinal := e.closeOrdinal + 1 }) :=
      ((((h.modFrame i n _).bumpBy i _ _).bumpBy i _ _).bumpBy i _ _).modEngine _
    dsimp only
    generalize hu : State.modEngine _ _ = u at h1 ⊢
    have h2 : Keeps a (if (f.close s.engine.closeOrdinal).damaged = 0 then u
        else (u.enqueueFrame i n).occur .damageRate (streamId i)
          (BitVec.ofNat 32 (f.close s.engine.closeOrdinal).damaged)) :=
      ite (fun _ => h1) (fun _ => (h1.enqueueFrame _ _).occur _ _ _)
    split
    · exact h2.unparkFrame _ _
    · exact h2

theorem closeOpen (h : Keeps a s) (i : StreamIx) : Keeps a (s.closeOpen i) := by
  unfold State.closeOpen
  split
  · exact h.closeFrame _ _
  · exact h

theorem startCadence (h : Keeps a s) (i : StreamIx) : Keeps a (s.startCadence i) := h.modStream i _

theorem endPriming (h : Keeps a s) (i : StreamIx) (cfg : StreamConfig) : Keeps a (s.endPriming i cfg) :=
  ite (fun _ => (h.modStream i _).startCadence i) (fun _ => h)

theorem refuseFrame (h : Keeps a s) (i : StreamIx) (k : FaultKind) (n : Word32) : Keeps a (s.refuseFrame i k n) :=
  (h.bump _ _).raise _ _ _

theorem countGap (h : Keeps a s) (i : StreamIx) (n : Word32) : Keeps a (s.countGap i n) := by
  unfold State.countGap
  split
  · exact h.bumpBy _ _ _
  · exact h

theorem admitFrame (h : Keeps a s) (i : StreamIx) (cfg : StreamConfig) (n t : Word32) :
    Keeps a (s.admitFrame i cfg n t) := by
  unfold State.admitFrame
  dsimp only
  have h1 := ((h.closeOpen i).countGap i n).modStream i fun r => { r with lastNumber := some n }
  split
  · exact (((h1.modStream i _).bump i _).endPriming i cfg).judgeFlow i
  · exact h1.refuseFrame _ _ _

theorem takeFrameOpen (h : Keeps a s) (i : StreamIx) (n t : Word32) : Keeps a (s.takeFrameOpen i n t) := by
  unfold State.takeFrameOpen
  split
  · split
    · split
      · exact h.refuseFrame _ _ _
      · exact h.admitFrame _ _ _ _
    · exact h.admitFrame _ _ _ _
  · exact h.stray _ _

theorem storeStripe (h : Keeps a s) (j : Job) (b : StripeBody) : Keeps a (s.storeStripe j b) := by
  unfold State.storeStripe
  split
  · exact h.askedSlot _ ‹_›
  · exact (((h.askedSlot _ ‹_›).writeSlot _ _).releaseOld j).modStripe j _

theorem takeStripeUnit (h : Keeps a s) (i : StreamIx) (b : StripeBody) : Keeps a (s.takeStripeUnit i b) := by
  unfold State.takeStripeUnit
  split
  · split
    · exact h.stray _ _
    · split
      · exact h.stray _ _
      · split
        · exact h.stray _ _
        · split
          · exact h.stray _ _
          · exact h.storeStripe _ _
  · exact h.stray _ _

theorem takeResend (h : Keeps a s) (i : StreamIx) (b : StripeBody) : Keeps a (s.takeResend i b) := by
  unfold State.takeResend
  split
  · exact h.stray _ _
  · split
    · split
      · exact h.assessResend _ _ _ _ _ _ _
      all_goals exact h.bump _ _
    · exact h.bump _ _

theorem takeFrameClose (h : Keeps a s) (i : StreamIx) (n : Word32) : Keeps a (s.takeFrameClose i n) := by
  unfold State.takeFrameClose
  split
  · split
    · exact h.closeFrame _ _
    · exact h.stray _ _
  · exact h.stray _ _

theorem returnRecord (h : Keeps a s) (f : FrameRec) : Keeps a (s.returnRecord f) := h.releaseAll _

end Sys2Proof.Machine.Keeps
end

