-- ==== Sys2Proof/Laws/KeepsBurn.lean ====
section
/-! SUPPORT. What the Drive Table's, the cadence units' and the Burn Link Controller's operations keep (Laws/Keeps.lean). -/

namespace Sys2Proof.Machine.Keeps

variable {a s t : State}

/-! ### Replies and drives -/

theorem deferred (h : Keeps a s) (tag : Word16) (r : Answer) : Keeps a (s.deferred tag r) :=
  h.trans ⟨rfl, rfl, by simp [State.deferred, State.queueReply, ReturnPath.immediates], id, id, id, id⟩

/-- A change of a drive record that leaves its queue and its committed capacity. -/
theorem modDriveSame (h : Keeps a s) (x : DriveIx) (f : DriveRec → DriveRec)
    (hq : (f (s.drive x)).queue = (s.drive x).queue) (hc : (f (s.drive x)).committed = (s.drive x).committed) :
    Keeps a (s.modDrive x f) := h.modDrive x f fun e => by rw [hq, hc, e]

theorem appendFrame (h : Keeps a s) (x : DriveIx) (f : FrameRec) : Keeps a (s.appendFrame x f) :=
  h.modDrive x _ fun e => by simp [e]

theorem dropHead (h : Keeps a s) (x : DriveIx) : Keeps a (s.dropHead x) :=
  h.modDrive x _ fun e => by
    cases hq : (s.drive x).queue with
    | nil => simp [hq] at e; simp [e]
    | cons f rest => simp [hq] at e; simp [e]

theorem discardHead (h : Keeps a s) (x : DriveIx) : Keeps a (s.discardHead x) := by
  unfold State.discardHead
  split
  · exact (h.dropHead x).returnRecord _
  · exact h

theorem headWaiting (h : Keeps a s) (x : DriveIx) : Keeps a (s.headWaiting x) := h.modDriveSame x _ rfl rfl

theorem endRelay (h : Keeps a s) (x : DriveIx) (r : Answer) : Keeps a (s.endRelay x r) := by
  unfold State.endRelay
  split
  · exact h
  · exact (h.modDriveSame x _ rfl rfl).deferred _ _
  · exact (h.modDriveSame x _ rfl rfl).deferred _ _

theorem swapRoles (h : Keeps a s) (i : StreamIx) (x y : DriveIx) : Keeps a (s.swapRoles i x y) :=
  (h.modDriveSame y _ rfl rfl).modDriveSame x _ rfl rfl

theorem moveFrames : ∀ (n : Nat) (x y : DriveIx) (s : State), Keeps a s → Keeps a (State.moveFrames n x y s)
  | 0, _, _, _, h => h
  | n + 1, x, y, s, h => by
    unfold State.moveFrames
    split
    · exact h
    · split
      · exact moveFrames n x y _ ((h.dropHead x).appendFrame y _)
      · exact h

theorem leaveService (h : Keeps a s) (x : DriveIx) : Keeps a (s.leaveService x) := by
  unfold State.leaveService
  split
  · split
    · split
      · exact moveFrames _ _ _ _ ((h.swapRoles _ _ _).occur _ _ _)
      · exact h
    · exact h
  · exact h
  · exact h

theorem leftHeld (h : Keeps a s) (x : DriveIx) (c d : Condition) : Keeps a (s.leftHeld x c d) :=
  ite (fun _ => h.endRelay x _) (fun _ => h)

theorem enteredFull (h : Keeps a s) (x : DriveIx) (c d : Condition) : Keeps a (s.enteredFull x c d) :=
  ite (fun _ => h.occur _ _ _) (fun _ => h)

theorem setCondition (h : Keeps a s) (x : DriveIx) (c : Condition) : Keeps a (s.setCondition x c) := by
  unfold State.setCondition
  have h1 := ((h.modDriveSame x (fun d => { d with condition := c }) rfl rfl).leftHeld x (s.drive x).condition c).enteredFull x
    (s.drive x).condition c
  dsimp only
  generalize State.enteredFull _ _ _ _ = u at h1 ⊢
  have h2 : Keeps a (if State.renewsAsk (s.drive x).condition c = true then u.headWaiting x else u) :=
    ite (fun _ => h1.headWaiting x) (fun _ => h1)
  split
  · exact h2.leaveService x
  · exact h2

theorem applyNews (h : Keeps a s) (x : DriveIx) (n : News) : Keeps a (s.applyNews x n) :=
  (h.modDriveSame x (fun d => { d with remaining := n.normal.remaining d.remaining }) rfl rfl).setCondition x _

theorem endRelease (h : Keeps a s) (x : DriveIx) (n : News) : Keeps a (s.endRelease x n) :=
  (h.modDriveSame x (fun d => { d with releasePending := false, remaining := n.normal.remaining d.remaining })
    rfl rfl).setCondition x _

theorem goAbsent (h : Keeps a s) (x : DriveIx) : Keeps a (s.goAbsent x) := h.modDriveSame x _ rfl rfl

theorem endAsks (h : Keeps a s) (x : DriveIx) : Keeps a (s.endAsks x) := h.modDriveSame x _ rfl rfl

theorem discardOwed (h : Keeps a s) (x : DriveIx) : Keeps a (s.discardOwed x) :=
  ite (fun _ => h.discardHead x) (fun _ => h)

theorem silent (h : Keeps a s) (x : DriveIx) : Keeps a (s.silent x) := by
  unfold State.silent
  exact (((((((h.goAbsent x).raise _ _ _).occur _ _ _).headWaiting x).endAsks x).discardOwed x).endRelay x _).leaveService x

theorem countMiss (h : Keeps a s) (x : DriveIx) : Keeps a (s.countMiss x) := by
  unfold State.countMiss
  split
  · exact h
  · have h1 := h.modDriveSame x (fun d => { d with misses := d.misses + 1, missCount := d.missCount + 1 }) rfl rfl
    dsimp only
    generalize State.modDrive s x _ = u at h1 ⊢
    split
    · exact h1.silent x
    · exact h1

theorem answered (h : Keeps a s) (x : DriveIx) : Keeps a (s.answered x) := h.modDriveSame x _ rfl rfl

theorem presenceTaken (h : Keeps a s) (x : DriveIx) (n : News) : Keeps a (s.presenceTaken x n) := by
  unfold State.presenceTaken
  have h1 := (h.answered x).applyNews x (State.presenceNews n)
  generalize State.applyNews _ x _ = u at h1 ⊢
  dsimp only
  split
  · exact h1.occur _ _ _
  · exact h1

theorem bindDrives (h : Keeps a s) (i : StreamIx) (x : DriveIx) (o : Option DriveIx) : Keeps a (s.bindDrives i x o) := by
  unfold State.bindDrives
  have h1 := h.modDriveSame x (fun d => { d with binding := .active i }) rfl rfl
  dsimp only
  split
  · exact h1.modDriveSame _ _ rfl rfl
  · exact h1

theorem unbindDrives (h : Keeps a s) (i : StreamIx) : Keeps a (s.unbindDrives i) := by
  unfold State.unbindDrives
  refine foldl _ (fun s x => ?_) h allDrives
  split
  · exact (refl s).modDriveSame _ _ rfl rfl
  · exact refl s

theorem capacityFailed (h : Keeps a s) (x : DriveIx) (c : Condition) : Keeps a (s.capacityFailed x c) :=
  ite (fun _ => h.setCondition x _) (fun _ => h)

theorem spanned (h : Keeps a s) (i : StreamIx) (x y : DriveIx) (c : Condition) : Keeps a (s.spanned i x y c) :=
  ((h.swapRoles i x y).capacityFailed x c).occur _ _ _

theorem askDrive (h : Keeps a s) (i : StreamIx) (n : Nat) : Keeps a (s.askDrive i n).2 := by
  unfold State.askDrive
  split
  · exact h
  · rename_i x _
    have h1 := h.capacityFailed x (s.drive x).condition
    dsimp only
    split
    · exact h
    · split
      · rename_i y _
        have h2 := h.spanned i x y (s.drive x).condition
        generalize s.spanned i x y (s.drive x).condition = u at h2 ⊢
        generalize s.capacityFailed x (s.drive x).condition = v at h1 ⊢
        split
        · exact h2
        · exact h1
      · exact h1

/-! ### Cadence and dispatch -/

theorem takeSeq (h : Keeps a s) (i : StreamIx) : Keeps a (s.takeSeq i).2 :=
  h.modStream i fun r => { r with nextSeq := r.nextSeq + 1 }

theorem forceStripe (h : Keeps a s) (cfg : StreamConfig) (j : Job) : Keeps a (s.forceStripe cfg j) := by
  unfold State.forceStripe
  split
  · exact h.markStripe j _
  · split
    · exact (((h.claim _).releaseOld j).resolveStripe j _).bump _ _
    · exact h.markStripe j _

theorem forceFrame (h : Keeps a s) (i : StreamIx) (cfg : StreamConfig) (n : Word32) :
    Keeps a (s.forceFrame i cfg n) := by
  unfold State.forceFrame
  have h1 := h.giveUp i n
  generalize s.giveUp i n = u at h1 ⊢
  have h2 : Keeps a ((u.unresolvedStripes i n).foldl
      (fun s k => s.forceStripe cfg { stream := i, number := n, stripe := k }) u) :=
    foldl _ (fun s k => (refl s).forceStripe cfg { stream := i, number := n, stripe := k }) h1 _
  exact (h2.bump i _).occur _ _ _

theorem handOff (h : Keeps a s) (i : StreamIx) (cfg : StreamConfig) (x : DriveIx) (k : FrameKind) :
    Keeps a (s.handOff i cfg x k) := by
  unfold State.handOff
  split
  · exact h
  · exact (((((h.modStream i _).judgeFlow i).takeSeq i).modStream i _).insertFrame _ _ _ _).appendFrame x _

theorem dispatchHead (h : Keeps a s) (i : StreamIx) (cfg : StreamConfig) (x : DriveIx) :
    Keeps a (s.dispatchHead i cfg x) := by
  unfold State.dispatchHead
  split
  · exact h
  · rename_i f _
    have h1 : Keeps a (if f.state = .opened then s.closeFrame i f.number else s) :=
      ite (fun _ => h.closeFrame _ _) (fun _ => h)
    dsimp only
    generalize (if f.state = .opened then s.closeFrame i f.number else s) = u at h1 ⊢
    split
    · split
      · exact (h1.forceFrame _ _ _).handOff _ _ _ _
      · exact h1.handOff _ _ _ _
    · exact h1.handOff _ _ _ _

theorem fillStripes (i : StreamIx) (q : Word32) : ∀ (n k : Nat) (s : State), Keeps a s →
    Keeps a (State.fillStripes i q n k s).2
  | 0, _, _, h => h
  | n + 1, k, s, h => by
    unfold State.fillStripes
    split
    · exact fillStripes i q n (k + 1) _ ((h.claim _).bump _ _)
    · exact fillStripes i q n (k + 1) _ (h.bump _ _)

theorem fillFrame (h : Keeps a s) (i : StreamIx) (cfg : StreamConfig) (x : DriveIx) : Keeps a (s.fillFrame i cfg x) := by
  unfold State.fillFrame
  have h1 := fillStripes i ((s.stream i).lastDispatched.getD 0) cfg.stripes 0 s h
  dsimp only
  generalize State.fillStripes i ((s.stream i).lastDispatched.getD 0) cfg.stripes 0 s = p at h1 ⊢
  exact (((h1.takeSeq i).appendFrame x _).bump i _).occur _ _ _

theorem slip (h : Keeps a s) (i : StreamIx) : Keeps a (s.slip i) := h.bump i _

theorem enterStall (h : Keeps a s) (i : StreamIx) : Keeps a (s.enterStall i) :=
  ite (fun _ => ((h.modStream i _).judgeFlow i).occur _ _ _) (fun _ => h)

theorem leaveStall (h : Keeps a s) (i : StreamIx) : Keeps a (s.leaveStall i) :=
  ite (fun _ => (h.modStream i _).judgeFlow i) (fun _ => h)

theorem decideByDrive (h : Keeps a s) (i : StreamIx) (cfg : StreamConfig) : Keeps a (s.decideByDrive i cfg) := by
  unfold State.decideByDrive
  have h1 := h.askDrive i (sectorNeed cfg.stripes cfg.stripeSize)
  generalize s.askDrive i (sectorNeed cfg.stripes cfg.stripeSize) = p at h1 ⊢
  obtain ⟨o, u⟩ := p
  cases o with
  | take x =>
    dsimp only
    split
    · exact (h1.leaveStall i).fillFrame _ _ _
    · exact (h1.leaveStall i).dispatchHead _ _ _
  | wait => exact h1.slip i
  | noDrive => exact (h1.enterStall i).slip i

theorem endSession (h : Keeps a s) (i : StreamIx) : Keeps a (s.endSession i) :=
  (((h.modStream i _).unbindDrives i).releaseSuspensions i).judgeFlow i

theorem answerStop (h : Keeps a s) (i : StreamIx) (r : Answer) : Keeps a (s.answerStop i r) := by
  unfold State.answerStop
  split
  · exact (h.modStream i _).deferred _ _
  · exact h

theorem completeDrain (h : Keeps a s) (i : StreamIx) : Keeps a (s.completeDrain i) := (h.endSession i).answerStop i _

theorem dispatchSlot (h : Keeps a s) (i : StreamIx) : Keeps a (s.dispatchSlot i) := by
  unfold State.dispatchSlot
  split
  · exact h
  · split
    · split
      · exact h.completeDrain i
      · split
        · exact h.decideByDrive _ _
        · exact h.slip i
    · exact h.decideByDrive _ _

theorem cadenceExpired (h : Keeps a s) (i : StreamIx) : Keeps a (s.cadenceExpired i) := by
  unfold State.cadenceExpired
  dsimp only
  split
  · split
    · split
      · exact h.dispatchSlot i
      · exact (h.dispatchSlot i).modStream i _
    · exact h.modStream i _
  · exact h

/-! ### Burn Link Controller -/

theorem startUnit (h : Keeps a s) (x : DriveIx) (p : Purpose) (u : BurnUnit) : Keeps a (s.startUnit x p u) := h.modBurn _

theorem setPhase (h : Keeps a s) (p : Phase) : Keeps a (s.setPhase p) := h.modBurn _

theorem clearExchange (h : Keeps a s) : Keeps a s.clearExchange := h.modBurn _

theorem startAbandon (h : Keeps a s) (x : DriveIx) : Keeps a (s.startAbandon x) := by
  unfold State.startAbandon
  split
  · exact h.startUnit _ _ _
  · exact h

theorem oweAbandon (h : Keeps a s) (x : DriveIx) : Keeps a (s.oweAbandon x) := h.modDriveSame x _ rfl rfl

theorem endTurn (h : Keeps a s) (x : DriveIx) : Keeps a (s.endTurn x) :=
  ite (fun _ => h.clearExchange.startAbandon x) (fun _ => h.clearExchange)

theorem markFlaw (h : Keeps a s) (x : DriveIx) (k : Nat) : Keeps a (s.markFlaw x k) :=
  h.modDrive x _ fun e => by
    cases hq : (s.drive x).queue with
    | nil => simpa [hq] using e
    | cons f rest => simpa [hq] using e

theorem sendWrite (h : Keeps a s) (x : DriveIx) (f : FrameRec) (k c : Nat) (ps : List ReadPart) :
    Keeps a (s.sendWrite x f k c ps) := (h.modDriveSame x _ rfl rfl).setPhase _

theorem startWrite (h : Keeps a s) (x : DriveIx) (f : FrameRec) (k : Nat) : Keeps a (s.startWrite x f k) := by
  unfold State.startWrite
  dsimp only
  split
  · exact (h.modBurn _).sendWrite _ _ _ _ _
  · exact h.modBurn _

theorem startNote (h : Keeps a s) (x : DriveIx) (f : FrameRec) : Keeps a (s.startNote x f) := h.startUnit _ _ _

theorem frameUnit (h : Keeps a s) (x : DriveIx) : Keeps a (s.frameUnit x) := by
  unfold State.frameUnit
  split
  · exact h.clearExchange
  · split
    · exact (h.modDriveSame x _ rfl rfl).startUnit _ _ _
    · split
      · exact h.startWrite _ _ _
      · exact h.startNote _ _
    · exact h.clearExchange
    · exact h.clearExchange

theorem continueTurn (h : Keeps a s) (x : DriveIx) : Keeps a (s.continueTurn x) :=
  ite (fun _ => h.frameUnit x) (fun _ => h.clearExchange)

theorem finishSurvey (h : Keeps a s) (v : Survey) : Keeps a (s.finishSurvey v) := by
  unfold State.finishSurvey
  dsimp only
  split
  · exact (h.modBurn _).modBurn _
  · exact (h.modBurn _).deferred _ _

theorem nextSurvey (h : Keeps a s) : Keeps a s.nextSurvey := by
  unfold State.nextSurvey
  split
  · exact h.modBurn _
  · split
    · split
      · exact h.modBurn _
      · exact (h.modBurn _).startUnit _ _ _
    · exact h.finishSurvey _

theorem discover (h : Keeps a s) : Keeps a s.discover := by
  unfold State.discover
  split
  · exact (h.modBurn _).startUnit _ _ _
  · exact h.modBurn _

theorem nextPoll (h : Keeps a s) (n : Nat) : Keeps a (s.nextPoll n) := by
  unfold State.nextPoll
  split
  · exact h.modBurn _
  · split
    · exact (h.modBurn _).startUnit _ _ _
    · exact h.discover

theorem endExchange (h : Keeps a s) : Keeps a s.endExchange := by
  unfold State.endExchange
  dsimp only
  split
  · exact h.clearExchange
  · exact h.clearExchange.nextSurvey
  · exact h.clearExchange.nextPoll _

theorem rotationTurn (h : Keeps a s) (x : DriveIx) : Keeps a (s.rotationTurn x) := by
  unfold State.rotationTurn
  dsimp only
  split
  · exact (h.modBurn _).startUnit _ _ _
  all_goals exact (h.modBurn _).frameUnit _

theorem startItem (h : Keeps a s) : Keeps a s.startItem := by
  unfold State.startItem
  split
  · exact h.startAbandon _
  · split
    · exact h.startUnit _ _ _
    · split
      · exact h.startUnit _ _ _
      · split
        · exact h.nextSurvey
        · split
          · exact (h.modBurn _).nextPoll _
          · split
            · exact h.rotationTurn _
            · exact h

theorem nextClosing (h : Keeps a s) : Keeps a s.nextClosing := by
  unfold State.nextClosing
  split
  · exact h.clearExchange
  · exact h.modBurn _

theorem writeSent (h : Keeps a s) (x : DriveIx) (k c : Nat) : Keeps a (s.writeSent x k c) := by
  unfold State.writeSent
  have h1 := h.modDriveSame x (fun d => { d with transfer := .sending (k + c) }) rfl rfl
  dsimp only
  split
  · exact (h1.oweAbandon x).endTurn x
  · exact h1.continueTurn x

theorem relaySent (h : Keeps a s) (x : DriveIx) : Keeps a (s.relaySent x) := by
  unfold State.relaySent
  split
  · exact h.modDriveSame _ _ rfl rfl
  all_goals exact h

theorem unitEnded (h : Keeps a s) (x : DriveIx) (u : BurnUnit) : Keeps a (s.unitEnded x u) := by
  cases u with
  | presenceAsk => exact h.setPhase _
  | statusAsk => exact h.setPhase _
  | spaceAsk _ _ _ => exact h.setPhase _
  | write _ _ k c _ => exact h.writeSent _ _ _
  | note _ _ _ => exact (h.modDriveSame x _ rfl rfl).setPhase _
  | abandon _ _ => exact h.clearExchange.discardHead _
  | driveCommand _ => exact (h.relaySent _).clearExchange

theorem takePresence (h : Keeps a s) (e : Exchange) (n : News) : Keeps a (s.takePresence e n) :=
  (h.presenceTaken _ _).endExchange

theorem requestEnded (h : Keeps a s) (e : Exchange) : Keeps a (s.requestEnded e) :=
  ite (fun _ => h.modDriveSame _ _ rfl rfl) (fun _ => h)

theorem takeStatus (h : Keeps a s) (e : Exchange) (n : News) : Keeps a (s.takeStatus e n) := by
  unfold State.takeStatus
  dsimp only
  apply endExchange
  split
  · exact ((h.answered _).requestEnded e).endRelease _ _
  · exact ((h.answered _).requestEnded e).applyNews _ _

theorem grantSpace (h : Keeps a s) (x : DriveIx) : Keeps a (s.grantSpace x) :=
  ite (fun _ => h.modDriveSame x _ rfl rfl) (fun _ => h)

theorem takeSpaceOk (h : Keeps a s) (e : Exchange) (n : News) : Keeps a (s.takeSpaceOk e n) := by
  unfold State.takeSpaceOk
  have h1 := ((h.answered e.drive).applyNews e.drive n).grantSpace e.drive
  dsimp only
  generalize State.grantSpace _ e.drive = u at h1 ⊢
  split
  · exact (h1.oweAbandon _).endTurn _
  · split
    · exact h1.continueTurn _
    · exact h1.clearExchange

theorem discardWithdrawn (h : Keeps a s) (x : DriveIx) : Keeps a (s.discardWithdrawn x) :=
  ite (fun _ => h.discardHead x) (fun _ => h)

theorem takeSpaceNo (h : Keeps a s) (e : Exchange) (n : News) : Keeps a (s.takeSpaceNo e n) :=
  (((((h.answered e.drive).modDriveSame e.drive (fun d => { d with spaceRefusals := d.spaceRefusals + 1 })
    rfl rfl).headWaiting e.drive).applyNews e.drive n).discardWithdrawn e.drive).clearExchange

theorem takeWriteDone (h : Keeps a s) (e : Exchange) (c : Word32) : Keeps a (s.takeWriteDone e c) := by
  unfold State.takeWriteDone
  have h1 := (((h.answered e.drive).modDriveSame e.drive (fun d => { d with framesWritten := d.framesWritten + 1 })
    rfl rfl).dropHead e.drive).applyNews e.drive (newsOfCapacity c)
  dsimp only
  generalize State.applyNews _ e.drive _ = u at h1 ⊢
  apply clearExchange
  split
  · exact h1.returnRecord _
  · exact h1

theorem oweWithdrawn (h : Keeps a s) (x : DriveIx) : Keeps a (s.oweWithdrawn x) :=
  ite (fun _ => h.oweAbandon x) (fun _ => h)

theorem takeWriteFail (h : Keeps a s) (e : Exchange) (n : News) : Keeps a (s.takeWriteFail e n) :=
  ((((((h.answered e.drive).headWaiting e.drive).applyNews e.drive n).raise _ _ _).setCondition e.drive _).oweWithdrawn
    e.drive).endTurn e.drive

theorem takeDriveAnswer (h : Keeps a s) (e : Exchange) (bs : List Byte) : Keeps a (s.takeDriveAnswer e bs) :=
  ((h.answered _).endRelay _ _).endExchange

theorem missStatus (h : Keeps a s) (e : Exchange) : Keeps a (s.missStatus e) := by
  unfold State.missStatus
  have h1 := (h.countMiss e.drive).requestEnded e
  dsimp only
  generalize (s.countMiss e.drive).requestEnded e = u at h1 ⊢
  apply endExchange
  split
  · exact h1.modDriveSame _ _ rfl rfl
  · exact h1

theorem missed (h : Keeps a s) (e : Exchange) (w : WindowKind) : Keeps a (s.missed e w) := by
  cases w with
  | presence => exact (h.countMiss _).endExchange
  | status => exact h.missStatus e
  | space => exact (((h.headWaiting _).countMiss _).discardWithdrawn _).clearExchange
  | done => exact (((h.headWaiting _).countMiss _).oweWithdrawn _).endTurn _

theorem withdrawHead (h : Keeps a s) (x : DriveIx) : Keeps a (s.withdrawHead x) :=
  ite (fun _ => h.modDriveSame _ _ rfl rfl) (fun _ => h.oweAbandon x)

theorem withdrawQueue (h : Keeps a s) (i : StreamIx) (x : DriveIx) : Keeps a (s.withdrawQueue i x) := by
  unfold State.withdrawQueue
  split
  · exact h
  · dsimp only
    split
    · exact (foldl State.returnRecord (fun s f => (refl s).returnRecord f) (h.modDrive x _ fun _ => rfl) _).withdrawHead x
    · exact foldl State.returnRecord (fun s f => (refl s).returnRecord f) (h.modDrive x _ fun _ => rfl) _

theorem withdrawFrames (h : Keeps a s) (i : StreamIx) : Keeps a (s.withdrawFrames i) := by
  unfold State.withdrawFrames
  exact foldl _ (fun s x => (refl s).withdrawQueue i x) h allDrives

end Sys2Proof.Machine.Keeps
end

