-- ==== Sys2Proof/Laws/KeepsControl.lean ====
section
/-! SUPPORT. What the owning rules, the interpreter and the return path keep. -/

namespace Sys2Proof.Machine

/-- What every owning rule keeps: as `Keeps`, but it may queue one immediate reply, and it may end the halt. -/
structure Answered (s t : State) : Prop where
  pending    : t.pending = s.pending
  control    : t.controlQueue = s.controlQueue
  immediates : t.ret.immediates ≤ s.ret.immediates + 1
  store      : s.store.Canonical → t.store.Canonical
  outbox     : s.ret.outbox.length ≤ Config.outboxDepth → t.ret.outbox.length ≤ Config.outboxDepth
  committed  : s.CommittedSums → t.CommittedSums

/-- What every owning rule but RESET_PART's keeps: as `Keeps`, but it may queue one immediate reply. -/
structure Owned (s t : State) : Prop where
  answered : Answered s t
  halted   : s.monitor.halted = true → t.monitor.halted = true

namespace Owned

variable {a s t : State}

theorem of_keeps (h : Keeps s t) : Owned s t :=
  ⟨⟨h.pending, h.control, by rw [h.immediates]; omega, h.store, h.outbox, h.committed⟩, h.halted⟩

theorem reply (h : Keeps s t) (tag : Word16) (r : Answer) : Owned s (t.queueReply true tag r) :=
  ⟨⟨h.pending, h.control, by
    have := h.immediates
    simp [ReturnPath.immediates, State.queueReply] at this ⊢
    omega, h.store, h.outbox, h.committed⟩, h.halted⟩

theorem done (h : Keeps s t) (tag : Word16) (r : Results) : Owned s (t.done tag r) := reply h tag _

theorem refuse (h : Keeps s t) (tag : Word16) (why : Reason) : Owned s (t.refuse tag why) := reply h tag _

theorem thenKeeps (h : Owned a s) (g : Keeps s t) : Owned a t :=
  ⟨⟨g.pending.trans h.answered.pending, g.control.trans h.answered.control, by
      rw [g.immediates]; exact h.answered.immediates, g.store ∘ h.answered.store, g.outbox ∘ h.answered.outbox,
    g.committed ∘ h.answered.committed⟩, g.halted ∘ h.halted⟩

end Owned

/-! ### The owning rules -/

namespace Keeps

variable {a s : State}

theorem configure (h : Keeps a s) (i : StreamIx) (cfg : StreamConfig) : Keeps a (s.configure i cfg) := by
  unfold State.configure
  exact (h.modStream i _).invalidate _

theorem setPlan (h : Keeps a s) (p : Fin 16) (x : List PlanStep) :
    Keeps a { s with plans := s.plans.set p (some x) } := h.same rfl rfl rfl rfl rfl rfl rfl

theorem prime (h : Keeps a s) (i : StreamIx) : Keeps a (s.prime i) := h.modStream i _

theorem beginDrain (h : Keeps a s) (i : StreamIx) (tag : Word16) : Keeps a (s.beginDrain i tag) := by
  unfold State.beginDrain
  have h1 := ((h.closeOpen i).modStream i fun r => { r with state := .draining, stopTag := some tag }).unparkStream i
  dsimp only
  generalize State.unparkStream _ i = u at h1 ⊢
  apply judgeFlow
  split
  · exact h1.startCadence i
  · exact h1

theorem emptyWindow (h : Keeps a s) (i : StreamIx) : Keeps a (s.emptyWindow i) := by
  unfold State.emptyWindow
  exact foldl State.returnRecord (fun s f => (refl s).returnRecord f) (h.modStream i _) _

theorem abort (h : Keeps a s) (i : StreamIx) : Keeps a (s.abort i) := by
  unfold State.abort
  exact ((((h.abandonWork i).emptyWindow i).withdrawFrames i).endSession i).answerStop i _

theorem hold (h : Keeps a s) (x : DriveIx) : Keeps a (s.hold x) := (h.setCondition x .held).modDriveSame x _ rfl rfl

theorem clearFault (h : Keeps a s) (k : FaultKind) : Keeps a (s.clearFault k) := by
  unfold State.clearFault
  have h1 := h.setFault k { s.fault k with pending := false, count := 0, firstScope := none }
  cases k with
  | storeCorrected => exact h1.modStore _ fun c => c
  | storeUncorrectable => exact h1.modStore _ fun c => c
  | _ => exact h1

theorem malformed (h : Keeps a s) (code : Nat) (tag : Word16) : Keeps a (State.malformed code tag s) := h.raise _ _ _

end Keeps

/-- Every drive after a reset holds nothing, so the sum of R138 is 0. -/
theorem committedSums_of_reset {s : State} (h : s.drives = State.reset.drives) : s.CommittedSums := by
  intro x
  have : s.drive x = DriveRec.reset := by simp [State.drive, h, State.reset]
  rw [this]
  rfl

namespace Owned

open Keeps in
/-- Each owning rule but RESET_PART's keeps what `Owned` says. -/
theorem owner (tag : Word16) (c : Command) (hc : c ≠ .resetPart) (s : State) : Owned s (State.owner tag c s) := by
  have k := Keeps.refl s
  cases c with
  | configureStream id f =>
    simp only [State.owner]
    unfold State.ownConfigureStream
    split
    · exact refuse k _ _
    · split
      · exact refuse k _ _
      · split
        · exact refuse k _ _
        · exact done (k.configure _ _) _ _
  | startStream id =>
    simp only [State.owner]
    unfold State.ownStartStream
    split
    · exact refuse k _ _
    · split
      · split
        · split
          · exact done ((k.bindDrives _ _ _).prime _) _ _
          · exact refuse k _ _
        · exact refuse k _ _
      · exact refuse k _ _
  | stopStream id =>
    simp only [State.owner]
    unfold State.ownStopStream
    split
    · exact refuse k _ _
    · split
      iterate 3 exact of_keeps (k.beginDrain _ _).takeWork
      all_goals exact refuse k _ _
  | abortStream id =>
    simp only [State.owner]
    unfold State.ownAbortStream
    split
    · exact refuse k _ _
    · split
      · exact (done (k.abort _) _ _).thenKeeps (Keeps.refl _).takeWork
      · exact refuse k _ _
  | streamStatus id =>
    simp only [State.owner]
    unfold State.ownStreamStatus
    split
    · exact refuse k _ _
    · exact done k _ _
  | setStore v =>
    simp only [State.owner]
    unfold State.ownSetStore
    split
    · exact refuse k _ _
    · exact done (k.modStore _ fun c => c) _ _
  | storeStatus p x =>
    simp only [State.owner]
    unfold State.ownStoreStatus
    split
    · exact refuse k _ _
    · exact done k _ _
    · split
      · exact done k _ _
      · exact refuse k _ _
  | purgeDirectory id =>
    simp only [State.owner]
    unfold State.ownPurgeDirectory
    split
    · exact done (k.invalidate _) _ _
    · split
      · exact refuse k _ _
      · exact done (k.invalidate _) _ _
  | readDirectory m n =>
    simp only [State.owner]
    unfold State.ownReadDirectory
    split
    · exact done k _ _
    · exact refuse k _ _
  | loadPlan p n steps =>
    simp only [State.owner]
    unfold State.ownLoadPlan
    split
    · exact refuse k _ _
    · split
      · split
        · exact refuse k _ _
        · split
          · exact done (k.setPlan _ _) _ _
          · exact refuse k _ _
      · exact refuse k _ _
  | readPlan p =>
    simp only [State.owner]
    unfold State.ownReadPlan
    split
    · exact refuse k _ _
    · exact done k _ _
  | engineStatus =>
    simp only [State.owner]
    unfold State.ownEngineStatus
    exact done (Keeps.same k (t := { s with freshIndex := s.freshIndex + 4 }) rfl rfl rfl rfl rfl rfl rfl) _ _
  | setSlotPattern id p =>
    simp only [State.owner]
    unfold State.ownSetSlotPattern
    split
    · exact refuse k _ _
    · split
      · exact refuse k _ _
      · split
        · exact refuse k _ _
        · exact done (k.modStream _ _) _ _
  | setLink f m =>
    simp only [State.owner]
    unfold State.ownSetLink
    split
    · split
      · exact done (k.modBurn _) _ _
      · exact refuse k _ _
    · exact refuse k _ _
  | survey =>
    simp only [State.owner]
    unfold State.ownSurvey
    split
    · exact refuse k _ _
    · exact of_keeps (k.modBurn _)
  | driveStatus x =>
    simp only [State.owner]
    unfold State.ownDriveStatus
    split
    · exact done k _ _
    · split
      · exact done k _ _
      · exact refuse k _ _
  | holdDrive x =>
    simp only [State.owner]
    unfold State.ownHoldDrive
    split
    · exact refuse k _ _
    · split
      · exact refuse k _ _
      · split
        · exact refuse k _ _
        · exact done (k.hold _) _ _
  | releaseDrive x =>
    simp only [State.owner]
    unfold State.ownReleaseDrive
    split
    · exact refuse k _ _
    · split
      · exact refuse k _ _
      · split
        · exact refuse k _ _
        · split
          · exact done k _ _
          · exact done (k.modDriveSame _ _ rfl rfl) _ _
  | passToDrive x n bs =>
    simp only [State.owner]
    unfold State.ownPassToDrive
    split
    · exact refuse k _ _
    · split
      · split
        · exact refuse k _ _
        · split
          · exact refuse k _ _
          · exact of_keeps (k.modDriveSame _ _ rfl rfl)
      · exact refuse k _ _
  | bookWatch w f =>
    simp only [State.owner]
    unfold State.ownBookWatch
    split
    · exact refuse k _ _
    · split
      · exact refuse k _ _
      · split
        · exact refuse k _ _
        · exact done (k.setWatch _ _) _ _
  | cancelWatch w =>
    simp only [State.owner]
    unfold State.ownCancelWatch State.changeBooked
    split
    · exact refuse k _ _
    · split
      · exact refuse k _ _
      · exact done (k.changeWatch _ _ _) _ _
  | rearmWatch w =>
    simp only [State.owner]
    unfold State.ownRearmWatch State.changeBooked
    split
    · exact refuse k _ _
    · split
      · exact refuse k _ _
      · exact done (k.changeWatch _ _ _) _ _
  | releaseWatch w =>
    simp only [State.owner]
    unfold State.ownReleaseWatch State.changeBooked
    split
    · exact refuse k _ _
    · split
      · exact refuse k _ _
      · exact done (k.changeWatch _ _ _) _ _
  | readFaults =>
    simp only [State.owner]
    unfold State.ownReadFaults
    exact done k _ _
  | clearFaults n ks =>
    simp only [State.owner]
    unfold State.ownClearFaults
    split
    · split
      · exact refuse k _ _
      · exact done (Keeps.foldl State.clearFault (fun s x => (Keeps.refl s).clearFault x) k _) _ _
    · exact refuse k _ _
  | setFaultActions n ps =>
    simp only [State.owner]
    unfold State.ownSetFaultActions
    split
    · split
      · exact refuse k _ _
      · exact done (Keeps.foldl State.setAction (fun s x => (Keeps.refl s).setFault _ _) k _) _ _
    · exact refuse k _ _
  | identify =>
    simp only [State.owner]
    unfold State.ownIdentify
    exact done k _ _
  | resetPart => exact absurd rfl hc

end Owned

namespace Answered

/-- RESET_PART keeps what `Answered` says. -/
theorem ownResetPart (tag : Word16) (s : State) : Answered s (State.ownResetPart tag s) := by
  have h1 : Owned s (s.done tag (.resetPart s.monitor.halted)) := Owned.done (Keeps.refl s) _ _
  exact ⟨h1.answered.pending, h1.answered.control, h1.answered.immediates, fun c => Store.canonical_afterReset _ c,
    fun _ => by simp [State.ownResetPart, State.resetPart, ReturnPath.afterReset], fun _ => committedSums_of_reset rfl⟩

/-- Every owning rule keeps it. -/
theorem owner (tag : Word16) (c : Command) (s : State) : Answered s (State.owner tag c s) := by
  by_cases hc : c = .resetPart
  · subst hc
    exact ownResetPart tag s
  · exact (Owned.owner tag c hc s).answered

/-- The common checks keep it too (R156). -/
theorem judgeUnit (u : ControlUnit) (s : State) : Answered s (State.judgeUnit u s) := by
  have k := Keeps.refl s
  unfold State.judgeUnit
  split
  · exact (Owned.of_keeps (k.malformed _ _)).answered
  · split
    · exact (Owned.refuse k _ _).answered
    · exact (Owned.refuse k _ _).answered
  · split
    · exact (Owned.refuse k _ _).answered
    · split
      · exact (Owned.refuse k _ _).answered
      · exact owner _ _ _

/-- A unit other than a RESET_PART leaves a HALTED part HALTED (R158). -/
theorem judgeUnit_halted (u : ControlUnit) (hu : u.form ≠ .command .resetPart) (s : State)
    (hh : s.monitor.halted = true) : (State.judgeUnit u s).monitor.halted = true := by
  have k := Keeps.refl s
  unfold State.judgeUnit
  split
  · exact (k.malformed _ _).halted hh
  · split
    · exact hh
    · exact hh
  · rename_i c hc
    split
    · exact hh
    · split
      · exact hh
      · exact (Owned.owner _ c (fun e => hu (by rw [hc, e])) s).halted hh

end Answered

/-! ### Events, with the interpreter and the return path -/

/-- What every event keeps. -/
structure Sound (s t : State) : Prop where
  pending   : t.pending = s.pending
  queues    : s.QueuesFit → t.QueuesFit
  store     : s.store.Canonical → t.store.Canonical
  committed : s.CommittedSums → t.CommittedSums
  halted    : s.StaysHalted → t.StaysHalted

namespace Sound

variable {a s t : State}

theorem refl (s : State) : Sound s s := ⟨rfl, id, id, id, id⟩

theorem trans (h : Sound a s) (g : Sound s t) : Sound a t :=
  ⟨g.pending.trans h.pending, g.queues ∘ h.queues, g.store ∘ h.store, g.committed ∘ h.committed, g.halted ∘ h.halted⟩

theorem of_keeps (h : Keeps s t) : Sound s t :=
  ⟨h.pending, fun q => ⟨by rw [h.control]; exact q.1, by rw [h.immediates]; exact q.2.1, h.outbox q.2.2⟩, h.store,
   h.committed, fun ⟨h1, h2⟩ => ⟨h.halted h1, by rw [State.ResetWaits, h.control]; exact h2⟩⟩

/-- The arbiter takes one unit and leaves the rest (R163). -/
theorem next_shrinks {r r' : ReturnPath} {u : ReturnUnit} (h : r.next = some (u, r')) :
    r'.immediates ≤ r.immediates ∧ r'.outbox.length ≤ r.outbox.length := by
  unfold ReturnPath.next at h
  split at h <;> simp only [Option.some.injEq, Prod.mk.injEq, reduceCtorEq] at h
  · rw [← h.2]; exact ⟨le_refl _, le_refl _⟩
  · rw [← h.2]; exact ⟨le_refl _, le_refl _⟩
  · rename_i q rest _ _ hr
    rw [← h.2]
    refine ⟨?_, le_refl _⟩
    simp only [ReturnPath.immediates, hr, List.filter_cons]
    split <;> simp
  · rename_i ho
    rw [← h.2]
    exact ⟨le_refl _, by simp [ho]⟩

/-- What `kick` keeps, more closely. -/
theorem kick_spec (s : State) : s.kick.pending = s.pending ∧ s.kick.controlQueue = s.controlQueue ∧
    s.kick.store = s.store ∧ s.kick.drives = s.drives ∧ s.kick.ret.immediates ≤ s.ret.immediates ∧
    s.kick.ret.outbox.length ≤ s.ret.outbox.length ∧ s.kick.monitor = s.monitor := by
  unfold State.kick
  split
  · rename_i h
    have := next_shrinks h
    exact ⟨rfl, rfl, rfl, rfl, this.1, this.2, rfl⟩
  · exact ⟨rfl, rfl, rfl, rfl, le_refl _, le_refl _, rfl⟩

theorem kick (h : Sound a s) : Sound a s.kick := by
  obtain ⟨h1, h2, h3, h4, h5, h6, h7⟩ := kick_spec s
  refine h.trans ⟨h1, fun q => ⟨by rw [h2]; exact q.1, h5.trans q.2.1, h6.trans q.2.2⟩, by rw [h3]; exact id,
    fun c x => ?_, fun g => ⟨by rw [h7]; exact g.1, by rw [State.ResetWaits, h2]; exact g.2⟩⟩
  have := c x
  simpa [State.drive, h4] using this

/-- Taking a unit, when the interpreter can (R155). -/
theorem takeUnit (h : Sound a s) (hc : s.canTake = true) : Sound a s.takeUnit := by
  unfold State.takeUnit
  split
  · exact h
  · rename_i u rest hq
    have o := Answered.judgeUnit u { s with controlQueue := rest }
    refine h.trans ⟨o.pending, fun q => ⟨?_, ?_, o.outbox q.2.2⟩, o.store, o.committed, fun g => ⟨?_, ?_⟩⟩
    · rw [o.control]
      have := q.1
      rw [hq] at this
      simp at this ⊢
      omega
    · simp [State.canTake] at hc
      exact o.immediates.trans hc.2
    · refine Answered.judgeUnit_halted u (fun e => g.2 ⟨u, ?_, e⟩) _ g.1
      rw [hq]
      exact List.mem_cons_self
    · rw [State.ResetWaits, o.control]
      intro ⟨v, hv, hf⟩
      refine g.2 ⟨v, ?_, hf⟩
      rw [hq]
      exact List.mem_cons_of_mem _ hv

theorem drainFor : ∀ (n : Nat) (s : State), Sound a s → Sound a (State.drainFor n s)
  | 0, _, h => h
  | n + 1, s, h => by
    unfold State.drainFor
    split
    · exact drainFor n _ (h.takeUnit ‹_›).kick
    · exact h

theorem settle (h : Sound a s) : Sound a s.settle := drainFor 9 _ h.kick

end Sound

/-- What the arrival of a unit on stream 0 keeps: all that `Sound` says, but for a RESET_PART the halt. -/
structure Arrived (s t : State) : Prop where
  pending   : t.pending = s.pending
  queues    : s.QueuesFit → t.QueuesFit
  store     : s.store.Canonical → t.store.Canonical
  committed : s.CommittedSums → t.CommittedSums

namespace Arrived

variable {s t u : State}

theorem of_sound (h : Sound s t) : Arrived s t := ⟨h.pending, h.queues, h.store, h.committed⟩

theorem trans (h : Arrived s t) (g : Arrived t u) : Arrived s u :=
  ⟨g.pending.trans h.pending, g.queues ∘ h.queues, g.store ∘ h.store, g.committed ∘ h.committed⟩

theorem enqueueUnit (u : ControlUnit) (s : State) : Arrived s (State.enqueueUnit u s) := by
  unfold State.enqueueUnit
  split
  · rename_i hlt
    refine ⟨rfl, fun q => ⟨?_, q.2⟩, id, id⟩
    simpa using hlt
  · exact of_sound (Sound.of_keeps ((Keeps.refl s).malformed _ _))

theorem arriveControl (u : ControlUnit) (s : State) : Arrived s (State.arriveControl u s) :=
  (enqueueUnit u s).trans (of_sound (Sound.refl _).settle)

end Arrived

/-- A unit other than a RESET_PART leaves a HALTED part HALTED (R158). -/
theorem StaysHalted.arriveControl {u : ControlUnit} (hu : u.form ≠ .command .resetPart) {s : State}
    (h : s.StaysHalted) : (State.arriveControl u s).StaysHalted := by
  unfold State.arriveControl
  refine ((Sound.refl _).settle).halted ?_
  unfold State.enqueueUnit
  split
  · refine ⟨h.1, fun ⟨v, hv, hf⟩ => ?_⟩
    rcases List.mem_append.mp hv with hv | hv
    · exact h.2 ⟨v, hv, hf⟩
    · rw [List.mem_singleton.mp hv] at hf
      exact hu hf
  · exact (Sound.of_keeps ((Keeps.refl s).malformed _ _)).halted h

end Sys2Proof.Machine
end

