-- ==== Sys2Proof/Laws/KeepsEvents.lean ====
section
/-! SUPPORT. What each event keeps: one lemma per meaning's state function, below `exec`. -/

namespace Sys2Proof.Machine

namespace Arrived

theorem poweredOn (s : State) : Arrived s s.poweredOn :=
  ⟨rfl, fun _ => ⟨Nat.zero_le _, Nat.zero_le _, Nat.zero_le _⟩, fun _ => Store.canonical_reset,
   fun _ => committedSums_of_reset rfl⟩

theorem resetCommand (tag : Word16) (s : State) : Arrived s (s.command tag .resetPart) := arriveControl _ s

end Arrived

namespace Sound

variable (s : State)

theorem sweepDone : Sound s s.sweepDone := by
  unfold State.sweepDone
  split
  · exact of_keeps ((Keeps.refl s).modStore _ fun _ => ⟨rfl, rfl, rfl⟩)
  · exact refl s

theorem linkLost : Sound s s.linkLost := by
  unfold State.linkLost
  split
  · exact of_keeps (((Keeps.refl s).same (t := { s with linkUp := false }) rfl rfl rfl rfl rfl rfl rfl).raise _ _ _)
  · exact refl s

theorem linkReturned : Sound s s.linkReturned := by
  unfold State.linkReturned
  split
  · exact refl s
  · exact settle (of_keeps ((Keeps.refl s).same
      (t := { s with linkUp := true, ret := { s.ret with flowSet := s.rebuiltFlow } }) rfl rfl rfl rfl rfl rfl rfl))

theorem unitSent : Sound s s.unitSent := by
  unfold State.unitSent
  have h : Keeps s { s with ret := { s.ret with sending := none } } := (Keeps.refl s).same rfl rfl rfl rfl rfl rfl rfl
  dsimp only
  generalize ({ s with ret := { s.ret with sending := none } } : State) = u at h ⊢
  split
  · exact of_keeps (h.askTransmitted _)
  · exact of_keeps h
  · exact of_keeps h
  · exact of_keeps h
  · exact of_keeps h
  · exact refl s

theorem returnUnitEnded : Sound s s.returnUnitEnded := by
  unfold State.returnUnitEnded
  split
  · exact (unitSent s).settle
  · exact refl s

theorem routeStream (i : StreamIx) (kind : Byte) (body : List Byte) : Keeps s (s.routeStream i kind body) := by
  have k := Keeps.refl s
  unfold State.routeStream State.routeFrameOpen State.routeStripe State.routeFrameClose
  split
  · exact k
  · split
    · split
      · exact (k.takeFrameOpen _ _ _).takeWork
      · exact k.stray _ _
    · split
      · split
        · split
          · exact (k.takeResend _ _).takeWork
          · exact k.takeStripeUnit _ _
        · exact k.stray _ _
      · split
        · split
          · exact (k.takeFrameClose _ _).takeWork
          · exact k.stray _ _
        · exact k.stray _ _

/-- A unit on a stream other than 0 (R6). -/
theorem routeFrames (kind stream : Byte) (body : List Byte) (h : stream ≠ 0) : Sound s (s.route kind stream body) := by
  unfold State.route
  rw [if_neg h]
  split
  · exact (of_keeps (routeStream s _ _ _)).kick
  · exact (of_keeps ((Keeps.refl s).raise _ _ _)).kick

theorem cadenceEvent (i : StreamIx) : Sound s (s.cadenceEvent i) := by
  unfold State.cadenceEvent
  split
  · exact (of_keeps ((Keeps.refl s).cadenceExpired i).takeWork).kick
  · exact refl s

theorem composeCompleted (c : Fin 4) (flips : List Flip) : Sound s (s.composeCompleted c flips) := by
  unfold State.composeCompleted
  have h := (Keeps.refl s).strikeAll flips
  split
  · exact refl s
  · dsimp only
    generalize s.modStore _ = u at h ⊢
    split
    · exact (of_keeps (h.composeDone _ _ _ _ _ _).takeWork).kick
    · exact (of_keeps (h.composeDone _ _ _ _ _ _).takeWork).kick
    · exact refl s
    · exact refl s

theorem verifyCompleted (c : Fin 4) (flips : List Flip) : Sound s (s.verifyCompleted c flips) := by
  unfold State.verifyCompleted
  have h := (Keeps.refl s).strikeAll flips
  generalize s.modStore _ = u at h ⊢
  split
  · exact refl s
  · split
    · exact (of_keeps (h.verifyDone _ _ _).takeWork).kick
    all_goals exact refl s

theorem refetchTimerEnded (c : Fin 4) : Sound s (s.refetchTimerEnded c) := by
  unfold State.refetchTimerEnded
  split
  · exact refl s
  · split
    · exact (of_keeps ((Keeps.refl s).refetchExpired _ _ _ _ _).takeWork).kick
    all_goals exact refl s

theorem pollExpired : Sound s s.pollExpired := by
  unfold State.pollExpired
  split
  · exact of_keeps ((Keeps.refl s).modBurn _)
  · exact refl s

theorem turnBoundary : Sound s s.turnBoundary := by
  unfold State.turnBoundary
  split
  · exact (of_keeps (Keeps.refl s).startItem).kick
  · exact refl s

theorem burnUnitSent : Sound s s.burnUnitSent := by
  unfold State.burnUnitSent
  split
  · exact refl s
  · split
    · exact refl s
    · exact refl s
    · refine kick (of_keeps ?_)
      split
      · exact (Keeps.refl s).nextClosing
      · exact (Keeps.refl s).unitEnded _ _

theorem burnReadDone (k : Nat) (flips : List Flip) : Sound s (s.burnReadDone k flips) := by
  unfold State.burnReadDone
  have h := (Keeps.refl s).strikeAll flips
  generalize s.modStore _ = u at h ⊢
  split
  · exact refl s
  · rename_i e _
    split
    · exact refl s
    · exact refl s
    · split
      · rename_i x f _ _
        have h1 := h.readSlot .burn x f.stripeSize
        dsimp only
        generalize u.readSlot .burn x f.stripeSize = r at h1 ⊢
        have h2 : Keeps s (if r.1 = true then r.2.2.markFlaw e.drive k else r.2.2) :=
          Keeps.ite (fun _ => h1.markFlaw _ _) (fun _ => h1)
        refine kick (of_keeps ?_)
        split
        · exact h2.sendWrite _ _ _ _ _
        · exact h2.setPhase _
      · exact refl s

theorem answerNews (kind : Byte) (w : WindowKind) (u : BurnAnswer) (take : State → Exchange → News → State)
    (ht : ∀ e n, Keeps s (take s e n)) : Sound s (s.answerNews kind w u take) := by
  unfold State.answerNews
  split
  · exact (of_keeps (ht _ _)).kick
  · exact refl s

theorem answerDone (u : BurnAnswer) : Sound s (s.answerDone u) := by
  unfold State.answerDone
  split
  · exact (of_keeps ((Keeps.refl s).takeWriteDone _ _)).kick
  · exact refl s

theorem answerRelay (u : BurnAnswer) : Sound s (s.answerRelay u) := by
  unfold State.answerRelay
  split
  · split
    · exact (of_keeps ((Keeps.refl s).takeDriveAnswer _ _)).kick
    · exact refl s
  · exact refl s

theorem windowMissed : Sound s s.windowMissed := by
  unfold State.windowMissed
  split
  · exact refl s
  · split
    · exact refl s
    · exact refl s
    · exact (of_keeps ((Keeps.refl s).missed _ _)).kick

theorem relayExpired (x : DriveIx) : Sound s (s.relayExpired x) := by
  unfold State.relayExpired
  split
  · exact (of_keeps ((Keeps.refl s).endRelay _ _)).kick
  · exact refl s

end Sound

namespace Arrived

variable (s : State)

theorem receive (kind : Byte) (u : IngestUnit) : Arrived s (s.receive kind u) := by
  unfold State.receive
  split
  · by_cases h : u.stream = 0
    · unfold State.route
      rw [if_pos h]
      exact arriveControl _ _
    · exact of_sound (Sound.routeFrames s _ _ _ h)
  · exact of_sound (Sound.refl s)

theorem receiveBytes (bytes : List Byte) : Arrived s (s.receiveBytes bytes) := by
  unfold State.receiveBytes
  split
  · exact receive s _ _
  · exact of_sound (Sound.refl s)

end Arrived

namespace StaysHalted

/-- A unit that brings no RESET_PART leaves a HALTED part HALTED (R158). -/
theorem receive {s : State} (h : s.StaysHalted) (kind : Byte) (u : IngestUnit)
    (hu : (readControl kind u.body).form ≠ .command .resetPart) : (s.receive kind u).StaysHalted := by
  unfold State.receive
  split
  · by_cases h0 : u.stream = 0
    · unfold State.route
      rw [if_pos h0]
      exact arriveControl hu h
    · exact (Sound.routeFrames s _ _ _ h0).halted h
  · exact h

/-- A unit of a frame kind on stream 0 is malformed, and so is no RESET_PART (R157). -/
theorem frameKind_brings_none (kind : Byte) (hk : kind ≠ kindControl) (body : List Byte) :
    (readControl kind body).form ≠ .command .resetPart := by
  unfold readControl
  rw [if_pos hk]
  simp

end StaysHalted

end Sys2Proof.Machine
end

