-- ==== Sys2Proof/Laws/PerInstr.lean ====
section
/-! SUPPORT. Statements that hold of every command as syntax, made per constructor. `NoWord`: the table gives no row any
bits, so no word spells the command. -/

namespace Sys2Proof.Laws.NoWord

/-- No word of the table spells the command: the rows of spec/opcode_table.json give no bits. -/
def Statement (i : Instr) : Prop := ∀ nbits w : Nat, decodeTableWord nbits w ≠ some i

theorem powerOn : Statement .powerOn := by intro _ _ e; cases e

theorem sweepCompletion : Statement .sweepCompletion := by intro _ _ e; cases e

theorem linkDown : Statement .linkDown := by intro _ _ e; cases e

theorem linkUp : Statement .linkUp := by intro _ _ e; cases e

theorem frameOpen (u : IngestUnit) : Statement (.frameOpen u) := by intro _ _ e; cases e

theorem stripe (u : IngestUnit) : Statement (.stripe u) := by intro _ _ e; cases e

theorem stripeResend (u : IngestUnit) : Statement (.stripeResend u) := by intro _ _ e; cases e

theorem frameClose (u : IngestUnit) : Statement (.frameClose u) := by intro _ _ e; cases e

theorem control (u : IngestUnit) : Statement (.control u) := by intro _ _ e; cases e

theorem unknownCommand (tag : Word16) (code : Byte) (params : List Byte) :
    Statement (.unknownCommand tag code params) := by intro _ _ e; cases e

theorem configureStream (tag : Word16) (stream : Byte) (fields : ConfigFields) :
    Statement (.configureStream tag stream fields) := by intro _ _ e; cases e

theorem startStream (tag : Word16) (stream : Byte) : Statement (.startStream tag stream) := by intro _ _ e; cases e

theorem stopStream (tag : Word16) (stream : Byte) : Statement (.stopStream tag stream) := by intro _ _ e; cases e

theorem abortStream (tag : Word16) (stream : Byte) : Statement (.abortStream tag stream) := by intro _ _ e; cases e

theorem streamStatus (tag : Word16) (stream : Byte) : Statement (.streamStatus tag stream) := by intro _ _ e; cases e

theorem setStore (tag : Word16) (setting : Byte) : Statement (.setStore tag setting) := by intro _ _ e; cases e

theorem storeStatus (tag : Word16) (present : Byte) (slot : Word16) :
    Statement (.storeStatus tag present slot) := by intro _ _ e; cases e

theorem purgeDirectory (tag : Word16) (stream : Byte) :
    Statement (.purgeDirectory tag stream) := by intro _ _ e; cases e

theorem readDirectory (tag : Word16) (first count : Byte) :
    Statement (.readDirectory tag first count) := by intro _ _ e; cases e

theorem loadPlan (tag : Word16) (plan count : Byte) (steps : List StepFields) :
    Statement (.loadPlan tag plan count steps) := by intro _ _ e; cases e

theorem readPlan (tag : Word16) (plan : Byte) : Statement (.readPlan tag plan) := by intro _ _ e; cases e

theorem engineStatus (tag : Word16) : Statement (.engineStatus tag) := by intro _ _ e; cases e

theorem setSlotPattern (tag : Word16) (stream pattern : Byte) :
    Statement (.setSlotPattern tag stream pattern) := by intro _ _ e; cases e

theorem setLink (tag : Word16) (factor mode : Byte) : Statement (.setLink tag factor mode) := by intro _ _ e; cases e

theorem survey (tag : Word16) : Statement (.survey tag) := by intro _ _ e; cases e

theorem driveStatus (tag : Word16) (address : Byte) : Statement (.driveStatus tag address) := by intro _ _ e; cases e

theorem holdDrive (tag : Word16) (address : Byte) : Statement (.holdDrive tag address) := by intro _ _ e; cases e

theorem releaseDrive (tag : Word16) (address : Byte) :
    Statement (.releaseDrive tag address) := by intro _ _ e; cases e

theorem passToDrive (tag : Word16) (address count : Byte) (bytes : List Byte) :
    Statement (.passToDrive tag address count bytes) := by intro _ _ e; cases e

theorem bookWatch (tag : Word16) (watch : Byte) (fields : WatchFields) :
    Statement (.bookWatch tag watch fields) := by intro _ _ e; cases e

theorem cancelWatch (tag : Word16) (watch : Byte) : Statement (.cancelWatch tag watch) := by intro _ _ e; cases e

theorem rearmWatch (tag : Word16) (watch : Byte) : Statement (.rearmWatch tag watch) := by intro _ _ e; cases e

theorem releaseWatch (tag : Word16) (watch : Byte) : Statement (.releaseWatch tag watch) := by intro _ _ e; cases e

theorem readFaults (tag : Word16) : Statement (.readFaults tag) := by intro _ _ e; cases e

theorem clearFaults (tag : Word16) (count : Byte) (kinds : List Byte) :
    Statement (.clearFaults tag count kinds) := by intro _ _ e; cases e

theorem setFaultActions (tag : Word16) (count : Byte) (pairs : List (Byte × Byte)) :
    Statement (.setFaultActions tag count pairs) := by intro _ _ e; cases e

theorem identify (tag : Word16) : Statement (.identify tag) := by intro _ _ e; cases e

theorem resetPart (tag : Word16) : Statement (.resetPart tag) := by intro _ _ e; cases e

theorem cadenceExpiry (stream : Fin 12) : Statement (.cadenceExpiry stream) := by intro _ _ e; cases e

theorem composeCompletion (context : Fin 4) (flips : List Flip) :
    Statement (.composeCompletion context flips) := by intro _ _ e; cases e

theorem verifyCompletion (context : Fin 4) (flips : List Flip) :
    Statement (.verifyCompletion context flips) := by intro _ _ e; cases e

theorem refetchTimerExpiry (context : Fin 4) : Statement (.refetchTimerExpiry context) := by intro _ _ e; cases e

theorem returnUnitEnd : Statement .returnUnitEnd := by intro _ _ e; cases e

theorem pollTimerExpiry : Statement .pollTimerExpiry := by intro _ _ e; cases e

theorem turnBoundary : Statement .turnBoundary := by intro _ _ e; cases e

theorem burnUnitEnd : Statement .burnUnitEnd := by intro _ _ e; cases e

theorem burnReadCompletion (stripe : Byte) (flips : List Flip) :
    Statement (.burnReadCompletion stripe flips) := by intro _ _ e; cases e

theorem presenceAnswer (u : BurnAnswer) : Statement (.presenceAnswer u) := by intro _ _ e; cases e

theorem statusAnswer (u : BurnAnswer) : Statement (.statusAnswer u) := by intro _ _ e; cases e

theorem spaceOk (u : BurnAnswer) : Statement (.spaceOk u) := by intro _ _ e; cases e

theorem spaceNo (u : BurnAnswer) : Statement (.spaceNo u) := by intro _ _ e; cases e

theorem writeDone (u : BurnAnswer) : Statement (.writeDone u) := by intro _ _ e; cases e

theorem writeFail (u : BurnAnswer) : Statement (.writeFail u) := by intro _ _ e; cases e

theorem driveAnswer (u : BurnAnswer) : Statement (.driveAnswer u) := by intro _ _ e; cases e

theorem missedAnswer : Statement .missedAnswer := by intro _ _ e; cases e

theorem relayWindowExpiry (drive : Fin 8) : Statement (.relayWindowExpiry drive) := by intro _ _ e; cases e

theorem unknownUnitKind (bytes : List Byte) : Statement (.unknownUnitKind bytes) := by intro _ _ e; cases e

end Sys2Proof.Laws.NoWord
end

