-- ==== Sys2Proof/Laws/Settle.lean ====
section
/-! SUPPORT. When the interpreter and the return path are at rest, a unit on stream 0 is judged at once: the lemmas that
bring a command row down to its owning rule (R155, R156). -/

namespace Sys2Proof.Machine

/-- With an empty control queue only the arbiter moves. -/
theorem State.settle_of_empty (s : State) (h : s.controlQueue = []) : s.settle = s.kick := by
  have hk : s.kick.controlQueue = [] := by rw [(Sound.kick_spec s).2.1, h]
  simp [State.settle, State.drainFor, State.canTake, hk]

/-- Nothing begins on the return path of a part at rest when the control queue changes. -/
theorem State.Rested.withQueue {s : State} (h : s.Rested) (q : List ControlUnit) :
    ({ s with controlQueue := q } : State).kick = { s with controlQueue := q } := by
  unfold State.Rested State.kick at h
  unfold State.kick
  split at h
  · rename_i h1 h2 h3
    have e := congrArg (·.ret.sending) h
    simp [h2] at e
  · rfl

/-- A unit that arrives at a free interpreter is judged at once (R155, R156). -/
theorem State.arriveControl_taken (u : ControlUnit) (s : State) (h : s.TakesUnits) :
    State.arriveControl u s = (State.judgeUnit u s).kick := by
  obtain ⟨hq, hi, hr⟩ := h
  have he : State.enqueueUnit u s = { s with controlQueue := [u] } := by
    simp [State.enqueueUnit, hq, Config.controlQueueDepth]
  have hs : ({ s with controlQueue := [] } : State) = s := by
    obtain ⟨⟩ := s
    simp at hq
    simp [hq]
  have hj : (State.judgeUnit u s).kick.controlQueue = [] := by
    rw [(Sound.kick_spec _).2.1, (Answered.judgeUnit u s).control, hq]
  simp only [State.arriveControl, he, State.settle, hr.withQueue]
  unfold State.drainFor
  simp only [State.canTake, List.isEmpty_cons, Bool.not_false, Bool.true_and, hi, decide_true, if_true, State.takeUnit,
    hs]
  unfold State.drainFor
  simp [State.canTake, hj]

/-- A command that arrives at a part that takes commands goes to its owning rule (R156). -/
theorem State.command_taken (tag : Word16) (c : Command) (s : State) (h : s.TakesCommands)
    (hf : commandForm c = .command c) : s.command tag c = (State.owner tag c s).kick := by
  obtain ⟨hu, hs, hh⟩ := h
  rw [State.command, State.arriveControl_taken _ _ hu]
  simp [State.judgeUnit, hf, hs, hh]

end Sys2Proof.Machine
end

