-- ==== Sys2Proof/Laws/Work.lean ====
section
/-! SUPPORT. How a step begins at its immediate check, and what taking work does (R57, R60 to R68, R70, R72, R73, R77, R79;
log 6). -/

namespace Sys2Proof.Machine.State

/-! ### Immediate checks (R60 to R68) -/

/-- A slot is there for the asking. -/
theorem askSlot_some {s : State} {x : Slot} {rest : List Slot} (h : s.store.freeList = x :: rest) (i : StreamIx) :
    s.askSlot i = (some x, { s with store := { s.store with
      freeList := rest, holders := Table.set 0 x.val 1 s.store.holders } }) := by
  simp [askSlot, Store.alloc, h]

/-- No slot is free (R33). -/
theorem askSlot_none {s : State} (h : s.store.freeList = []) (i : StreamIx) :
    s.askSlot i = (none, s.raise .storeFull 0 (BitVec.ofNat 32 (streamId i))) := by
  simp [askSlot, Store.alloc, h]

/-- Claims change the store alone. -/
theorem claimAll_eq (s : State) (xs : List Slot) : xs.foldl claim s = { s with store := xs.foldl Store.claim s.store } := by
  induction xs generalizing s with
  | nil => rfl
  | cons x xs ih =>
    rw [List.foldl_cons, ih]
    rfl

theorem neighbourInputs_eq {n k : Nat} {edge : Bool} {ks : List Nat} (h : NeighbourInputs n k edge ks) :
    neighbourInputs n k edge = some ks := by
  obtain ⟨h1, h | h | h⟩ := h
  · obtain ⟨rfl, rfl, rfl⟩ := h
    simp [neighbourInputs, show ¬ n ≤ 1 by omega]
  · obtain ⟨h2, h3, rfl, rfl⟩ := h
    simp [neighbourInputs, show ¬ n ≤ 1 by omega, h2, ← h3]
  · obtain ⟨h2, h3, rfl⟩ := h
    simp [neighbourInputs, show ¬ n ≤ 1 by omega, show ¬ k = 0 by omega, show ¬ k = n - 1 by omega]

theorem asNeighbour_eq {x : StripeRec} {p : Slot × Nat} (h : x.UsableAsNeighbour) (h1 : x.slot = some p.1)
    (h2 : x.generation = some p.2) : x.asNeighbour = some p := by
  unfold StripeRec.asNeighbour
  rw [h1, h2]
  exact if_pos h

theorem asNeighbour_none {x : StripeRec} (h : ¬ x.UsableAsNeighbour) : x.asNeighbour = none := if_neg h

theorem gatherNeighbours_none (f : FrameRec) : ∀ ks : List Nat,
    (∃ m ∈ ks, ∀ x, f.stripes[m]? = some x → ¬ x.UsableAsNeighbour) → gatherNeighbours f ks = none
  | [], h => by simp at h
  | k :: ks, ⟨m, hm, h⟩ => by
    unfold gatherNeighbours
    rcases List.mem_cons.1 hm with rfl | hm
    · cases hx : f.stripes[m]? with
      | none => simp [FrameRec.stripeAt, hx]
      | some x => simp [FrameRec.stripeAt, hx, asNeighbour_none (h x hx)]
    · rw [gatherNeighbours_none f ks ⟨m, hm, h⟩]
      split <;> simp_all

theorem gatherNeighbours_some (f : FrameRec) {ks : List Nat} {inputs : List (Slot × Nat)}
    (h : List.Forall₂ (fun (m : Nat) (p : Slot × Nat) => ∃ x, f.stripes[m]? = some x ∧ x.UsableAsNeighbour ∧
      x.slot = some p.1 ∧ x.generation = some p.2) ks inputs) : gatherNeighbours f ks = some inputs := by
  induction h with
  | nil => rfl
  | cons h _ ih =>
    obtain ⟨x, h1, h2, h3, h4⟩ := h
    unfold gatherNeighbours
    rw [ih]
    simp [FrameRec.stripeAt, h1, asNeighbour_eq h2 h3 h4]

theorem foldl_max_lt {l : List Nat} {a m : Nat} (ha : a < m) (h : ∀ x ∈ l, x < m) : l.foldl max a < m := by
  induction l generalizing a with
  | nil => exact ha
  | cons x l ih => exact ih (by have := h x (by simp); omega) fun y hy => h y (by simp [hy])

theorem le_foldl_max {l : List Nat} {a : Nat} : a ≤ l.foldl max a ∧ ∀ x ∈ l, x ≤ l.foldl max a := by
  induction l generalizing a with
  | nil => simp
  | cons x l ih =>
    obtain ⟨h1, h2⟩ := ih (a := max a x)
    rw [List.foldl_cons]
    refine ⟨by omega, fun y hy => ?_⟩
    rcases List.mem_cons.1 hy with rfl | hy
    · omega
    · exact h2 y hy

/-- The generation of a NEIGHBOUR result (R61 check 3). -/
theorem neighbour_generation {inputs : List (Slot × Nat)} {gen : Nat} (h1 : ∀ p ∈ inputs, p.2 < gen)
    (h2 : ∃ p ∈ inputs, gen = p.2 + 1) : (inputs.map (·.2)).foldl max 0 + 1 = gen := by
  obtain ⟨p, hp, e⟩ := h2
  have a := foldl_max_lt (l := inputs.map (·.2)) (a := 0) (m := gen) (by omega) (by
    intro x hx
    obtain ⟨q, hq, rfl⟩ := List.mem_map.1 hx
    exact h1 q hq)
  have b := (le_foldl_max (l := inputs.map (·.2)) (a := 0)).2 p.2 (List.mem_map_of_mem hp)
  omega

/-- The immediate check of NEIGHBOUR on its inputs (R61). -/
theorem beginNeighbour_eq {s : State} {j : Job} {f : FrameRec} {edge : Bool} {ks : List Nat} (c : Fin 4) (ix : Nat)
    (hf : s.frame j.stream j.number = some f) (hk : NeighbourInputs f.stripeCount j.stripe edge ks) :
    ((∃ m ∈ ks, ∀ x, f.stripes[m]? = some x → ¬ x.UsableAsNeighbour) →
      s.beginNeighbour c j ix edge = (.failed, s)) ∧
    (∀ inputs : List (Slot × Nat), List.Forall₂ (fun (m : Nat) (p : Slot × Nat) => ∃ x, f.stripes[m]? = some x ∧
        x.UsableAsNeighbour ∧ x.slot = some p.1 ∧ x.generation = some p.2) ks inputs →
      ((∃ p ∈ inputs, 3 ≤ p.2) → s.beginNeighbour c j ix edge = (.failed, s)) ∧
      (∀ gen, (∀ p ∈ inputs, p.2 < gen) → (∃ p ∈ inputs, gen = p.2 + 1) → gen ≤ 3 →
        (s.store.freeList = [] → s.beginNeighbour c j ix edge =
          (.failed, s.raise .storeFull 0 (BitVec.ofNat 32 (streamId j.stream)))) ∧
        (∀ y rest, s.store.freeList = y :: rest → s.beginNeighbour c j ix edge =
          (.begun, { s with store := (inputs.map Prod.fst).foldl Store.claim { s.store with
            freeList := rest, holders := Table.set 0 y.val 1 s.store.holders } }.setContext c
              (some { job := j, step := ix, op := .neighbour (inputs.map Prod.fst) y gen }))))) := by
  unfold beginNeighbour
  rw [hf]
  dsimp only
  rw [neighbourInputs_eq hk, Option.bind_some]
  refine ⟨fun h => by rw [gatherNeighbours_none f ks h], fun inputs hi => ?_⟩
  rw [gatherNeighbours_some f hi]
  dsimp only
  refine ⟨fun ⟨p, hp, h3⟩ => ?_, fun gen h1 h2 h3 => ?_⟩
  · have b := (le_foldl_max (l := inputs.map (·.2)) (a := 0)).2 p.2 (List.mem_map_of_mem hp)
    rw [if_pos (by omega)]
  · rw [neighbour_generation h1 h2, if_neg (by omega)]
    refine ⟨fun h => by rw [askSlot_none h], fun y rest h => ?_⟩
    rw [askSlot_some h]
    simp [claimAll_eq]

theorem successorOf_append {n : Word32} {f : FrameRec} {after : List FrameRec} (hf : f.number = n) :
    ∀ before : List FrameRec, (∀ q ∈ before, q.number ≠ n) → successorOf n (before ++ f :: after) = after.head?
  | [], _ => by
    cases after with
    | nil => rfl
    | cons g rest => simp [successorOf, hf]
  | q :: before, h => by
    have ih := successorOf_append (after := after) hf before fun x hx => h x (by simp [hx])
    have hq : (q.number == n) = false := by simpa using h q (by simp)
    cases before with
    | nil => simpa [successorOf, hq] using ih
    | cons r before =>
      rw [List.cons_append, List.cons_append, successorOf, if_neg (by simp [hq])]
      exact ih

/-- A lone stripe, and an edge without edge copy, have no inputs (R61 check 1). -/
theorem beginNeighbour_edge {s : State} {j : Job} {f : FrameRec} {edge : Bool} (c : Fin 4) (ix : Nat)
    (h : s.frame j.stream j.number = some f)
    (hx : f.stripeCount = 1 ∨ (edge = false ∧ (j.stripe = 0 ∨ j.stripe = f.stripeCount - 1))) :
    s.beginNeighbour c j ix edge = (.failed, s) := by
  have : neighbourInputs f.stripeCount j.stripe edge = none := by
    unfold neighbourInputs
    rcases hx with hx | ⟨rfl, hx | hx⟩
    · simp [hx]
    · simp [hx]
    · simp only [← hx]
      split
      · rfl
      · split <;> rfl
  unfold beginNeighbour
  rw [h]
  dsimp only
  rw [this]
  rfl

/-- The immediate check of BLEND behind its lookup (R65, R77). -/
theorem beginBlend_eq {s : State} {j : Job} {d : Donor} {before after : List FrameRec} {f : FrameRec} {maxAge : Nat}
    (c : Fin 4) (ix : Nat) (hd : s.dir.lookup j.stream j.stripe (Directory.bounded j.number maxAge) = some d)
    (hw : (s.stream j.stream).window = before ++ f :: after) (hn : f.number = j.number)
    (hb : ∀ q ∈ before, q.number ≠ j.number) :
    (after = [] ∨ (∃ g rest, after = g :: rest ∧ g.state = .opened) →
      ((s.stream j.stream).state.takesFrames = true → s.beginBlend c j ix maxAge = (.parked, s.parkStripe c j)) ∧
      ((s.stream j.stream).state.takesFrames = false → s.beginBlend c j ix maxAge = (.failed, s))) ∧
    (∀ g rest, after = g :: rest → g.state ≠ .opened →
      ((∀ x, g.stripes[j.stripe]? = some x → x.state ≠ .sound) → s.beginBlend c j ix maxAge = (.failed, s)) ∧
      (∀ x y, g.stripes[j.stripe]? = some x → x.state = .sound → x.slot = some y →
        (s.store.freeList = [] → s.beginBlend c j ix maxAge =
          (.failed, s.raise .storeFull 0 (BitVec.ofNat 32 (streamId j.stream)))) ∧
        (∀ z free, s.store.freeList = z :: free → s.beginBlend c j ix maxAge =
          (.begun, { s with store := (Store.claim { s.store with
            freeList := free, holders := Table.set 0 z.val 1 s.store.holders } d.slot).claim y }.setContext c
              (some { job := j, step := ix, op := .blend d g.number y z }))))) := by
  have hs := successorOf_append (after := after) hn before hb
  rw [← hw] at hs
  unfold beginBlend
  simp only [hd, hs]
  refine ⟨?_, ?_⟩
  · rintro (rfl | ⟨g, rest, rfl, hg⟩)
    · exact ⟨fun h => if_pos h, fun h => if_neg (by simp [h])⟩
    · simp only [List.head?, if_pos hg]
      exact ⟨fun h => if_pos h, fun h => if_neg (by simp [h])⟩
  · rintro g rest rfl hg
    simp only [List.head?, if_neg hg]
    refine ⟨fun h => ?_, fun x y h1 h2 h3 => ⟨fun h => ?_, fun z free h => ?_⟩⟩
    · cases e : g.stripes[j.stripe]? with
      | none => simp [FrameRec.stripeAt, e]
      | some x => simp [FrameRec.stripeAt, e, StripeRec.asSuccessor, h x e]
    · simp [FrameRec.stripeAt, h1, StripeRec.asSuccessor, h2, h3, askSlot_none h]
    · simp [FrameRec.stripeAt, h1, StripeRec.asSuccessor, h2, h3, askSlot_some h]
      rfl

/-- The steps of the plan that a stripe's cause names (R57). -/
theorem jobSteps_eq {s : State} {j : Job} {cfg : StreamConfig} {x : StripeRec} {cause : Cause} {steps : List PlanStep}
    (h1 : (s.stream j.stream).config = some cfg) (h2 : s.stripe j = some x) (h3 : x.cause = some cause)
    (h4 : s.plans[cfg.planFor cause] = some steps) : s.jobSteps j = steps := by
  simp [jobSteps, jobPlan, planSteps, h1, h2, h3, h4]

/-! ### Running steps and taking work (R72, R73; log 6) -/

theorem runSteps_stepsRun (c : Fin 4) (j : Job) (ix : Nat) (steps : List PlanStep) (s : State) (f : FrameRec)
    (st : StripeRec) (h : s.frame j.stream j.number = some f) (hs : f.stripeAt j.stripe = some st) :
    s.StepsRun (runSteps c j ix steps s) c j ix steps f st := by
  intro step rest e a v hv
  subst e
  rw [runSteps, hv]
  refine ⟨fun ha => ?_, fun ha => ?_⟩
  · cases a <;> first | rfl | exact absurd rfl ha
  · subst ha
    exact failStep_stepsFail c j rest step ix v f st ((beginStep_failed hv _ _).trans h) hs

/-- A context takes a stripe (R70, R72). -/
theorem takeStripe_takes (s : State) (c : Fin 4) (j : Job) (f : FrameRec) (st : StripeRec)
    (h : s.frame j.stream j.number = some f) (hs : f.stripes[j.stripe]? = some st) :
    s.Takes (s.takeStripe c j) c j f st := by
  intro stripes u hst hu
  have hl := (List.getElem?_eq_some_iff.1 hs).1
  have h1 := frame_modStripe (fun x => { x with state := .repairing }) h hs
  have hd : ({ f with stripes := stripes } : FrameRec).damagedNow = 0 ↔ ¬ ∃ y ∈ stripes, y.state = .damaged := by
    simp [FrameRec.damagedNow, List.filter_eq_nil_iff]
  have ht : s.takeStripe c j = runSteps c j (((u.stripe j).map (·.resume)).getD 0)
      ((u.jobSteps j).drop (((u.stripe j).map (·.resume)).getD 0)) u := by
    unfold takeStripe
    simp only [h1, ← hst]
    by_cases hx : ∃ y ∈ stripes, y.state = .damaged
    · rw [if_pos hx] at hu
      rw [if_neg (by rw [hd]; exact not_not.2 hx), hu]
      rfl
    · rw [if_neg hx] at hu
      rw [if_pos (hd.2 hx), hu]
      rfl
  have hf : u.frame j.stream j.number = some { f with stripes := stripes } := by
    rw [hst, ← h1, hu]
    rfl
  have hsu : ({ f with stripes := stripes } : FrameRec).stripeAt j.stripe = some { st with state := .repairing } := by
    simp [FrameRec.stripeAt, hst, hl]
  have hx : u.stripe j = some { st with state := .repairing } := by simp [stripe, hf, hsu]
  have hy : s.stripe j = some st := by
    simp only [stripe, h, Option.bind_some]
    exact hs
  have hc : (u.stream j.stream).config = (s.stream j.stream).config := by
    rw [hu]
    show ((s.modStripe j fun x => { x with state := .repairing }).stream j.stream).config = _
    rw [modStripe, stream_modFrame_same]
  have hp : u.plans = s.plans := by
    rw [hu]
    rfl
  have hjob : u.jobSteps j = s.jobSteps j := by
    simp [jobSteps, jobPlan, hx, hy, hc, planSteps, hp]
  rw [ht, hx]
  simp only [Option.map_some, Option.getD_some, hjob]
  exact runSteps_stepsRun c j st.resume _ u _ _ hf hsu

theorem freeFrom_turn {s : State} {k : Nat} {c : Fin 4} (h : s.TurnOf k c) : s.freeFrom k = some c := by
  have hl : allContexts = List.finRange 4 := by decide
  have key : ∀ P : Fin 4 → Bool, P c = true → (∀ d, d < c → P d = false) → allContexts.find? P = some c := by
    intro P h1 h2
    rw [hl, List.find?_eq_some_iff_getElem]
    refine ⟨h1, c.val, by simp, by simp, fun i hi => ?_⟩
    rw [List.getElem_finRange]
    simpa using h2 ⟨i, by omega⟩ hi
  have isn : ∀ d, s.context d ≠ none → (s.context d).isNone = false := fun d hd => by cases e : s.context d <;> simp_all
  obtain ⟨h0, ⟨h1, h2⟩ | ⟨h1, h2, h3⟩⟩ := h
  · unfold freeFrom
    rw [key _ (by simp [h1, h0]) fun d hd => ?_]
    by_cases hk : k ≤ d.val
    · simp [isn d (h2 d hk hd)]
    · simp [hk]
  · unfold freeFrom
    rw [show (allContexts.find? fun c => decide (k ≤ c.val) && (s.context c).isNone) = none from ?_]
    · exact key _ (by simp [h0]) fun d hd => isn d (h3 d hd)
    · rw [List.find?_eq_none]
      intro d _
      by_cases hk : k ≤ d.val
      · simp [isn d (h2 d hk)]
      · simp [hk]

theorem nextWork_some {s : State} {k : Nat} {c : Fin 4} {j : Job} {f : FrameRec} {st : StripeRec} (h : s.TurnOf k c)
    (g : s.NextStripe j f st) : s.nextWork k = some (c, j) := by
  obtain ⟨g1, ⟨before, r, after, q1, q2, q3, q4, q5⟩, g3, g4, g5, g6⟩ := g
  have hq : (s.engine.queue.find? fun r => (s.stream r.stream).state != .stopped) = some r := by
    rw [q1, List.find?_append]
    rw [show (before.find? fun r => (s.stream r.stream).state != .stopped) = none from ?_]
    · simp [q3]
    · rw [List.find?_eq_none]
      intro x hx
      simp [q2 x hx]
  have hi : (f.stripes.findIdx? fun st => st.state == .damaged) = some j.stripe := by
    obtain ⟨hl, he⟩ := List.getElem?_eq_some_iff.1 g4
    rw [List.findIdx?_eq_some_iff_getElem]
    refine ⟨hl, by simp [he, g5], fun m hm => ?_⟩
    have := g6 m f.stripes[m] hm (List.getElem?_eq_getElem (by omega))
    simpa using this
  unfold nextWork
  rw [if_neg (by simp [g1]), freeFrom_turn h, hq]
  dsimp only
  rw [← q4, ← q5, g3, Option.bind_some, hi]

theorem nextWork_none {s : State} {k : Nat} (h : (∀ c, s.context c ≠ none) ∨ ∀ j f st, ¬ s.NextStripe j f st) :
    s.nextWork k = none := by
  unfold nextWork
  split
  · rfl
  · rename_i hh
    split
    · rename_i c r hc hr
      split
      · rename_i m hm
        exfalso
        rcases h with h | h
        · have : s.context c = none := by
            unfold freeFrom at hc
            split at hc
            · rename_i c' hc'
              cases hc
              have := List.find?_some hc'
              simp at this
              exact this.2
            · simpa using List.find?_some hc
          exact h c this
        · obtain ⟨f, hf, hx⟩ := Option.bind_eq_some_iff.1 hm
          obtain ⟨hl, h1, h2⟩ := List.findIdx?_eq_some_iff_getElem.1 hx
          obtain ⟨hp, before, after, e, hb⟩ := List.find?_eq_some_iff_append.1 hr
          refine h { stream := r.stream, number := r.number, stripe := m } f f.stripes[m] ⟨by simpa using hh,
            ⟨before, r, after, e, fun q hq => by simpa using hb q hq, by simpa using hp, rfl, rfl⟩, hf,
            List.getElem?_eq_getElem hl, by simpa using h1, fun m' y hm' hy => ?_⟩
          obtain ⟨hl', rfl⟩ := List.getElem?_eq_some_iff.1 hy
          simpa using h2 m' hm'
      · rfl
    · rfl

/-- Rounds of taking work (R72; log 6). -/
theorem takeWorkFor_workTaken (n : Nat) : ∀ (k : Nat) (s : State), State.WorkTaken n k s (takeWorkFor n k s) := by
  induction n with
  | zero => exact fun _ _ => rfl
  | succ n ih =>
    intro k s
    refine ⟨fun h => ?_, fun c j f st h g => ?_⟩
    · unfold takeWorkFor
      rw [nextWork_none h]
    · refine ⟨s.takeStripe c j, takeStripe_takes s c j f st g.2.2.1 g.2.2.2.1, ?_⟩
      unfold takeWorkFor
      rw [nextWork_some h g]
      exact ih _ _

theorem takeWork_workTaken (s : State) : State.WorkTaken 6913 0 s s.takeWork := takeWorkFor_workTaken 6913 0 s

/-- Nothing is taken in HALTED, or when no stripe waits or no context is FREE (R72). -/
theorem takeWork_rests (s : State) (h : s.monitor.halted = true ∨ s.NoWork) : s.takeWork = s := by
  have : s.nextWork 0 = none := by
    rcases h with h | h | h
    · simp [nextWork, h]
    · exact nextWork_none (.inr fun j f st g => by
        obtain ⟨_, ⟨before, r, after, e, _⟩, _⟩ := g
        simp [h] at e)
    · exact nextWork_none (.inl fun c e => by simpa [e] using h c)
  unfold takeWork
  rw [takeWorkFor, this]

end Sys2Proof.Machine.State
end

