-- ==== Sys2Proof/Tests/Slice0.lean ====
section
/-! SUPPORT. Tests: the well-formedness checks with an ill-formed term for each, the spec's worked values, single steps on
small states, and for every statement with hypotheses a state and operands that meet them. -/

namespace Sys2Proof.Tests

open Sys2Proof Sys2Proof.Machine

/-! ### Well-formedness -/

/-- An ingest unit to a stream with a body, its length and check as they may be. -/
def unitTo (stream : Byte) (body : List Byte) : IngestUnit := { stream := stream, len := 0, body := body, check := 0 }

/-- A drive's unit with a body. -/
def answerOf (body : List Byte) : BurnAnswer :=
  { address := 1, factor := 8, zero := 0, len := 0, body := body, check := 0 }

theorem test_frameOpen_wellFormed :
    (Instr.frameOpen (unitTo 1 [])).wellFormed = true ∧ (Instr.frameOpen (unitTo 12 [])).wellFormed = true ∧
    (Instr.frameOpen (unitTo 0 [])).wellFormed = false ∧ (Instr.frameOpen (unitTo 13 [])).wellFormed = false := by decide

theorem test_frameClose_wellFormed :
    (Instr.frameClose (unitTo 1 [])).wellFormed = true ∧ (Instr.frameClose (unitTo 0 [])).wellFormed = false := by decide

theorem test_stripe_wellFormed :
    (Instr.stripe (unitTo 1 [])).wellFormed = true ∧ (Instr.stripe (unitTo 0 [])).wellFormed = false ∧
    (Instr.stripe (unitTo 1 [0, 0, 0, 0, 0, 2, 0, 0])).wellFormed = false := by decide

theorem test_stripeResend_wellFormed :
    (Instr.stripeResend (unitTo 1 [0, 0, 0, 0, 0, 2, 0, 0])).wellFormed = true ∧
    (Instr.stripeResend (unitTo 1 [0, 0, 0, 0, 0, 1, 0, 0])).wellFormed = false ∧
    (Instr.stripeResend (unitTo 13 [0, 0, 0, 0, 0, 2, 0, 0])).wellFormed = false := by decide

theorem test_control_wellFormed :
    (Instr.control (unitTo 0 [])).wellFormed = true ∧ (Instr.control (unitTo 1 [])).wellFormed = false := by decide

/-- Bodies of any length exist. -/
theorem test_bodies (n : Nat) : ∃ body : List Byte, body.length = n := ⟨List.replicate n 0, List.length_replicate⟩

theorem test_body_length_wellFormed (body : List Byte) :
    (body.length = 16392 → (unitTo 1 body).fits = true) ∧ (body.length = 16393 → (unitTo 1 body).fits = false) ∧
    (body.length = 16398 → (answerOf body).fits = true) ∧ (body.length = 16399 → (answerOf body).fits = false) := by
  simp +contextual [IngestUnit.fits, BurnAnswer.fits, unitTo, answerOf]

theorem test_long_units_illFormed (body : List Byte) (h : body.length = 16393) :
    (Instr.frameOpen (unitTo 1 body)).wellFormed = false ∧ (Instr.stripe (unitTo 1 body)).wellFormed = false ∧
    (Instr.stripeResend (unitTo 1 body)).wellFormed = false ∧ (Instr.control (unitTo 0 body)).wellFormed = false ∧
    (Instr.frameClose (unitTo 1 body)).wellFormed = false ∧
    (Instr.unknownCommand 0 0 body).wellFormed = false := by
  simp [Instr.wellFormed, IngestUnit.fits, unitTo, h]

theorem test_long_answers_illFormed (u : BurnAnswer) (h : u.body.length = 16399) :
    (Instr.presenceAnswer u).wellFormed = false ∧ (Instr.statusAnswer u).wellFormed = false ∧
    (Instr.spaceOk u).wellFormed = false ∧ (Instr.spaceNo u).wellFormed = false ∧
    (Instr.writeDone u).wellFormed = false ∧ (Instr.writeFail u).wellFormed = false ∧
    (Instr.driveAnswer u).wellFormed = false := by
  simp [Instr.wellFormed, BurnAnswer.fits, h]

theorem test_unknownCommand_wellFormed :
    (Instr.unknownCommand 0 0 []).wellFormed = true ∧ (Instr.unknownCommand 0 29 []).wellFormed = true ∧
    (Instr.unknownCommand 0 1 []).wellFormed = false ∧ (Instr.unknownCommand 0 28 []).wellFormed = false := by decide

theorem test_lists_wellFormed :
    (Instr.loadPlan 0 0 0 []).wellFormed = false ∧
    (Instr.loadPlan 0 0 9 (List.replicate 9 ⟨1, 0, 0, 0⟩)).wellFormed = false ∧
    (Instr.passToDrive 0 1 0 []).wellFormed = false ∧ (Instr.passToDrive 0 1 33 (List.replicate 33 0)).wellFormed = false ∧
    (Instr.clearFaults 0 0 []).wellFormed = false ∧ (Instr.clearFaults 0 12 (List.replicate 12 1)).wellFormed = false ∧
    (Instr.setFaultActions 0 0 []).wellFormed = false ∧
    (Instr.setFaultActions 0 12 (List.replicate 12 (1, 0))).wellFormed = false := by decide

theorem test_burnReadCompletion_wellFormed :
    (Instr.burnReadCompletion 71 []).wellFormed = true ∧ (Instr.burnReadCompletion 72 []).wellFormed = false := by decide

theorem test_unknownUnitKind_wellFormed :
    (Instr.unknownUnitKind [9, 1, 0, 0, 0, 0]).wellFormed = true ∧
    (Instr.unknownUnitKind [1, 13, 0, 0, 0, 0]).wellFormed = true ∧
    (Instr.unknownUnitKind [1, 1, 0, 0, 0, 0]).wellFormed = false ∧
    (Instr.unknownUnitKind [9, 1, 0, 0, 0]).wellFormed = false := by decide

/-! ### Worked values of the spec -/

/-- R178's example: the check of "123456789" is 29B1h. -/
theorem test_crc : crc16 [0x31, 0x32, 0x33, 0x34, 0x35, 0x36, 0x37, 0x38, 0x39] = 0x29B1#16 := by
  decide +kernel

/-- Means round half up and do not wrap (R62). -/
theorem test_mean : meanSample 3 4 = 4 ∧ meanSample 0xFFFF 0xFFFF = 0xFFFF ∧ meanSample 0 0xFFFF = 0x8000 := by decide

/-- The table of home sets in 03 "Home sets". -/
theorem test_home_sets :
    homeSet 0 52 = 73 ∧ homeSet 1 31 = 73 ∧ homeSet 2 10 = 73 ∧ homeSet 4 9 = 114 ∧ homeSet 11 0 = 252 ∧
    homeSet 11 4 = 0 ∧ homeSet 11 70 = 66 := by decide

/-- Data sectors and sector need of the largest and the smallest frame (R3). -/
theorem test_sectors : dataSectors 72 16384 = 576 ∧ sectorNeed 72 16384 = 577 ∧ sectorNeed 1 512 = 2 := by decide

/-! ### Small states -/

/-- A part after the sweep with two free slots, the link DOWN and nothing under way. -/
def idle : State := { State.reset with
  store := { State.reset.store with sweeping := false, freeList := [5, 6] } }

/-- A configuration of one stripe with fill frames. -/
def cfg0 : StreamConfig :=
  { stripes := 1, stripeSize := 512, planFlagged := 0, planCorrupt := 0, planAbsent := 0, depth := 2, period := 900,
    pattern := 1, primary := 0, partner := none, genLimit := 3, fallback := .reference, fillAllowed := true }

/-- A frame record of one stripe. -/
def frame0 (n : Word32) (st : FrameState) (x : StripeRec) : FrameRec :=
  { FrameRec.opened cfg0 0 n 0 with state := st, stripes := [x] }

/-- Stream 1 with a state and a window, its cadence timer running at position 0. -/
def stream0 (st : StreamState) (w : List FrameRec) : StreamRec :=
  { StreamRec.reset with
    state := st, config := some cfg0, window := w
    cadence := { Cadence.reset with period := some 900, pattern := some 1, running := true } }

/-- The part with stream 1 so. -/
def streaming (st : StreamState) (w : List FrameRec) : State := idle.setStream 0 (stream0 st w)

/-- The part with drive 1 changed. -/
def driven (s : State) (f : DriveRec → DriveRec) : State := s.modDrive 0 f

/-- The part with an exchange in flight for drive 1. -/
def exchanging (s : State) (p : Purpose) (ph : Phase) : State :=
  { s with burn := { s.burn with exchange := some { drive := 0, purpose := p, factor := .x8, phase := ph } } }

/-- A HALTED part. -/
def halted : State := { idle with monitor := { idle.monitor with halted := true } }

theorem rested_of_down (s : State) (h : s.linkUp = false) : s.Rested := by simp [State.Rested, State.kick, h]

theorem takesUnits (s : State) (h1 : s.controlQueue = []) (h2 : s.linkUp = false) (h3 : s.ret.replies = []) :
    s.TakesUnits := ⟨h1, by simp [ReturnPath.immediates, h3], rested_of_down s h2⟩

theorem takesCommands (s : State) (h1 : s.controlQueue = []) (h2 : s.linkUp = false) (h3 : s.ret.replies = [])
    (h4 : s.store.sweeping = false) (h5 : s.monitor.halted = false) : s.TakesCommands := ⟨takesUnits s h1 h2 h3, h4, h5⟩

theorem idle_takes : idle.TakesCommands := takesCommands _ rfl rfl rfl rfl rfl

theorem idle_units : idle.TakesUnits := idle_takes.1

theorem noWork (s : State) (h : s.engine.queue = []) : s.NoWork := Or.inl h

/-! ### Single steps -/

/-- IDENTIFY at a part at rest queues its reply. -/
theorem test_step_identify : step { idle with pending := [.identify 7] } =
    .next (idle.done 7 (.identify false)) := by rfl

/-- A read of the sweep's progress is refused with STARTING. -/
theorem test_step_starting : step { State.reset with pending := [.identify 7] } =
    .next (State.reset.refuse 7 .starting) := by rfl

/-- A queue runs from its front. -/
theorem test_step_rest : ∃ t, step { idle with pending := [.pollTimerExpiry, .linkUp] } = .next t ∧
    t.pending = [.linkUp] := ⟨_, rfl, rfl⟩

/-- The first turn boundary asks drive 1 for its presence, for the survey at start-up. -/
theorem test_step_survey : ∃ t, step { idle with pending := [.turnBoundary] } = .next t ∧
    t.burn.exchange = some { drive := 0, purpose := .survey, factor := .x8, phase := .sending .presenceAsk } :=
  ⟨_, rfl, rfl⟩

/-- A dispatch slot with an empty window and no drive stalls a RUNNING stream and slips. -/
theorem test_step_stall : ∃ t, exec (.cadenceExpiry 0) (streaming .running []) = .next t ∧
    (t.stream 0).state = .stalled ∧ (t.stream 0).counters[Counter.slips.ix] = 1 ∧ (t.stream 0).cadence.position = 1 :=
  ⟨_, rfl, by decide, by decide, by decide⟩

/-! ### The statements' hypotheses can be met: the part -/

/-- An ingest unit that is accepted. -/
theorem accepted (kind stream : Byte) (body : List Byte) (h : body.length < 65536) :
    ingestAccepted kind (buildIngest kind stream body) = true := by
  simp [ingestAccepted, buildIngest, Nat.mod_eq_of_lt h]

/-- An answer that is accepted. -/
theorem acceptedAnswer (kind address factor : Byte) (body : List Byte) (h : body.length < 65536) :
    burnAccepted kind (buildAnswer kind address factor body) = true := by
  simp [burnAccepted, buildAnswer, Nat.mod_eq_of_lt h]

/-- A reply waiting in an immediate place. -/
def waiting : QueuedReply := { immediate := true, reply := { tag := 0, answer := .done .empty } }

/-- A context that waits on the second of three tries for stripe 0 of frame 1 of stream 1. -/
def refetching (left : Nat) : Busy :=
  { job := { stream := 0, number := 1, stripe := 0 }, step := 0, op := .refetch 2 left 5 true true }

/-- A damaged stripe on a slot. -/
def damaged0 (st : StripeState) : StripeRec :=
  { StripeRec.expected with state := st, cause := some .flagged, slot := some 9 }

/-- Stream 1 RUNNING with frame 1 CLOSED, its stripe worked on by context 0. -/
def repairing (b : Busy) : State :=
  (streaming .running [frame0 1 .closed (damaged0 .repairing)]).setContext 0 (some b)

theorem test_hyps_StepIdlesOnAnEmptyQueue : State.reset.pending = [] := rfl

theorem test_hyps_StepKeeps : idle.QueuesFit ∧ idle.StoreCanonical ∧ idle.CommittedSums ∧ step idle = .next idle :=
  ⟨by unfold State.QueuesFit; decide, ⟨rfl, rfl, rfl⟩, by unfold State.CommittedSums; decide, rfl⟩

theorem test_hyps_HaltIsLeftOnlyByReset : halted.StaysHalted ∧ Instr.linkUp ≠ .powerOn ∧ ¬ bringsReset .linkUp ∧
    ∃ t, exec .linkUp halted = .next t :=
  ⟨⟨rfl, fun ⟨_, h, _⟩ => nomatch h⟩, by decide, id, _, rfl⟩

theorem test_hyps_SweepAndLink : State.reset.store.sweeping = true ∧ { idle with linkUp := true }.linkUp = true ∧
    idle.linkUp = false := ⟨rfl, rfl, rfl⟩

theorem test_hyps_ArbiterTakesTheFirstClass :
    let f : FlowUnit := { stream := 0, pause := true }
    let a : Ask := { context := 0, job := (refetching 1).job, tryNo := 1 }
    let n : Notice := { source := .fault .stray, scope := 0, detail := 0 }
    let r : ReturnPath := { sending := none, flowSet := [f], asks := [a], replies := [waiting], outbox := [n] }
    r.flowSet = f :: [] ∧ { r with flowSet := [] }.asks = a :: [] ∧
    { r with flowSet := [], asks := [] }.replies = waiting :: [] ∧
    { r with flowSet := [], asks := [], replies := [] }.outbox = n :: [] ∧
    { r with flowSet := [], asks := [], replies := [], outbox := [] }.outbox = [] ∧
    ({ idle with linkUp := true, ret := r }).ret.next = some (.flow f, { r with flowSet := [] }) ∧
    idle.linkUp = false := ⟨rfl, rfl, rfl, rfl, rfl, rfl, rfl⟩

theorem test_hyps_ReturnUnitEndGoesOn :
    let s := { idle with ret := { idle.ret with sending := some (.reply { tag := 0, answer := .done .empty }) } }
    let q := { repairing (refetching 1) with ret := { idle.ret with
      sending := some (.ask { context := 0, job := (refetching 1).job, tryNo := 2 } true) } }
    s.ret.sending = some (.reply { tag := 0, answer := .done .empty }) ∧ q.context 0 = some (refetching 1) :=
  ⟨rfl, rfl⟩

theorem test_hyps_SettleLeavesNothingTakeable :
    ({ idle with controlQueue := List.replicate 8 { tag := 0, form := .unknown } }).controlQueue.length ≤ 8 := by decide

/-! ### Frame units -/

theorem test_hyps_DiscardedUnitsHaveNoEffect :
    State.reset.store.sweeping = true ∧ halted.monitor.halted = true ∧ State.reset.Rested ∧ halted.Rested ∧
    streamOf 1 = some 0 ∧ streamOf 12 = some 11 ∧ ingestAccepted kindStripe (unitTo 1 [0]) = false ∧
    ([1, 2, 3, 4, 5] : List Byte).length < 6 ∧
    (∃ k u, frameIngest [9, 1, 1, 0, 0, 0] = some (k, u) ∧ ingestAccepted k u = false) ∧
    burnAccepted kindSpaceOk (answerOf [0]) = false :=
  ⟨rfl, rfl, rested_of_down _ rfl, rested_of_down _ rfl, rfl, rfl, by decide, by decide, ⟨_, _, rfl, by decide⟩,
   by decide⟩

/-- The stream's last frame number set. -/
def numbered (s : State) (n : Option Word32) : State := s.modStream 0 fun r => { r with lastNumber := n }

theorem test_hyps_FrameOpenInOrderIsAccepted :
    let s := streaming .priming [frame0 0 .resolved StripeRec.expected]
    s.TakesFrames ∧ (s.stream 0).state.takesFrames = true ∧ (s.stream 0).config = some cfg0 ∧ s.openNumber 0 = none ∧
    (s.stream 0).lastNumber = none ∧ (s.stream 0).window.length < cfg0.depth ∧ s.recordFree = true ∧ s.NoWork ∧
    ((s.stream 0).state = .priming ∧ (s.stream 0).window.length + 1 = cfg0.depth) ∧
    ((numbered s (some 0)).stream 0).lastNumber = some 0 ∧ (0 : Word32) < 1 ∧
    ¬((streaming .running []).stream 0).state = .priming :=
  ⟨⟨rfl, rfl⟩, rfl, rfl, rfl, rfl, by decide, by decide, noWork _ rfl, ⟨rfl, rfl⟩, rfl, by decide, by decide⟩

theorem test_hyps_FrameOpenClosesTheOpenFrame :
    let s := numbered (streaming .running [frame0 1 .opened StripeRec.expected]) (some 1)
    s.TakesFrames ∧ (s.stream 0).state.takesFrames = true ∧ (s.stream 0).config = some cfg0 ∧ s.openNumber 0 = some 1 ∧
    (∀ last, (s.stream 0).lastNumber = some last → last < 2) ∧ (s.stream 0).window.length < cfg0.depth ∧
    s.recordFree = true :=
  ⟨⟨rfl, rfl⟩, rfl, rfl, rfl, fun _ h => by cases h; decide, by decide, by decide⟩

theorem test_hyps_FrameOpenRefusedAfterTheClose :
    let s := numbered (streaming .running [frame0 0 .resolved StripeRec.expected,
      frame0 1 .opened StripeRec.expected]) (some 1)
    s.TakesFrames ∧ s.openNumber 0 = some 1 ∧ (∀ last, (s.stream 0).lastNumber = some last → last < 2) ∧
    cfg0.depth ≤ (s.stream 0).window.length :=
  ⟨⟨rfl, rfl⟩, rfl, fun _ h => by cases h; decide, by decide⟩

theorem test_hyps_FrameOpenIsRefused :
    let s := numbered (streaming .running [frame0 0 .resolved StripeRec.expected,
      frame0 1 .resolved StripeRec.expected]) (some 1)
    s.TakesFrames ∧ (s.stream 0).state.takesFrames = true ∧ (s.stream 0).config = some cfg0 ∧ s.NoWork ∧
    (s.stream 0).lastNumber = some 1 ∧ (1 : Word32) ≤ 1 ∧ s.openNumber 0 = none ∧
    (∀ last, (s.stream 0).lastNumber = some last → last < 2) ∧ cfg0.depth ≤ (s.stream 0).window.length :=
  ⟨⟨rfl, rfl⟩, rfl, rfl, noWork _ rfl, rfl, by decide, rfl, fun _ h => by cases h; decide, by decide⟩

theorem test_hyps_FrameUnitsElsewhereAreStray :
    let s := streaming .stopped []
    s.TakesFrames ∧ s.NoWork ∧ streamOf 1 = some 0 ∧ (s.stream 0).state.takesFrames = false ∧
    (∃ n c, readFrameOpenBody [1, 0, 0, 0, 2, 0, 0, 0] = some (n, c)) ∧
    (∃ b, readStripeBody [1, 0, 0, 0, 0, 0, 0, 0] = some b ∧ b.resend = false) ∧
    (∃ n, readFrameCloseBody [1, 0, 0, 0] = some n) ∧ (s.stream 0).state = .stopped ∧
    (∃ b, readStripeBody [1, 0, 0, 0, 0, 2, 0, 0] = some b ∧ b.resend = true) ∧
    ingestAccepted kindStripe (buildIngest kindStripe 1 [1, 0, 0, 0, 0, 2, 0, 0]) = true :=
  ⟨⟨rfl, rfl⟩, noWork _ rfl, rfl, rfl, ⟨_, _, rfl⟩, ⟨_, rfl, rfl⟩, ⟨_, rfl⟩, rfl, ⟨_, rfl, rfl⟩,
   accepted _ _ _ (by decide)⟩

theorem test_hyps_FrameUnitsOfWrongFormAreStray :
    let s := streaming .running [frame0 2 .closed (damaged0 .damaged)]
    s.TakesFrames ∧ s.NoWork ∧ s.frame 0 2 = some (frame0 2 .closed (damaged0 .damaged)) ∧
    (frame0 2 .closed (damaged0 .damaged)).state ≠ .opened ∧
    (∀ kind : Byte, ingestAccepted kind (buildIngest kind 1 [0, 0, 0]) = true) ∧
    ([0, 0, 0] : List Byte).length ≠ 8 ∧ ([0, 0, 0] : List Byte).length ≠ 4 ∧ ([0, 0, 0] : List Byte).length < 8 :=
  ⟨⟨rfl, rfl⟩, noWork _ rfl, rfl, by decide, fun _ => accepted _ _ _ (by decide), by decide, by decide, by decide⟩

/-- A payload of 512 zero bytes. -/
def payload : List Byte := List.replicate 512 0

theorem payload_length : payload.length = 512 := List.length_replicate

/-- The body of a STRIPE for stripe 0 of frame 1: the payload, its check, and flags. -/
def stripeBody (flags : Byte) : List Byte :=
  1 :: 0 :: 0 :: 0 :: 0 :: flags :: (crc16 payload).extractLsb' 0 8 :: (crc16 payload).extractLsb' 8 8 :: payload

/-- What it is read as. -/
def stripe0 (flags : Byte) : StripeBody :=
  { number := 1, index := 0, dropout := flags.getLsbD 0, resend := flags.getLsbD 1, paycheck := crc16 payload,
    payload := payload }

theorem two_bytes (w : Word16) : w.extractLsb' 8 8 ++ w.extractLsb' 0 8 = w := by
  ext i hi
  simp only [BitVec.getElem_append, BitVec.getElem_extractLsb']
  split
  · rw [show 0 + i = i by omega]
    rfl
  · rw [show 8 + (i - 8) = i by omega]
    rfl

theorem read_stripeBody (flags : Byte) : readStripeBody (stripeBody flags) = some (stripe0 flags) := by
  have h : ¬ (stripeBody flags).length < 8 := by simp [stripeBody]
  rw [readStripeBody, if_neg h]
  simp [stripeBody, stripe0, readLe32, readLe16, two_bytes]

theorem accepted_stripeBody (flags : Byte) :
    ingestAccepted kindStripe (buildIngest kindStripe 1 (stripeBody flags)) = true :=
  accepted _ _ _ (by simp [stripeBody, payload_length])

theorem test_hyps_StripeArrivalIsStoredAndJudged :
    let s := streaming .running [frame0 1 .opened StripeRec.expected]
    s.TakesFrames ∧ streamOf 1 = some 0 ∧ (stripe0 0).resend = false ∧ (s.stream 0).state.takesFrames = true ∧
    s.frame 0 1 = some (frame0 1 .opened StripeRec.expected) ∧
    (frame0 1 .opened StripeRec.expected).stripeAt 0 = some StripeRec.expected ∧
    (stripe0 0).payload.length = (frame0 1 .opened StripeRec.expected).stripeSize ∧
    StripeRec.expected.state ≠ .sound ∧ s.store.freeList = 5 :: [6] :=
  ⟨⟨rfl, rfl⟩, rfl, rfl, rfl, rfl, rfl, payload_length, by decide, rfl⟩

theorem test_hyps_StripeThatDoesNotFitIsStray :
    let s := streaming .running [frame0 1 .opened StripeRec.expected, frame0 2 .closed (damaged0 .damaged)]
    s.TakesFrames ∧ (s.stream 0).state.takesFrames = true ∧ s.frame 0 3 = none ∧
    s.frame 0 2 = some (frame0 2 .closed (damaged0 .damaged)) ∧
    (frame0 1 .opened StripeRec.expected).stripeAt 1 = none ∧
    (frame0 1 .opened StripeRec.expected).stripeAt 0 = some StripeRec.expected ∧ ([] : List Byte).length ≠ 512 ∧
    ({ s with store := { s.store with freeList := [] } }).store.freeList = [] :=
  ⟨⟨rfl, rfl⟩, rfl, rfl, rfl, rfl, rfl, by decide, rfl⟩

theorem test_hyps_UnmatchedResendIsLate :
    let s := streaming .running []
    s.TakesFrames ∧ s.NoWork ∧ (stripe0 2).resend = true ∧ (s.stream 0).state ≠ .stopped ∧
    s.awaiting { stream := 0, number := 1, stripe := 0 } = none :=
  ⟨⟨rfl, rfl⟩, noWork _ rfl, rfl, by decide, rfl⟩

theorem stripe0_check : crc16 (stripe0 2).payload = (stripe0 2).paycheck := by simp only [stripe0]

theorem test_hyps_MatchedResendRepairs :
    let s := repairing (refetching 1)
    s.TakesFrames ∧ (stripe0 2).resend = true ∧ (s.stream 0).state ≠ .stopped ∧
    s.awaiting { stream := 0, number := 1, stripe := 0 } = some (0, refetching 1) ∧
    s.frame 0 1 = some (frame0 1 .closed (damaged0 .repairing)) ∧
    (frame0 1 .closed (damaged0 .repairing)).stripeAt 0 = some (damaged0 .repairing) ∧
    crc16 (stripe0 2).payload = (stripe0 2).paycheck ∧ (stripe0 2).dropout = false ∧ s.store.freeList = 5 :: [6] :=
  ⟨⟨rfl, rfl⟩, rfl, by decide, rfl, rfl, rfl, stripe0_check, rfl, rfl⟩

/-- A resend that fails: of no bytes, without a free slot, with its dropout flag set. -/
theorem test_hyps_MatchedResendFails :
    let s := repairing (refetching 0)
    s.awaiting { stream := 0, number := 1, stripe := 0 } = some (0, refetching 0) ∧
    ({ stripe0 2 with payload := [] }).payload.length ≠ (frame0 1 .closed (damaged0 .repairing)).stripeSize ∧
    ({ s with store := { s.store with freeList := [] } }).store.freeList = [] ∧
    readStripeBody (stripeBody 3) = some (stripe0 3) ∧ (stripe0 3).resend = true ∧ (stripe0 3).dropout = true ∧
    (stripe0 3).payload.length = (frame0 1 .closed (damaged0 .repairing)).stripeSize :=
  ⟨rfl, by decide, rfl, read_stripeBody 3, rfl, rfl, payload_length⟩

theorem test_hyps_FrameCloseFixesTheDamage :
    let f := frame0 1 .opened StripeRec.expected
    let s := streaming .running [frame0 0 .closed (damaged0 .parked), f]
    s.TakesFrames ∧ readFrameCloseBody [1, 0, 0, 0] = some 1 ∧ (s.stream 0).state.takesFrames = true ∧
    ((s.stream 0).window.map (·.number)).Pairwise (· < ·) ∧ s.frame 0 1 = some f ∧ f.state = .opened ∧
    1 = (f.stripes.filter fun st => st.state == .damaged || st.state == .expected).length :=
  ⟨⟨rfl, rfl⟩, rfl, rfl, by decide, rfl, rfl, rfl⟩

/-- The frame has no damage and is the head; its neighbour has a PARKED stripe and comes right before it. -/
theorem test_hyps_FrameCloseNeighbours :
    let f := frame0 1 .opened { StripeRec.expected with state := .sound }
    let p := frame0 0 .closed (damaged0 .parked)
    0 = (f.stripes.filter fun st => st.state == .damaged || st.state == .expected).length ∧
    ((streaming .running [f]).stream 0).window.head? = some f ∧
    ((streaming .running [p, f]).stream 0).window = [] ++ p :: f :: [] ∧ (∃ st ∈ p.stripes, st.state = .parked) ∧
    (∀ st ∈ f.stripes, st.state ≠ .parked) := by
  refine ⟨rfl, rfl, rfl, by decide, by decide⟩

theorem test_hyps_UnitsOfOtherKindsAreStray :
    (∃ k u, frameIngest [9, 13, 0, 0, 0xE6, 0x35] = some (k, u) ∧ ingestAccepted k u = true ∧ 13 ≤ u.stream.toNat) ∧
    (∀ kind stream : Byte, ingestAccepted kind (buildIngest kind stream []) = true) ∧
    kindControl ≠ kindFrameOpen ∧ kindControl ≠ kindStripe ∧ kindControl ≠ kindFrameClose ∧
    idle.TakesFrames :=
  ⟨⟨_, _, rfl, by decide +kernel, by decide⟩, fun k s => accepted k s [] (by decide), by decide, by decide, by decide, rfl, rfl⟩

/-- A unit of an unknown kind to stream 1, after the sweep, in HALTED and in the sweep. -/
theorem test_hyps_OtherKindsToAStream :
    (∃ u, frameIngest [9, 1, 0, 0, 0x87, 0x40] = some (9, u) ∧ ingestAccepted 9 u = true ∧ streamOf u.stream = some 0) ∧
    (9 : Byte) ≠ kindFrameOpen ∧ (9 : Byte) ≠ kindStripe ∧ (9 : Byte) ≠ kindFrameClose ∧
    idle.store.sweeping = false ∧ halted.store.sweeping = false ∧ State.reset.store.sweeping = true ∧
    State.reset.Rested :=
  ⟨⟨_, rfl, by decide +kernel, rfl⟩, by decide, by decide, by decide, rfl, rfl, rfl, rested_of_down _ rfl⟩

/-! ### Control units and commands -/

theorem test_hyps_ControlUnitsReachTheirOwner : idle.TakesCommands ∧ ([] : List Byte).length ≤ 16388 ∧
    readCommand 27 [] = .command .identify ∧ commandForm (.holdDrive 1) = .command (.holdDrive 1) :=
  ⟨idle_takes, by decide, rfl, rfl⟩

/-- A part whose immediate replies are all in use. -/
def full : State := { idle with ret := { idle.ret with replies := List.replicate 32 waiting } }

theorem test_hyps_ControlUnitWaitsForAReplyPlace :
    ingestAccepted kindControl (buildIngest kindControl 0 [1, 0, 27, 0]) = true ∧ (0 : Byte) = 0 ∧
    ({ full with controlQueue := List.replicate 7 { tag := 0, form := .unknown } }).controlQueue.length < 8 ∧
    32 ≤ full.ret.immediates ∧ full.Rested :=
  ⟨accepted _ _ _ (by decide), rfl, by decide, by decide, rested_of_down _ rfl⟩

theorem test_hyps_MalformedUnitsRaiseTheirReason :
    idle.TakesUnits ∧ ingestAccepted kindControl (buildIngest kindControl 0 [1, 0, 27]) = true ∧
    ([1, 0, 27] : List Byte).length < 4 ∧
    (∃ k u, frameIngest [9, 0, 0, 0, 0xB7, 0x77] = some (k, u) ∧ ingestAccepted k u = true ∧ u.stream = 0 ∧
      k ≠ kindControl) ∧
    readCommand 27 [0] = .malformed 3 ∧ readCommand 2 [] = .malformed 3 ∧
    ({ idle with controlQueue := List.replicate 8 { tag := 0, form := .unknown } }).controlQueue.length = 8 :=
  ⟨idle_units, accepted _ _ _ (by decide), by decide, ⟨_, _, rfl, by decide +kernel, rfl, by decide⟩, rfl, rfl, rfl⟩

theorem test_hyps_SweepAndHalt : State.reset.TakesUnits ∧ State.reset.store.sweeping = true ∧ halted.TakesUnits ∧
    halted.store.sweeping = false ∧ halted.monitor.halted = true ∧ (0 : Byte).toNat = 0 ∧ 28 < (29 : Byte).toNat ∧
    commandForm .identify = .command .identify :=
  ⟨takesUnits _ rfl rfl rfl, rfl, takesUnits _ rfl rfl rfl, rfl, rfl, rfl, by decide, rfl⟩

theorem test_hyps_StatusCommandsOnlyReport :
    idle.TakesCommands ∧ streamOf 1 = some 0 ∧ streamOf 12 = some 11 ∧ streamOf 0 = none ∧ streamOf 13 = none ∧
    (16383 : Word16).toNat < 16384 ∧ 16384 ≤ (16384 : Word16).toNat ∧
    (1 ≤ (1 : Byte).toNat ∧ (1 : Byte).toNat ≤ 16 ∧ (255 : Byte).toNat + (1 : Byte).toNat ≤ 256) ∧
    (1 ≤ (16 : Byte).toNat ∧ (16 : Byte).toNat ≤ 16 ∧ (240 : Byte).toNat + (16 : Byte).toNat ≤ 256) ∧
    (15 : Byte).toNat = (15 : Fin 16).val ∧ driveOf 1 = some 0 ∧ driveOf 8 = some 7 :=
  ⟨idle_takes, rfl, rfl, rfl, rfl, by decide, by decide, by decide, by decide, rfl, rfl, rfl⟩

/-- Counts, ranges, a plan id and an address just outside their ranges; a started stream that names plan 0 for every cause. -/
theorem test_hyps_StatusParametersAndUsers :
    (0 : Byte).toNat = 0 ∧ 16 < (17 : Byte).toNat ∧ 256 < (241 : Byte).toNat + (16 : Byte).toNat ∧
    16 ≤ (16 : Byte).toNat ∧ 9 ≤ (9 : Byte).toNat ∧
    { stream := 0, causes := [.flagged, .corrupt, .absent] } ∈ (streaming .running []).planUsers 0 ∧
    (streaming .running []).planUsers 1 = [] ∧ (streaming .configured []).planUsers 0 = [] := by decide

theorem test_hyps_EngineStatusReports :
    let s := repairing (refetching 1)
    s.TakesCommands ∧ s.context 1 = none ∧ s.context 0 = some (refetching 1) ∧
    (refetching 1).op = .refetch 2 1 5 true true :=
  ⟨takesCommands _ rfl rfl rfl rfl rfl, rfl, rfl, rfl⟩

/-- A donor. -/
def donor0 : Donor := { number := 0, slot := 5, generation := 1 }

/-- A context with an operation. -/
def busy0 (op : Operation) : Busy := { job := (refetching 1).job, step := 0, op := op }

/-- A reference to frame 1 of stream 1. -/
def ref0 : QueueRef := { stream := 0, number := 1, ordinal := 0 }

theorem test_hyps_EngineStatusContextsAndQueue :
    let s := (((repairing (busy0 (.neighbour [5] 6 1))).setContext 1 (some (busy0 (.blend donor0 2 7 8)))).setContext 2
      (some (busy0 (.verify donor0)))).modEngine fun e => { e with queue := [ref0] }
    s.context 0 = some (busy0 (.neighbour [5] 6 1)) ∧ s.context 1 = some (busy0 (.blend donor0 2 7 8)) ∧
    s.context 2 = some (busy0 (.verify donor0)) ∧ s.engine.queue = ref0 :: [] ∧
    s.frame 0 1 = some (frame0 1 .closed (damaged0 .repairing)) ∧ (s.stream 0).config = some cfg0 ∧
    s.stripe (refetching 1).job = some (damaged0 .repairing) ∧ (damaged0 .repairing).cause = some .flagged ∧
    (refetching 1).op = .refetch 2 1 5 true true ∧ 1 ≤ 5 :=
  ⟨rfl, rfl, rfl, rfl, rfl, rfl, rfl, rfl, rfl, by decide⟩

/-- A context whose stripe is MARKED at once leaves the next stripe to the next-lowest FREE context (R72). -/
theorem test_contexts_take_turns :
    let x : StripeRec := damaged0 .damaged
    let f : FrameRec := { frame0 1 .closed x with
      stripes := [x, { x with cause := some .corrupt }], stripeCount := 2, unresolved := 2, ordinal := some 0 }
    let s : State := { idle with
      streams := idle.streams.set 0 { stream0 .running [f] with config := some { cfg0 with planCorrupt := 1 } }
      plans := (idle.plans.set 0 (some [{ method := .mark, onFail := .endPlan }])).set 1
        (some [{ method := .refetch 1 5, onFail := .endPlan }])
      engine := { idle.engine with queue := [ref0] } }
    s.takeWork.context 0 = none ∧ (s.takeWork.context 1).map (·.job) =
      some { stream := 0, number := 1, stripe := 1 } := by decide

/-! ### Streams -/

/-- Fields of a configuration at the edges of their ranges. -/
def fields0 : ConfigFields :=
  { stripes := 72, stripeSize := 16384, planFlagged := 15, planCorrupt := 0, planAbsent := 0, depth := 6, period := 9000,
    pattern := 1, primary := 8, partner := 0, genLimit := 3, fallback := 1, fill := 1 }

theorem test_hyps_ConfigureStream :
    idle.TakesCommands ∧ streamOf 13 = none ∧ streamOf 12 = some 11 ∧ (idle.stream 11).state = .unconfigured ∧
    (readStreamConfig fields0).isSome = true ∧ readStreamConfig { fields0 with partner := 8 } = none ∧
    readStreamConfig { fields0 with stripeSize := 16385 } = none ∧
    ((streaming .priming []).stream 0).state ≠ .unconfigured ∧ ((streaming .priming []).stream 0).state ≠ .configured :=
  ⟨idle_takes, rfl, rfl, rfl, rfl, rfl, rfl, by decide, by decide⟩

/-- A directory with an entry of the stream and one of another. -/
theorem test_hyps_ConfigureInvalidates :
    let e : DirEntry := { stream := 11, stripe := 0, number := 4, generation := 2, slot := 9, ordinal := 0 }
    let s := idle.putSet 0 { way0 := some e, way1 := some { e with stream := 1 } }
    (s.dir.row 0).way0 = some e ∧ e.stream = 11 ∧ (s.dir.row 0).way1 = some { e with stream := 1 } ∧ s.StoreCanonical :=
  ⟨rfl, rfl, rfl, rfl, rfl, rfl⟩

/-- Stream 1 CONFIGURED, its plan LOADED, with drive 1 in a condition. -/
def startable (c : Condition) : State :=
  driven { streaming .configured [] with plans := idle.plans.set 0 (some [{ method := .mark, onFail := .endPlan }]) }
    fun d => { d with condition := c, remaining := some 100 }

theorem test_hyps_StartStreamEntersPriming :
    (startable .ready).TakesCommands ∧ streamOf 1 = some 0 ∧ ((startable .ready).stream 0).config = some cfg0 ∧
    cfg0.partner ≠ some cfg0.primary ∧ ((startable .ready).stream 0).state = .configured ∧
    ((streaming .stopped []).stream 0).state ≠ .configured ∧
    (streaming .configured []).plans[cfg0.planFlagged] = none ∧ (startable .ready).plans[cfg0.planFlagged] ≠ none ∧
    (startable .ready).driveInUse 0 cfg0.primary = false ∧
    (driven (startable .ready) fun d => { d with binding := .active 1 }).driveInUse 0 cfg0.primary = true ∧
    ((startable .ready).drive cfg0.primary).condition = .ready ∧
    ((startable .held).drive cfg0.primary).condition ≠ .ready :=
  ⟨takesCommands _ rfl rfl rfl rfl rfl, rfl, rfl, by decide, rfl, by decide, rfl, by decide, rfl, rfl, rfl, by decide⟩

/-- The clause of the partner: the primary is HELD, drive 8 is READY and becomes ACTIVE. -/
theorem test_hyps_StartStream_partner :
    let s := ((startable .held).setStream 0 { stream0 .configured [] with
      config := some { cfg0 with partner := some 7 } }).modDrive 7 fun d => { d with condition := .ready }
    (s.stream 0).config = some { cfg0 with partner := some 7 } ∧ (s.drive 0).condition ≠ .ready ∧
    (s.drive 7).condition = .ready ∧ s.driveInUse 0 7 = false :=
  ⟨rfl, by decide, rfl, rfl⟩

theorem test_hyps_StopAndAbort :
    (streaming .priming []).TakesCommands ∧ ((streaming .priming []).stream 0).state = .priming ∧
    ((streaming .running []).stream 0).state = .running ∧ ((streaming .stalled []).stream 0).state = .stalled ∧
    ((streaming .draining []).stream 0).state = .draining ∧ ((streaming .stopped []).stream 0).state = .stopped ∧
    ((streaming .stopped []).stream 0).state.started = true ∧ ((streaming .configured []).stream 0).state.started = false :=
  ⟨takesCommands _ rfl rfl rfl rfl rfl, rfl, rfl, rfl, rfl, rfl, rfl, rfl⟩

/-- STOP_STREAM finds an OPEN frame and a CLOSED one with a PARKED stripe. -/
theorem test_hyps_StopStreamUnparks :
    let p := frame0 0 .closed (damaged0 .parked)
    let f := frame0 1 .opened StripeRec.expected
    let s := streaming .running [p, f]
    s.TakesCommands ∧ ((s.stream 0).window.map (·.number)).Pairwise (· < ·) ∧ p ∈ (s.stream 0).window ∧
    p.state ≠ .opened ∧ (∃ st ∈ p.stripes, st.state = .parked) ∧ s.openNumber 0 = some 1 ∧ s.frame 0 1 = some f ∧
    (∀ st ∈ f.stripes, st.state ≠ .parked) := by
  refine ⟨takesCommands _ rfl rfl rfl rfl rfl, by decide, by decide, by decide, by decide, rfl, rfl, by decide⟩

/-- A frame of stream 1 or 2 in drive 1's queue, its transfer and its exchange so. -/
def burning (i : StreamIx) (tr : Transfer) (owed : Bool) : State :=
  driven (streaming .running [frame0 2 .closed (damaged0 .parked)]) fun d =>
    { d with
      condition := .ready, binding := .active 0, transfer := tr, abandonOwed := owed
      queue := [{ frame0 1 .queuedForBurn (damaged0 .repaired) with stream := i, outSeq := some 0 }] }

/-- ABORT_STREAM finds a context and a STOP_STREAM outstanding; a head that is not engaged, one of another stream, one with its
SPACE_ASK in flight, one in SENDING with nothing in flight, and one owed an ABANDON by an earlier abort. -/
theorem test_hyps_AbortStream :
    let s := (repairing (refetching 1)).modStream 0 fun r => { r with stopTag := some 9 }
    let f := { frame0 1 .queuedForBurn (damaged0 .repaired) with outSeq := some 0 }
    s.TakesCommands ∧ (s.stream 0).state.started = true ∧ s.context 0 = some (refetching 1) ∧
    (s.stream 0).stopTag = some 9 ∧ ((burning 0 .waitingSpace false).drive 0).queue = f :: [] ∧ f.stream = 0 ∧
    (burning 0 .waitingSpace false).headEngaged 0 = false ∧
    ((burning 1 .waitingSpace false).drive 0).queue = { f with stream := 1 } :: [] ∧
    (exchanging (burning 0 .waitingSpace false) .frame (.sending (.spaceAsk 0 0 2))).headEngaged 0 = true ∧
    (burning 0 (.sending 0) false).headEngaged 0 = true ∧ (burning 0 (.sending 0) false).burn.exchange = none ∧
    (burning 0 .waitingSpace true).headEngaged 0 = true := by
  refine ⟨takesCommands _ rfl rfl rfl rfl rfl, rfl, rfl, rfl, rfl, rfl, rfl, rfl, rfl, rfl, rfl, rfl⟩

/-- A second abort leaves at the head the frame that is owed an ABANDON (R133). -/
theorem test_abort_keeps_an_owed_head :
    (((burning 0 .waitingSpace true).abort 0).drive 0).queue = ((burning 0 .waitingSpace true).drive 0).queue ∧
    (((burning 0 .waitingSpace true).abort 0).drive 0).abandonOwed = true := by decide +kernel

/-! ### Settings, directory, plans, drives -/

theorem test_hyps_SettingsAreTaken :
    1 < (2 : Byte).toNat ∧ ((3 : Byte).toNat ≠ 1 ∧ (3 : Byte).toNat ≠ 2 ∧ (3 : Byte).toNat ≠ 4 ∧ (3 : Byte).toNat ≠ 8) ∧
    ((streaming .running []).stream 0).state.started = true ∧ (∀ i, (idle.stream i).state.started = false) ∧
    (∀ a, (idle.drive a).queue = []) ∧
    ((driven idle fun d => { d with queue := [frame0 1 .queuedForBurn StripeRec.expected] }).drive 0).queue ≠ [] :=
  ⟨by decide, by decide, rfl, by decide, by decide, by decide⟩

theorem test_hyps_PurgeDirectoryInvalidates :
    idle.TakesCommands ∧ idle.StoreCanonical ∧ 12 < (13 : Byte).toNat ∧ streamOf 12 = some 11 ∧ (0 : Byte) = 0 :=
  ⟨idle_takes, ⟨rfl, rfl, rfl⟩, by decide, rfl, rfl⟩

theorem test_hyps_LoadPlanReplacesThePlan :
    idle.TakesCommands ∧ 15 < (16 : Byte).toNat ∧ readPlan [⟨5, 0, 0, 0⟩] = none ∧
    (∃ plan, readPlan [⟨4, 0, 7, 255⟩, ⟨6, 1, 0, 0⟩] = some plan) ∧
    ((streaming .stopped []).stream 0).state.started = true ∧ cfg0.planFor .absent = 0 ∧
    (∀ i cfg c, (idle.stream i).state.started = true → (idle.stream i).config = some cfg → cfg.planFor c ≠ 0) := by
  refine ⟨idle_takes, by decide, rfl, ⟨_, rfl⟩, rfl, rfl, fun i => ?_⟩
  have : (idle.stream i).state.started = false := by revert i; decide
  simp [this]

theorem test_hyps_SetSlotPatternTakesEffect :
    streamOf 0 = none ∧ streamOf 1 = some 0 ∧ (1 : Byte) ≠ 0 ∧ (idle.stream 0).state = .unconfigured ∧
    ((streaming .configured []).stream 0).state = .configured ∧
    ((streaming .stopped []).stream 0).state.started = true := ⟨rfl, rfl, by decide, rfl, rfl, rfl⟩

/-- Drive 1 HELD, with a relay. -/
def heldWith (r : Relay) : State := driven idle fun d => { d with condition := .held, relay := r }

theorem test_hyps_DriveCommandsAct :
    State.reset.burn.survey ≠ none ∧ ({ idle with burn := { idle.burn with survey := none } }).burn.survey = none ∧
    driveOf 0 = none ∧ driveOf 9 = none ∧ driveOf 8 = some 7 ∧ (idle.drive 7).condition = .absent ∧
    (driven (startable .ready) fun d => { d with binding := .active 0 }).boundActive 0 = true ∧
    ((startable .full).drive 0).condition ≠ .absent ∧ ((startable .full).drive 0).queue = [] ∧
    ((heldWith .none).drive 0).condition = .held ∧ ((heldWith (.pending 1 [0])).drive 0).relay ≠ .none ∧
    ((driven (heldWith .none) fun d => { d with releasePending := true }).drive 0).releasePending = true ∧
    ([0] : List Byte).length = (1 : Byte).toNat ∧ (List.replicate 32 (0 : Byte)).length = (32 : Byte).toNat :=
  ⟨by decide, rfl, rfl, rfl, rfl, rfl, rfl, by decide, rfl, rfl, by decide, rfl, rfl, rfl⟩

/-! ### Watches, faults, reset -/

/-- A booking of DAMAGE_RATE on stream 1. -/
def booking (fired : Bool) (suspension : Option StreamIx) : Booking :=
  { fired := fired, condition := .damageRate, scope := 1, threshold := some 72, every := false, suspend := true, tag := 5,
    suspension := suspension }

theorem test_hyps_BookWatchArmsTheWatch :
    15 < (16 : Byte).toNat ∧ readBooking ⟨1, 13, 1, 1, 0, 0, 0⟩ = none ∧ readBooking ⟨8, 8, 0, 0, 0, 1, 0⟩ = none ∧
    readBooking ⟨1, 1, 1, 72, 0, 1, 5⟩ = some (booking false none) ∧ idle.watch 15 = none ∧
    (idle.setWatch 15 (some (booking false none))).watch 15 ≠ none :=
  ⟨by decide, rfl, rfl, rfl, rfl, by decide⟩

/-- A watch that fires: with its threshold met, with a suspension held already, and on a drive. -/
theorem test_hyps_WatchesFire :
    let s := idle.setWatch 15 (some (booking false none))
    s.watch 15 = some (booking false none) ∧ (booking false none).threshold.getD 1 ≤ (72 : Word32).toNat ∧
    (booking false none).suspend = true ∧ (1 : Nat) = streamId 0 ∧ (s.stream 0).paused = false ∧
    (booking false (some 0)).suspension ≠ none ∧ WatchCondition.damageRate ≠ .mediaNeeded ∧
    WatchCondition.damageRate ≠ .driveChange := by
  refine ⟨rfl, by decide, rfl, rfl, rfl, by decide, by decide, by decide⟩

theorem test_hyps_WatchCommandsFollowTheTable :
    halted.TakesUnits ∧ halted.monitor.halted = true ∧ idle.TakesUnits ∧ idle.monitor.halted = false ∧
    15 < (16 : Byte).toNat ∧ (15 : Byte).toNat = (15 : Fin 16).val ∧ idle.watch 15 = none ∧
    (idle.setWatch 15 (some (booking true (some 0)))).watch 15 = some (booking true (some 0)) ∧
    (idle.setWatch 15 (some (booking false none))).watch 15 = some (booking false none) :=
  ⟨takesUnits _ rfl rfl rfl, rfl, idle_units, rfl, by decide, rfl, rfl, rfl, rfl⟩

theorem test_hyps_FaultCommandsChangeTheListedKinds :
    readKinds [12] = none ∧ readKinds [1, 11] = some [.sequence, .ingestLoss] ∧ readActions [(4, 2)] = none ∧
    readActions [(1, 0), (1, 1)] = none ∧ readActions [(1, 2), (11, 3)] = some [(.sequence, .stop), (.ingestLoss, .halt)] ∧
    ([1, 11] : List Byte).length = (2 : Byte).toNat := ⟨rfl, rfl, rfl, rfl, rfl, rfl⟩

/-- A kind with its action changed. -/
def acting (k : FaultKind) (x : FaultAction) (s : State) : State := s.setFault k { s.fault k with action := x }

/-- A notice. -/
def notice0 : Notice := { source := .fault .stray, scope := 1, detail := 0 }

theorem test_hyps_ActionsAndOverflow :
    (∀ x, ((acting .overrun x idle).fault .overrun).action = x) ∧ idle.ret.outbox.length < 32 ∧
    32 ≤ ({ idle with ret := { idle.ret with outbox := List.replicate 32 notice0 } }).ret.outbox.length ∧
    ((acting .noticeOverflow .halt idle).fault .noticeOverflow).action = .halt ∧
    (idle.fault .noticeOverflow).action ≠ .halt ∧ ((streaming .running []).stream 0).state.started = true ∧
    ((streaming .running []).stream 0).state ≠ .stopped ∧ ((streaming .stopped []).stream 0).state = .stopped ∧
    (1 : Nat) = streamId 0 ∧ (1 : Nat) = driveAddress 0 ∧
    ((driven idle fun d => { d with binding := .standby 0 }).drive 0).binding.stream = some 0 ∧
    (idle.drive 0).binding.stream = none := by
  refine ⟨fun x => rfl, by decide, by decide, rfl, by decide, rfl, by decide, rfl, rfl, rfl, rfl, rfl⟩

theorem test_hyps_RaisesAreCounted : FaultKind.stray ≠ .noticeOverflow ∧ idle.TakesCommands := ⟨by decide, idle_takes⟩

theorem test_hyps_ResetPartResetsTheBlocks :
    let s := exchanging idle .survey (.sending .presenceAsk)
    halted.TakesUnits ∧ halted.store.sweeping = false ∧ idle.ret.sending = none ∧ idle.burn.exchange = none ∧
    idle.burn.closing = [] ∧ s.TakesUnits ∧
    s.burn.exchange = some { drive := 0, purpose := .survey, factor := .x8, phase := .sending .presenceAsk } :=
  ⟨takesUnits _ rfl rfl rfl, rfl, rfl, rfl, rfl, takesUnits _ rfl rfl rfl, rfl⟩

/-- A head with a reservation, the unit being sent, an open window, the ABANDON itself being sent, and a unit that an earlier
reset still owes. -/
theorem test_hyps_ResetPartOwesAbandons :
    let s := exchanging (burning 0 (.sending 0) false) .frame (.sending (.write 0 0 0 1 []))
    let q := exchanging (burning 0 .spaceAsked false) .frame (.window .space)
    s.TakesUnits ∧ (s.drive 0).present = true ∧ (s.drive 0).transfer ≠ .waitingSpace ∧ (s.drive 0).queue ≠ [] ∧
    s.burn.exchange = some { drive := 0, purpose := .frame, factor := .x8, phase := .sending (.write 0 0 0 1 []) } ∧
    s.closingUnit 0 = [{ drive := 0, factor := .x8, unit := .abandon 0 0 }] ∧
    q.closingUnit 0 = [{ drive := 0, factor := .x8, unit := .abandon 0 0 }] ∧
    (∀ e u, q.burn.exchange = some e → e.phase ≠ .sending u) ∧
    (burning 0 .waitingSpace true).closingUnit 0 = [{ drive := 0, factor := .x8, unit := .abandon 0 0 }] ∧
    (exchanging (burning 0 .waitingSpace true) .abandon (.sending (.abandon 0 0))).closingUnit 0 = [] ∧
    ({ idle.burn with closing := [{ drive := 7, factor := .x1, unit := .abandon 1 3 }] }).closing ≠ [] := by
  refine ⟨takesUnits _ rfl rfl rfl, rfl, by decide, by decide, rfl, rfl, rfl, fun e u h => ?_, rfl, rfl, by decide⟩
  cases h
  exact nofun

/-! ### Directory, store, repair -/

/-- An entry of stream 1, stripe 0. -/
def entry0 (o : Word48) (stripe : Nat) : DirEntry :=
  { stream := 0, stripe := stripe, number := 4, generation := 2, slot := 9, ordinal := o }

/-- The set of stream 1, stripe 0 holds two ways. -/
def listed0 (w0 w1 : Option DirEntry) : State := idle.putSet (homeSet 0 0) { way0 := w0, way1 := w1 }

theorem test_hyps_BoundedTest :
    (listed0 (some (entry0 0 0)) none).dir.lookup 0 0 (Directory.bounded 5 1) =
      some { number := 4, slot := 9, generation := 3 } ∧
    (listed0 (some (entry0 0 0)) none).dir.lookup 0 0 (Directory.bounded 4 1) = none ∧
    (listed0 (some (entry0 0 0)) none).dir.lookup 0 0 (Directory.bounded 6 1) = none := ⟨rfl, rfl, rfl⟩

theorem test_hyps_InsertionPlacesOneEntry :
    (idle.dir.row (homeSet 0 0)).way0 = none ∧
    ((listed0 (some (entry0 0 0)) none).dir.row (homeSet 0 0)).way0 = some (entry0 0 0) ∧
    ((listed0 none (some (entry0 0 0))).dir.row (homeSet 0 0)).way1 = some (entry0 0 0) ∧
    wayHasKey (some (entry0 0 1)) 0 0 = false ∧ (entry0 0 1).ordinal < (entry0 1 2).ordinal := by decide

/-- A part with bits of word 0 of slot 5 flipped. -/
def flipped (mask : Word64) : State := { idle with store := { idle.store with flips := [(slotWord 5, mask)] } }

theorem test_hyps_StoreReadsAreJudged :
    idle.store.flipsIn 5 512 = [] ∧ (flipped 1).store.flipsIn 5 512 = [(slotWord 5, 1)] ∧ popCount 1 = 1 ∧
    (flipped 1).store.correction = true ∧
    ({ (flipped 1).store with correction := false }).correction = false ∧
    (slotWord 5, (3 : Word64)) ∈ (flipped 3).store.flipsIn 5 512 ∧ popCount 3 = 2 ∧
    ((flipped 3).readSlot .burn 5 512).1 = true := by decide

/-- Two words of a slot with one flipped bit each, with correction ON and OFF. -/
theorem test_hyps_ManyFlippedWords :
    let s : State := { idle with store := { idle.store with flips := [(slotWord 5, 1), (slotWord 5 + 1, 2)] } }
    s.store.flipsIn 5 512 = [(slotWord 5, 1), (slotWord 5 + 1, 2)] ∧
    (∀ q ∈ s.store.flipsIn 5 512, popCount q.2 = 1) ∧ s.store.correction = true ∧ s.store.judge 5 512 = .corrected ∧
    ({ s.store with correction := false }).judge 5 512 = .flawed := by decide

theorem test_hyps_CompletionsRepairTheStripe :
    let s := repairing (busy0 (.neighbour [7] 8 1))
    s.context 0 = some (busy0 (.neighbour [7] 8 1)) ∧ s.frame 0 1 = some (frame0 1 .closed (damaged0 .repairing)) ∧
    (frame0 1 .closed (damaged0 .repairing)).stripeAt 0 = some (damaged0 .repairing) ∧
    (∀ x ∈ ([7] : List Slot), s.store.flipsIn x 512 = []) ∧
    (repairing (busy0 (.blend donor0 2 7 8))).context 0 = some (busy0 (.blend donor0 2 7 8)) ∧
    (repairing (busy0 (.verify donor0))).context 0 = some (busy0 (.verify donor0)) ∧
    s.store.flipsIn donor0.slot 512 = [] :=
  ⟨rfl, rfl, rfl, fun _ _ => rfl, rfl, rfl, rfl⟩

/-- Two inputs; bits that flip before the reads, one in a word and two; and a FLAWED input with a next step and without. -/
theorem test_hyps_CompletionsWithFlips :
    let one : List Flip := [{ slot := 5, word := 0, mask := 1 }]
    let two : List Flip := [{ slot := 5, word := 0, mask := 3 }]
    (repairing (busy0 (.neighbour [5, 6] 8 1))).context 0 = some (busy0 (.neighbour [5, 6] 8 1)) ∧
    (idle.store.strikeAll one).judge 5 512 = .corrected ∧ (idle.store.strikeAll two).judge 5 512 = .flawed ∧
    (repairing (busy0 (.blend donor0 2 6 8))).context 0 = some (busy0 (.blend donor0 2 6 8)) ∧
    (let steps : List PlanStep := [{ method := .previous 1, onFail := .next }, { method := .mark, onFail := .endPlan }]
     ({ repairing (busy0 (.verify donor0)) with plans := idle.plans.set 0 (some steps) }).jobSteps (refetching 1).job =
       steps) := by
  refine ⟨rfl, by decide +kernel, by decide +kernel, rfl, rfl⟩

theorem test_hyps_FlawedInputEndsThePlan :
    let b := busy0 (.verify donor0)
    let s := { repairing b with
      store := (flipped 3).store, plans := idle.plans.set 0 (some [{ method := .previous 1, onFail := .next }]) }
    s.context 0 = some b ∧ s.frame 0 1 = some (frame0 1 .closed (damaged0 .repairing)) ∧
    s.store.judge donor0.slot 512 = .flawed ∧
    (s.jobSteps b.job).drop b.step = [{ method := .previous 1, onFail := .next }] :=
  ⟨rfl, rfl, by decide, rfl⟩

/-- A step that fails, and the immediate check of the next one, which finds no donor, so that it fails in its turn; and the
next one that finds its donor. -/
theorem test_hyps_NextStepFailsAtOnce :
    let steps : List PlanStep := [{ method := .previous 2, onFail := .next }, { method := .previous 1, onFail := .endPlan }]
    let s := { repairing (busy0 (.verify donor0)) with plans := idle.plans.set 0 (some steps) }
    let u := s.modStripe (refetching 1).job fun x => { x with resume := 1 }
    (s.jobSteps (refetching 1).job).drop 0 = steps ∧ steps.tail.head? = some { method := .previous 1, onFail := .endPlan } ∧
    s.monitor.halted = false ∧ (s.stream 0).state ≠ .stopped ∧
    (u.beginStep 0 (refetching 1).job 1 (.previous 1)).1 = .failed ∧
    (u.beginStep 0 (refetching 1).job 1 (.refetch 1 5)).1 ≠ .failed := by
  refine ⟨rfl, rfl, rfl, by decide, by decide, by decide⟩

theorem test_hyps_RefetchTimerEndFailsTheTry :
    let s := { repairing (refetching 0) with
      plans := idle.plans.set 0 (some [{ method := .refetch 2 5, onFail := .next }]) }
    (repairing (refetching 1)).context 0 = some (refetching 1) ∧ (refetching 1).op = .refetch 2 1 5 true true ∧
    (repairing (refetching 1)).monitor.halted = false ∧ ((repairing (refetching 1)).stream 0).state ≠ .stopped ∧
    ({ repairing (refetching 1) with monitor := halted.monitor }).monitor.halted = true ∧
    (refetching 0).op = .refetch 2 0 5 true true ∧
    (s.jobSteps (refetching 0).job).drop 0 = [{ method := .refetch 2 5, onFail := .next }] ∧
    (PlanMethod.refetch 2 5).name = .refetch :=
  ⟨rfl, rfl, rfl, by decide, rfl, rfl, rfl, rfl⟩

/-- The last try of a step that another follows, in a HALTED part, and for a STOPPED stream. -/
theorem test_hyps_RefetchWithdrawn :
    let steps : List PlanStep := [{ method := .refetch 2 5, onFail := .next }, { method := .mark, onFail := .endPlan }]
    let s := { repairing (refetching 0) with plans := idle.plans.set 0 (some steps) }
    s.context 0 = some (refetching 0) ∧ (s.jobSteps (refetching 0).job).drop (refetching 0).step = steps ∧
    ({ s with monitor := halted.monitor }).monitor.halted = true ∧ s.monitor.halted = false ∧
    ((s.modStream 0 fun r => { r with state := .stopped }).stream 0).state = .stopped ∧
    (frame0 1 .closed (damaged0 .repairing)).stripeAt 0 = some (damaged0 .repairing) :=
  ⟨rfl, rfl, rfl, rfl, rfl, rfl⟩

/-! ### Cadence and the burn link -/

/-- Stream 1 so, with drive 1 ACTIVE and READY, its queue holding frames. -/
def served (st : StreamState) (w q : List FrameRec) : State :=
  driven (streaming st w) fun d =>
    { d with condition := .ready, remaining := some 100, binding := .active 0, queue := q }

theorem test_hyps_CadenceExpiryDispatches :
    let f := frame0 1 .resolved StripeRec.expected
    let s := served .running [f] []
    (s.stream 0).cadence.running = true ∧ (s.stream 0).cadence.pattern = some 1 ∧ (s.stream 0).config = some cfg0 ∧
    (1 : BitVec 8).getLsbD 0 = true ∧ (2 : BitVec 8).getLsbD 0 = false ∧ s.activeOf 0 = some 0 ∧
    s.readyFor 0 (sectorNeed cfg0.stripes cfg0.stripeSize) = true ∧ (s.drive 0).queue.length < 4 ∧
    ((served .running [f] [f, f, f, f]).drive 0).queue.length = 4 ∧ f.state = .resolved ∧ s.recordFree = true ∧
    ({ stream0 .draining [] with stopTag := some 3 }).stopTag = some 3 ∧ (streaming .running [f]).activeOf 0 = none ∧
    cfg0.fillAllowed = true ∧ ({ cfg0 with fillAllowed := false }).fillAllowed = false := by
  refine ⟨rfl, rfl, rfl, by decide, by decide, rfl, by decide, by decide, by decide, rfl, by decide, rfl, rfl, rfl, rfl⟩

theorem test_hyps_ForcedHeadIsClosed :
    let s := served .running [frame0 1 .closed (damaged0 .damaged)] []
    (s.stream 0).window = [frame0 1 .closed (damaged0 .damaged)] ∧ s.activeOf 0 = some 0 ∧
    s.readyFor 0 (sectorNeed cfg0.stripes cfg0.stripeSize) = true ∧ (s.drive 0).queue.length < 4 ∧
    ((streaming .stalled [frame0 1 .closed (damaged0 .damaged)]).stream 0).state ≠ .running :=
  ⟨rfl, rfl, by decide, by decide, by decide⟩

/-- A CLOSED head with a damaged stripe that a context works on: its key has an entry within the forcing test, and none; an
OPEN head with damage; and the fill frame's lookup. -/
theorem test_hyps_ForcedStripes :
    let f := frame0 5 .closed (damaged0 .repairing)
    let s := served .running [f] []
    let q := s.putSet (homeSet 0 0) { way0 := some (entry0 0 0), way1 := none }
    (∀ x ∈ f.stripes, x.toForce = true) ∧ s.forcedDonor 0 cfg0 5 0 = none ∧
    q.forcedDonor 0 cfg0 5 0 = some { number := 4, slot := 9, generation := 3 } ∧
    q.forcedDonor 0 { cfg0 with fallback := .mark } 5 0 = none ∧
    (let b := { busy0 (.neighbour [7] 8 1) with job := { stream := 0, number := 5, stripe := 0 } }
     (q.setContext 0 (some b)).context 0 = some b ∧ (q.setContext 0 (some b)).storeGivenUp 0 5 =
       (q.store.release 8).release 7) ∧
    (∃ x ∈ (frame0 5 .opened StripeRec.expected).stripes, x.state = .expected ∨ x.state = .damaged) ∧
    (q.dir.lookup 0 0 (Directory.filling 5)).isSome = true ∧ (s.dir.lookup 0 0 (Directory.filling 5)).isNone = true := by
  refine ⟨by decide, rfl, rfl, rfl, ⟨rfl, rfl⟩, by decide, rfl, rfl⟩

/-- A second drive bound STANDBY, READY with room. -/
def spare (s : State) : State :=
  s.modDrive 1 fun d => { d with condition := .ready, remaining := some 100, binding := .standby 0 }

/-- Drive 1's record changed. -/
def lacking (c : Condition) (room : Word32) (s : State) : State :=
  s.modDrive 0 fun d => { d with condition := c, remaining := some room }

/-- The ACTIVE drive short of capacity or not READY, with a STANDBY drive READY and without one; the head OPEN with damage and
without; the queue of the ACTIVE drive, and of the STANDBY drive, full; an empty window to fill. -/
theorem test_hyps_SpansAndStalls :
    let need := sectorNeed cfg0.stripes cfg0.stripeSize
    let f := frame0 1 .opened StripeRec.expected
    let s := served .running [f] []
    (s.stream 0).window = [f] ∧ ((s.stream 0).window.map (·.number)).Pairwise (· < ·) ∧ f.state = .opened ∧
    (∃ x ∈ f.stripes, x.state = .expected) ∧
    (∀ x ∈ (frame0 1 .opened { StripeRec.expected with state := .sound }).stripes,
      x.state ≠ .expected ∧ x.state ≠ .damaged) ∧
    (lacking .ready 1 s).activeOf 0 = some 0 ∧ (lacking .ready 1 s).readyFor 0 need = false ∧
    (lacking .noMedia 1 s).readyFor 0 need = false ∧ (lacking .ready 1 s).standbyOf 0 = none ∧
    (spare (lacking .ready 1 s)).standbyOf 0 = some 1 ∧ (spare (lacking .ready 1 s)).readyFor 1 need = true ∧
    ((spare s).drive 1).queue.length < 4 ∧ 4 ≤ ((served .running [f] [f, f, f, f]).drive 0).queue.length ∧
    4 ≤ (((spare s).modDrive 1 fun d => { d with queue := [f, f, f, f] }).drive 1).queue.length ∧
    ((served .stalled [] []).stream 0).window = [] ∧ ((served .stalled [] []).stream 0).state ≠ .draining ∧
    (served .stalled [] []).recordFree = true := by
  refine ⟨rfl, by decide, rfl, by decide, by decide, rfl, by decide, by decide, rfl, rfl, by decide, by decide, by decide,
    by decide, rfl, by decide, by decide⟩

/-- A frame in a burn queue. -/
def queued0 : FrameRec := (frame0 1 .resolved StripeRec.expected).queued .normal 0

/-- No survey, no exchange; drive 1 READY with one frame, or as changed. -/
def quiet (f : DriveRec → DriveRec) : State :=
  driven { idle with burn := { idle.burn with survey := none } } fun d =>
    f { d with condition := .ready, remaining := some 100 }

theorem test_hyps_TurnBoundaryTakesTheFirstItem :
    ({ idle.burn with pollRunning := true }).pollRunning = true ∧ (quiet id).burn.exchange = none ∧
    (quiet id).burn.closing = [] ∧ (quiet id).burn.item = .idle ∧ (quiet id).monitor.halted = false ∧
    ((quiet fun d => { d with abandonOwed := true, queue := [queued0] }).drive 0).abandonOwed = true ∧
    (∀ a, ((quiet id).drive a).abandonOwed = false) ∧
    ((quiet fun d => { d with relay := .pending 1 [0] }).drive 0).relay = .pending 1 [0] ∧
    ((quiet fun d => { d with statusRequested := true }).drive 0).statusRequested = true ∧
    idle.burn.survey = some { requester := .startUp, next := 1 } ∧ (1 : Nat) = driveAddress 0 ∧
    ((quiet id).drive 0).present = true ∧ ((quiet id).drive 0).hasWork = false ∧
    ((quiet fun d => { d with queue := [queued0] }).drive 0).hasWork = true ∧
    (∀ b, b ≠ 0 → ((quiet fun d => { d with queue := [queued0] }).drive b).hasWork = false) ∧
    (∀ a, ((quiet id).drive a).relay = .none) ∧ (quiet id).burn.pollDue = false := by
  refine ⟨rfl, rfl, rfl, rfl, rfl, rfl, by decide, rfl, rfl, rfl, rfl, rfl, rfl, rfl, by decide, by decide, rfl⟩

/-- Turns: an OUTSTANDING relay, a head in SENDING with data left and with none, the rotation pointer's own address last, two
drives with work; and discovery, at the first ABSENT address above the pointer and with none ABSENT. -/
theorem test_hyps_TurnsAndDiscovery :
    ((quiet fun d => { d with relay := .outstanding 1 }).drive 0).relay = .outstanding 1 ∧
    ((quiet fun d => { d with relay := .outstanding 1 }).drive 0).hasWork = true ∧
    ((quiet fun d => { d with queue := [queued0], transfer := .sending 0 }).drive 0).transfer = .sending 0 ∧
    0 < dataSectors queued0.stripeCount queued0.stripeSize ∧ dataSectors queued0.stripeCount queued0.stripeSize ≤ 1 ∧
    (∃ note, queued0.note = some note) ∧ (quiet id).burn.rotation + Fin.ofNat 8 1 = 0 ∧
    (quiet id).burn.rotation + Fin.ofNat 8 8 = (quiet id).burn.rotation ∧
    (let s := (quiet fun d => { d with queue := [queued0] }).modDrive 3 fun d =>
       { d with condition := .full, queue := [queued0] }
     (s.drive 0).hasWork = true ∧ (s.drive 3).hasWork = true ∧ s.burn.rotation + Fin.ofNat 8 4 = 3) ∧
    (let s := quiet id
     (s.drive 0).condition = .ready ∧ (s.drive (s.burn.discovery + Fin.ofNat 8 2)).condition = .absent ∧
     (s.drive (s.burn.discovery + Fin.ofNat 8 1)).condition ≠ .absent) ∧
    (let s : State := { quiet id with drives := Vector.replicate 8 { DriveRec.reset with condition := .held } }
     (∀ a, (s.drive a).condition ≠ .absent) ∧ (∀ a, (s.drive a).hasWork = false) ∧ (s.drive 0).present = true) := by
  refine ⟨rfl, rfl, rfl, by decide, by decide, ⟨_, rfl⟩, by decide, by decide, by decide, by decide, by decide⟩

/-- The parts of the first WRITE: of a stripe with a slot, which waits for its read, and without one; and a NOTE. -/
theorem test_hyps_WritesBegin :
    readParts { queued0 with stripes := [damaged0 .repaired] } 0 1 = [{ stripe := 0, slot := some 9, data := none }] ∧
    partsDone (readParts queued0 0 1) = true ∧ (readParts queued0 0 1).length = 1 ∧ readParts queued0 1 0 = [] ∧
    dataSectors queued0.stripeCount queued0.stripeSize = 1 ∧ (∃ note, queued0.note = some note) :=
  ⟨rfl, rfl, rfl, rfl, rfl, ⟨_, rfl⟩⟩

theorem test_hyps_BurnUnitEndGoesOn :
    let s := exchanging (quiet fun d => { d with queue := [queued0], relay := .pending 1 [0] }) .frame
      (.sending (.abandon 0 0))
    s.burn.exchange = some { drive := 0, purpose := .frame, factor := .x8, phase := .sending (.abandon 0 0) } ∧
    Purpose.frame ≠ .closing ∧ (s.drive 0).queue = [queued0] ∧ (s.drive 0).withdrawn = false ∧
    (s.drive 0).relay = .pending 1 [0] ∧ ({ s.burn with mode := .block }).mode = .block ∧ s.burn.closing = [] :=
  ⟨rfl, by decide, rfl, rfl, rfl, rfl, rfl⟩

theorem test_hyps_WriteUnitEnds :
    let s := exchanging (quiet fun d => { d with queue := [queued0], withdrawn := true }) .frame
      (.sending (.write 0 0 0 1 []))
    s.burn.mode = .frame ∧ s.monitor.halted = false ∧ (s.drive 0).withdrawn = true ∧ (s.drive 0).queue = [queued0] ∧
    0 < dataSectors queued0.stripeCount queued0.stripeSize ∧ halted.monitor.halted = true :=
  ⟨rfl, rfl, rfl, rfl, by decide, rfl⟩

theorem test_hyps_BurnReadsFillTheWriteUnit :
    let parts : List ReadPart := [{ stripe := 0, slot := some 5, data := none }]
    let s := exchanging (quiet fun d => { d with queue := [queued0] }) .frame (.reading 0 1 parts)
    s.burn.exchange = some { drive := 0, purpose := .frame, factor := .x8, phase := .reading 0 1 parts } ∧
    (s.drive 0).queue = queued0 :: [] ∧
    (parts.find? fun p => p.stripe == 0 && p.data.isNone) = some { stripe := 0, slot := some 5, data := none } ∧
    s.store.flipsIn 5 queued0.stripeSize = [] ∧
    (∀ bs, ∀ p ∈ parts.map fun p => if p.stripe = 0 then { p with data := some bs } else p, p.data ≠ none) ∧
    (∃ p ∈ (parts ++ [({ stripe := 1, slot := some 6, data := none } : ReadPart)]).map fun p =>
      if p.stripe = 0 then { p with data := some [] } else p, p.data = none) := by
  refine ⟨rfl, rfl, rfl, rfl, by simp, by simp⟩

/-- A FLAWED BURN read, of a stripe with an entry in the note and of one without. -/
theorem test_hyps_FlawedBurnReads :
    let two : List Flip := [{ slot := 5, word := 0, mask := 3 }]
    ({ idle with store := idle.store.strikeAll two }.readSlot .burn 5 queued0.stripeSize).1 = true ∧
    (∃ n, queued0.note = some n ∧ ∃ y ∈ n.entries, y.index = 0) ∧
    (∃ n, ((frame0 1 .resolved { StripeRec.expected with state := .sound }).queued .normal 0).note = some n ∧
      ¬ ∃ y ∈ n.entries, y.index = 0) := by
  refine ⟨by decide +kernel, ⟨_, rfl, by decide⟩, ⟨_, rfl, by decide⟩⟩

theorem test_hyps_NewsSetsTheCondition :
    ((heldWith .none).drive 0).condition = .held ∧ ((quiet id).drive 0).condition ≠ .held ∧
    ((quiet id).drive 0).condition ≠ .fault ∧ (1 : Word32) ≠ 0 := by decide

/-- A FULL drive whose capacity rises, a drive with no media; a drive bound ACTIVE leaves service with a READY STANDBY drive,
with one that is not, and with none. -/
theorem test_hyps_ServiceIsLost :
    let s := served .running [] [queued0]
    ((lacking .full 0 s).drive 0).condition = .full ∧ ((lacking .full 0 s).drive 0).remaining.getD 0 < 1 ∧
    ((lacking .noMedia 0 s).drive 0).condition = .noMedia ∧ (s.drive 0).binding = .active 0 ∧
    (spare s).standbyOf 0 = some 1 ∧ ((spare s).drive 1).condition = .ready ∧ s.standbyOf 0 = none ∧
    ((spare s).modDrive 1 fun d => { d with condition := .held }).standbyOf 0 = some 1 ∧
    (((spare s).modDrive 1 fun d => { d with condition := .held }).drive 1).condition ≠ .ready ∧
    (∀ i, (idle.drive 0).binding ≠ .active i) := by
  refine ⟨rfl, by decide, rfl, rfl, rfl, rfl, rfl, rfl, by decide, fun i => nofun⟩

/-- Entries into FULL: from ABSENT, NO_MEDIA and READY, and none of a drive already FULL, with news of less and of no more. -/
theorem test_hyps_FullIsEntered :
    (idle.drive 0).condition = .absent ∧ ((lacking .noMedia 0 idle).drive 0).condition = .noMedia ∧
    ((quiet id).drive 0).condition = .ready ∧ ((lacking .full 9 idle).drive 0).condition = .full ∧
    (9 : Word32) ≤ ((lacking .full 9 idle).drive 0).remaining.getD 0 ∧ (9 : Word32) ≠ 0 := by decide

theorem test_hyps_AnswersEndTheirExchange :
    let s := exchanging idle .discovery (.window .presence)
    let q := exchanging (driven (heldWith (.outstanding 1)) fun d => { d with releasePending := true }) .requested
      (.window .status)
    s.burn.exchange = some { drive := 0, purpose := .discovery, factor := .x8, phase := .window .presence } ∧
    driveOf 1 = some 0 ∧ s.burn.item = .idle ∧ (s.drive 0).condition = .absent ∧
    readNewsBody [1, 100, 0, 0, 0] = some (.mediaReady 100) ∧
    burnAccepted kindPresenceAnswer (buildAnswer kindPresenceAnswer 1 8 [1, 100, 0, 0, 0]) = true ∧
    burnAccepted kindDriveAnswer (buildAnswer kindDriveAnswer 1 8 [1, 100]) = true ∧
    (q.drive 0).relay = .outstanding 1 ∧ (q.drive 0).releasePending = true ∧ (q.drive 0).condition = .held ∧
    (s.drive 0).releasePending = false ∧ ([1, 100] : List Byte) = BitVec.ofNat 8 ([100] : List Byte).length :: [100] :=
  ⟨rfl, rfl, rfl, rfl, rfl, acceptedAnswer _ _ _ _ (by decide), acceptedAnswer _ _ _ _ (by decide), rfl, rfl, rfl, rfl,
   rfl⟩

/-- Answers in a survey, at its end, in a poll round; and answers that no window expects. -/
theorem test_hyps_SurveyAndPollAnswers :
    let s := exchanging { quiet id with burn := { (quiet id).burn with
      item := .survey, survey := some { requester := .surveyCommand 4, next := 9 } } } .survey (.window .presence)
    let q := exchanging { quiet id with burn := { (quiet id).burn with item := .poll 1 } } .pollStatus (.window .status)
    s.burn.item = .survey ∧ s.burn.survey = some { requester := .surveyCommand 4, next := 9 } ∧
    (2 : Nat) = driveAddress 1 ∧ readNewsBody [0, 0, 0, 0, 0] = some .nothing ∧ q.burn.item = .poll 1 ∧
    q.burn.survey = none ∧ 1 ≤ driveAddress 0 ∧ (q.drive 0).present = true ∧ (q.drive 0).hasWork = false ∧
    idle.burn.exchange = none ∧ driveOf 2 ≠ some 0 ∧ WindowKind.status ≠ .presence ∧
    q.burn.exchange = some { drive := 0, purpose := .pollStatus, factor := .x8, phase := .window .status } := by
  refine ⟨rfl, rfl, rfl, rfl, rfl, rfl, by decide, rfl, rfl, rfl, by decide, by decide, rfl⟩

/-- What follows an ended exchange: a survey with its next address, at its end for START_UP, and in HALTED; a poll round that
asks its next drive, that makes the discovery ask, and that finds no drive ABSENT. -/
theorem test_hyps_GoesOn :
    let v (n : Nat) : Survey := { requester := .startUp, next := n }
    let s (n : Nat) : State := { quiet id with burn := { (quiet id).burn with item := .survey, survey := some (v n) } }
    let q (m : Nat) : State := { quiet id with burn := { (quiet id).burn with item := .poll m } }
    let full : State := { q 9 with drives := Vector.replicate 8 { DriveRec.reset with condition := .held } }
    (v 8).next = driveAddress 7 ∧ (s 8).monitor.halted = false ∧ ({ s 8 with monitor := halted.monitor }).monitor.halted ∧
    (v 9).next = 9 ∧ (1 ≤ driveAddress 0 ∧ ((q 1).drive 0).present = true ∧ ((q 1).drive 0).hasWork = false) ∧
    (q 1).burn.survey = none ∧ (∀ a, ¬ 9 ≤ driveAddress a) ∧
    ((q 9).drive ((q 9).burn.discovery + Fin.ofNat 8 2)).condition = .absent ∧
    ((q 9).drive ((q 9).burn.discovery + Fin.ofNat 8 1)).condition ≠ .absent ∧
    (∀ a, (full.drive a).condition ≠ .absent) := by
  refine ⟨rfl, rfl, rfl, rfl, ⟨by decide, rfl, rfl⟩, rfl, by decide, by decide, by decide, by decide⟩

theorem test_hyps_FrameAnswersMoveTheHeadFrame :
    let s := exchanging (quiet fun d => { d with queue := [queued0] }) .frame (.window .space)
    s.burn.exchange = some { drive := 0, purpose := .frame, factor := .x8, phase := .window .space } ∧
    (s.drive 0).queue = queued0 :: [] ∧ (s.drive 0).withdrawn = false ∧ (s.drive 0).abandonOwed = false ∧
    (s.drive 0).condition = .ready ∧ readDoneBody [0, 0, 0, 0] = some 0 ∧ readNewsBody [0, 0, 0, 0, 0] = some .nothing ∧
    readNewsBody [1, 1, 0, 0, 0] = some (.mediaReady 1) ∧
    burnAccepted kindWriteDone (buildAnswer kindWriteDone 1 8 [0, 0, 0, 0]) = true :=
  ⟨rfl, rfl, rfl, rfl, rfl, rfl, rfl, rfl, acceptedAnswer _ _ _ _ (by decide)⟩

/-- The news of a SPACE_OK: none and MEDIA_FULL on a READY and on a FULL drive, MEDIA_GONE, and a HELD and a FAULT drive, which
do not enter SENDING; data to send; BLOCK mode and HALTED. A WRITE_FAIL with a READY STANDBY drive and without. -/
theorem test_hyps_NewsOfFrameAnswers :
    let s := exchanging (quiet fun d => { d with queue := [queued0] }) .frame (.window .space)
    let v := exchanging (served .running [] [queued0]) .frame (.window .done)
    readNewsBody [0, 0, 0, 0, 0] = some .nothing ∧ readNewsBody [3, 0, 0, 0, 0] = some .mediaFull ∧
    readNewsBody [2, 0, 0, 0, 0] = some .mediaGone ∧ (s.drive 0).condition = .ready ∧
    ((lacking .full 0 s).drive 0).condition = .full ∧ ((lacking .held 0 s).drive 0).condition = .held ∧
    ((lacking .fault 0 s).drive 0).condition = .fault ∧ 0 < dataSectors queued0.stripeCount queued0.stripeSize ∧
    ((s.applyNews 0 .mediaGone).drive 0).condition = .noMedia ∧ s.burn.mode = .frame ∧ s.monitor.halted = false ∧
    (v.drive 0).binding = .active 0 ∧ v.standbyOf 0 = none ∧ (spare v).standbyOf 0 = some 1 ∧
    ((spare v).drive 1).condition = .ready ∧ (v.drive 0).condition ≠ .fault ∧ News.nothing ≠ .mediaGone := by
  refine ⟨rfl, rfl, rfl, rfl, rfl, rfl, rfl, by decide, by decide, rfl, rfl, rfl, rfl, rfl, rfl, by decide, by decide⟩

/-- The head frame of an exchange is withdrawn. -/
theorem test_hyps_AnswersForAWithdrawnFrame :
    let s := exchanging (quiet fun d => { d with queue := [queued0], withdrawn := true }) .frame (.window .done)
    (s.drive 0).queue = queued0 :: [] ∧ (s.drive 0).withdrawn = true ∧ (s.drive 0).abandonOwed = false ∧
    (s.drive 0).condition = .ready ∧ (∀ i, (s.drive 0).binding ≠ .active i) ∧
    burnAccepted kindWriteFail (buildAnswer kindWriteFail 1 8 [0, 0, 0, 0, 0]) = true ∧ s.burn.mode = .frame ∧
    s.monitor.halted = false := by
  refine ⟨rfl, rfl, rfl, rfl, fun i => nofun, acceptedAnswer _ _ _ _ (by decide), rfl, rfl⟩

theorem test_hyps_MissesCountUpToSilence :
    let s := exchanging (quiet fun d => { d with misses := 2 }) .pollStatus (.window .status)
    s.burn.exchange = some { drive := 0, purpose := .pollStatus, factor := .x8, phase := .window .status } ∧
    (s.drive 0).condition ≠ .absent ∧ (s.drive 0).misses = 2 ∧ (s.drive 0).withdrawn = false ∧
    (s.drive 0).abandonOwed = false ∧ s.burn.item = .idle ∧ (idle.drive 0).condition = .absent ∧
    ((quiet fun d => { d with misses := 1 }).drive 0).misses < 2 ∧ Purpose.pollStatus ≠ .requested ∧
    ((heldWith (.outstanding 4)).drive 0).relay = .outstanding 4 :=
  ⟨rfl, by decide, rfl, rfl, rfl, rfl, rfl, by decide, by decide, rfl⟩

/-- Misses of a requested ask with the release pending, of a withdrawn frame, and of a drive bound ACTIVE with its spare. -/
theorem test_hyps_MissesWithMore :
    let s := exchanging (driven (heldWith .none) fun d => { d with releasePending := true }) .requested (.window .status)
    let q := exchanging (quiet fun d => { d with queue := [queued0], withdrawn := true }) .frame (.window .space)
    let v := exchanging (spare (served .running [] [queued0])) .frame (.window .done)
    s.burn.exchange = some { drive := 0, purpose := .requested, factor := .x8, phase := .window .status } ∧
    (s.drive 0).condition ≠ .absent ∧ (s.drive 0).misses < 2 ∧ (s.drive 0).releasePending = true ∧
    (q.drive 0).queue = queued0 :: [] ∧ (q.drive 0).withdrawn = true ∧ (v.drive 0).binding = .active 0 ∧
    v.standbyOf 0 = some 1 ∧ (v.drive 1).condition = .ready ∧ (v.drive 0).queue ≠ [] := by
  refine ⟨rfl, by decide, by decide, rfl, rfl, rfl, rfl, rfl, rfl, by decide⟩

/-- Misses inside a survey and a poll round: of an ABSENT address, of a present drive, and the third of one. -/
theorem test_hyps_MissesInRounds :
    let s := exchanging { idle with burn := { idle.burn with item := .survey } } .survey (.window .presence)
    let q (m : Nat) := exchanging { quiet (fun d => { d with misses := m }) with burn := { (quiet id).burn with
      item := .poll 2 } } .pollStatus (.window .status)
    s.burn.exchange = some { drive := 0, purpose := .survey, factor := .x8, phase := .window .presence } ∧
    (s.drive 0).condition = .absent ∧ (s.drive 0).misses ≤ 2 ∧ ((q 1).drive 0).condition ≠ .absent ∧
    ((q 1).drive 0).misses < 2 ∧ ((q 2).drive 0).misses = 2 ∧ (q 2).burn.item = .poll 2 ∧
    (q 2).burn.exchange = some { drive := 0, purpose := .pollStatus, factor := .x8, phase := .window .status } := by
  refine ⟨rfl, rfl, by decide, by decide, by decide, rfl, rfl, rfl⟩

/-! ### How a step begins, and what taking work takes -/

/-- A SOUND stripe on a slot. -/
def sound0 (x : Slot) (generation : Nat) : StripeRec :=
  { StripeRec.expected with state := .sound, slot := some x, generation := some generation }

/-- Frame 1 of three stripes. -/
def three (xs : List StripeRec) : FrameRec := { frame0 1 .closed StripeRec.expected with stripeCount := 3, stripes := xs }

/-- NEIGHBOUR on each stripe of three and on the one of one: both neighbours usable, of generations 0 and 2; one not usable, and
one of generation 3; a free slot and none. -/
theorem test_hyps_NeighbourBegins :
    let f := three [sound0 7 0, damaged0 .repairing, sound0 8 2]
    let s := streaming .running [f]
    s.frame 0 1 = some f ∧ 1 < f.stripeCount ∧ 2 = f.stripeCount - 1 ∧
    ((frame0 1 .closed StripeRec.expected).stripeCount = 1 ∧ 0 < (frame0 1 .closed StripeRec.expected).stripeCount) ∧
    NeighbourInputs f.stripeCount 1 false [0, 2] ∧ NeighbourInputs f.stripeCount 0 true [1] ∧
    NeighbourInputs f.stripeCount 2 true [1] ∧ (∃ x, f.stripes[1]? = some x ∧ ¬ x.UsableAsNeighbour) ∧
    List.Forall₂ (fun (m : Nat) (p : Slot × Nat) => ∃ x, f.stripes[m]? = some x ∧ x.UsableAsNeighbour ∧
      x.slot = some p.1 ∧ x.generation = some p.2) [0, 2] [(7, 0), (8, 2)] ∧
    (∀ p ∈ [((7 : Slot), 0), (8, 2)], p.2 < 3) ∧ (∃ p ∈ [((7 : Slot), 0), (8, 2)], 3 = p.2 + 1) ∧
    (sound0 9 3).UsableAsNeighbour ∧ s.store.freeList = 5 :: [6] ∧
    ({ idle with store := { idle.store with freeList := [] } }).store.freeList = [] := by
  simp only [NeighbourInputs, StripeRec.UsableAsNeighbour]
  refine ⟨rfl, by decide, rfl, ⟨rfl, by decide⟩, by decide, by decide, by decide, ⟨_, rfl, by decide⟩,
    .cons ⟨_, rfl, by decide⟩ (.cons ⟨_, rfl, by decide⟩ .nil), by decide, by decide, by decide, rfl, by trivial⟩

/-- A part whose directory has an entry of frame 4 for stripe 0 of stream 1. -/
def lent0 (st : StreamState) (w : List FrameRec) : State :=
  (streaming st w).putSet (homeSet 0 0) { way0 := some (entry0 0 0), way1 := none }

/-- BLEND on frame 5: at the window's end, before an OPEN frame, in DRAINING, and before a CLOSED frame whose stripe is SOUND and
one whose stripe is not. -/
theorem test_hyps_BlendBegins :
    let f := frame0 5 .closed (damaged0 .repairing)
    let p := frame0 2 .resolved StripeRec.expected
    let g := frame0 6 .closed (sound0 8 0)
    (lent0 .running [f]).dir.lookup 0 0 (Directory.bounded 5 1) = some { number := 4, slot := 9, generation := 3 } ∧
    ((lent0 .running [p, f]).stream 0).window = [p] ++ f :: [] ∧ (∀ q ∈ [p], q.number ≠ 5) ∧ f.number = 5 ∧
    (frame0 6 .opened StripeRec.expected).state = .opened ∧ ((lent0 .running [p, f, g]).stream 0).window = [p] ++ f :: [g] ∧
    ((lent0 .draining [f]).stream 0).state = .draining ∧ g.state ≠ .opened ∧ g.stripes[0]? = some (sound0 8 0) ∧
    (sound0 8 0).state = .sound ∧ (sound0 8 0).slot = some 8 ∧ (damaged0 .damaged).state ≠ .sound ∧
    (lent0 .running [f, g]).store.freeList = 5 :: [6] := by
  refine ⟨rfl, rfl, by decide, rfl, rfl, rfl, rfl, by decide, rfl, rfl, rfl, by decide, rfl⟩

/-- A FREE context takes the DAMAGED stripe behind a repaired one, of the second frame of the queue, the first one's stream
being STOPPED; the turn goes to the lowest context from its place on, and to the lowest of all when those are busy. -/
theorem test_hyps_TakesWork :
    let f := three [sound0 7 0, damaged0 .damaged, damaged0 .damaged]
    let q : QueueRef := { stream := 1, number := 1, ordinal := 0 }
    let s := ((streaming .running [f]).setStream 1 (stream0 .stopped [f])).modEngine fun e => { e with queue := [q, ref0] }
    s.NextStripe { stream := 0, number := 1, stripe := 1 } f (damaged0 .damaged) ∧ s.TurnOf 0 0 ∧ s.TurnOf 2 2 ∧
    (s.setContext 3 (some (refetching 1))).TurnOf 3 0 ∧
    s.jobSteps { stream := 0, number := 1, stripe := 1 } = [] ∧
    ({ s with plans := idle.plans.set 0 (some [{ method := .mark, onFail := .endPlan }]) }).plans[cfg0.planFlagged] =
      some [{ method := .mark, onFail := .endPlan }] ∧ halted.monitor.halted = true := by
  refine ⟨⟨rfl, ⟨[_], ref0, [], rfl, fun x h => by rw [List.mem_singleton.1 h]; rfl,
    by decide, rfl, rfl⟩, rfl, rfl, rfl, ?_⟩,
    ⟨rfl, .inl ⟨by decide, by decide⟩⟩, ⟨rfl, .inl ⟨by decide, by decide⟩⟩,
    ⟨rfl, .inr ⟨by decide, by decide, by decide⟩⟩, rfl, rfl, rfl⟩
  intro m y hm hy
  obtain rfl : m = 0 := by simpa using hm
  cases hy
  decide

/-- No turn and no work: every context busy, and an empty queue. -/
theorem test_hyps_NoWorkIsTaken :
    let s := { idle with engine := { idle.engine with contexts := Vector.replicate 4 (some (refetching 1)) } }
    (∀ c, s.context c ≠ none) ∧ s.NoWork ∧ idle.NoWork := by
  refine ⟨by decide, Or.inl rfl, Or.inl rfl⟩

/-! ### Flow states, ids, and drives that leave service -/

/-- A window above half its depth in RUNNING, a suspension held, and flow states that fit their reasons. -/
theorem test_hyps_FlowIsJudged :
    let f := frame0 1 .resolved StripeRec.expected
    let s := streaming .running [f, f]
    let w := idle.setWatch 15 (some (booking false (some 0)))
    (s.stream 0).occupancyReason = true ∧ cfg0.depth / 2 < (s.stream 0).window.length ∧
    (streaming .priming [f, f]).pauseReason 0 = false ∧ w.watch 15 = some (booking false (some 0)) ∧
    (booking false (some 0)).suspension = some 0 ∧
    ((streaming .running [f]).stream 0).paused = (streaming .running [f]).pauseReason 0 ∧
    (let t := s.modStream 0 fun r => { r with paused := true }
     (t.stream 0).paused = t.pauseReason 0) := by decide

/-- Ids outside 1 to 12, an UNCONFIGURED stream, and drives in use by a binding and by their queue. -/
theorem test_hyps_StreamCommandsAreRefused :
    streamOf 0 = none ∧ streamOf 13 = none ∧ (idle.stream 0).state = .unconfigured ∧
    (idle.stream 0).state ≠ .configured ∧ ((1 : StreamIx) ≠ 0 ∧
      ((driven idle fun d => { d with binding := .standby 1 }).drive 0).binding = .standby 1) ∧
    ((driven idle fun d => { d with queue := [queued0] }).drive 0).queue ≠ [] := by decide

/-- A drive bound ACTIVE fails its write or falls silent with a READY STANDBY drive: the first of its frames may join, the second
may not; its head is withdrawn or owed an ABANDON; and it was in FAULT before. -/
theorem test_hyps_FramesMove :
    let s := (spare (served .running [] [queued0, queued0])).modDrive 1 fun d => { d with remaining := some 3 }
    (s.drive 0).binding = .active 0 ∧ s.standbyOf 0 = some 1 ∧ (s.drive 1).condition = .ready ∧
    (s.drive 0).condition ≠ .fault ∧ s.MayJoin 1 [queued0, queued0] 0 queued0 ∧
    ¬ s.MayJoin 1 [queued0, queued0] 1 queued0 ∧ ((lacking .fault 0 s).drive 0).condition = .fault ∧
    ((s.modDrive 0 fun d => { d with withdrawn := true }).drive 0).withdrawn = true ∧
    ((s.modDrive 0 fun d => { d with abandonOwed := true }).drive 0).abandonOwed = true ∧
    (s.drive 0).withdrawn = false ∧ (s.drive 0).abandonOwed = false := by
  refine ⟨rfl, rfl, rfl, by decide, ⟨by decide, by decide, by decide⟩, fun h => ?_, rfl, rfl, rfl, rfl, rfl⟩
  exact absurd h.2.1 (by decide)

end Sys2Proof.Tests
end

/-! PROOFS. How a command of the catalogue and a unit on the ingest link reach their meaning. -/

namespace Sys2Proof.Machine

/-! ### Commands and units that arrive -/

/-- The row of a command reaches the command's owning rule when the part takes commands (R155, R156; log 4). -/
theorem exec_commandRow (tag : Word16) (c : Command) {s : State} (h : s.TakesCommands)
    (hf : commandForm c = .command c) : exec (commandRow tag c) s = .next (State.owner tag c s).kick := by
  have hc : exec (commandRow tag c) s = .next (s.command tag c) := by cases c <;> rfl
  rw [hc, State.command_taken tag c s h hf]

theorem readLe32_le32Bytes (n : Word32) (rest : List Byte) : readLe32 (le32Bytes n ++ rest) = n := by
  apply BitVec.eq_of_getLsbD_eq
  intro k hk
  simp only [readLe32, le32Bytes, List.cons_append, List.nil_append, List.getD_cons_succ, List.getD_cons_zero,
    BitVec.getLsbD_append, BitVec.getLsbD_extractLsb']
  split_ifs <;>
  · rw [decide_eq_true (by omega), Bool.true_and]
    congr 1
    omega

theorem readFrameOpenBody_le32Bytes (n timecode : Word32) :
    readFrameOpenBody (le32Bytes n ++ le32Bytes timecode) = some (n, timecode) := by
  have hd : (le32Bytes n ++ le32Bytes timecode).drop 4 = le32Bytes timecode ++ [] := by simp [le32Bytes]
  rw [readFrameOpenBody, hd, readLe32_le32Bytes, readLe32_le32Bytes]
  rfl

theorem ingestAccepted_buildIngest (kind stream : Byte) {body : List Byte} (h : body.length < 65536) :
    ingestAccepted kind (buildIngest kind stream body) = true := by
  simp [ingestAccepted, buildIngest, Nat.mod_eq_of_lt h]

theorem streamOf_byteOf (i : StreamIx) : streamOf (byteOf (streamId i)) = some i := by
  revert i
  decide

theorem ne_zero_of_streamOf {b : Byte} {i : StreamIx} (h : streamOf b = some i) : b ≠ 0 := by
  rintro rfl
  cases h

theorem streamOf_eq_none {b : Byte} (h : 13 ≤ b.toNat) : streamOf b = none := by
  rw [streamOf, dif_neg (by omega)]

theorem carriedNumber_eq (kind : Byte) (body : List Byte) : carriedNumber kind body =
    if (kind = kindFrameOpen ∨ kind = kindStripe ∨ kind = kindFrameClose) ∧ 4 ≤ body.length then readLe32 body
    else 0 := by
  simp [carriedNumber, or_assoc]

/-- The frame number a frame unit carried (R171; log 12). -/
theorem carriedNumber_frame {kind : Byte} (h : kind = kindFrameOpen ∨ kind = kindStripe ∨ kind = kindFrameClose)
    (body : List Byte) : carriedNumber kind body = if 4 ≤ body.length then readLe32 body else 0 := by
  rw [carriedNumber_eq, if_congr (and_iff_right h) rfl rfl]

namespace State

/-! ### The Ingest Port (R6, R178) -/

theorem receive_rejected {kind : Byte} {u : IngestUnit} (h : ingestAccepted kind u = false) (s : State) :
    s.receive kind u = s := by
  simp [receive, h]

/-- An accepted unit to a stream 1 to 12 is routed by its kind. -/
theorem receive_stream {kind : Byte} {u : IngestUnit} {i : StreamIx} (ha : ingestAccepted kind u = true)
    (hi : streamOf u.stream = some i) (s : State) :
    s.receive kind u = (s.routeStream i kind u.body).kick := by
  rw [receive, if_pos ha, route, if_neg (ne_zero_of_streamOf hi), hi]

theorem discards_of_takesFrames {s : State} (h : s.TakesFrames) (kind : Byte) : s.discards kind = false := by
  simp [discards, h.1, h.2]

theorem receive_frameOpen {u : IngestUnit} {s : State} {i : StreamIx} (h : s.TakesFrames)
    (ha : ingestAccepted kindFrameOpen u = true) (hi : streamOf u.stream = some i) :
    exec (.frameOpen u) s = .next (s.routeFrameOpen i u.body).kick := by
  show Host.Outcome.next (s.receive kindFrameOpen u) = _
  rw [receive_stream ha hi, routeStream, discards_of_takesFrames h]
  rfl

theorem receive_stripe {u : IngestUnit} {s : State} {i : StreamIx} (h : s.TakesFrames)
    (ha : ingestAccepted kindStripe u = true) (hi : streamOf u.stream = some i) :
    s.receive kindStripe u = (s.routeStripe i u.body).kick := by
  rw [receive_stream ha hi, routeStream, discards_of_takesFrames h]
  rfl

theorem receive_frameClose {u : IngestUnit} {s : State} {i : StreamIx} (h : s.TakesFrames)
    (ha : ingestAccepted kindFrameClose u = true) (hi : streamOf u.stream = some i) :
    exec (.frameClose u) s = .next (s.routeFrameClose i u.body).kick := by
  show Host.Outcome.next (s.receive kindFrameClose u) = _
  rw [receive_stream ha hi, routeStream, discards_of_takesFrames h]
  rfl

/-- A STRIPE without the resend flag reaches the Stream Table (R8). -/
theorem exec_stripe {u : IngestUnit} {s : State} {i : StreamIx} {b : StripeBody} (h : s.TakesFrames)
    (ha : ingestAccepted kindStripe u = true) (hi : streamOf u.stream = some i)
    (hb : readStripeBody u.body = some b) (hr : b.resend = false) :
    exec (.stripe u) s = .next (s.takeStripeUnit i b).kick := by
  show Host.Outcome.next (s.receive kindStripe u) = _
  rw [receive_stripe h ha hi, routeStripe, hb]
  simp [hr]

/-- A STRIPE with the resend flag reaches the Stream Table (R10), and contexts then take work. -/
theorem exec_stripeResend {u : IngestUnit} {s : State} {i : StreamIx} {b : StripeBody} (h : s.TakesFrames)
    (ha : ingestAccepted kindStripe u = true) (hi : streamOf u.stream = some i)
    (hb : readStripeBody u.body = some b) (hr : b.resend = true) :
    exec (.stripeResend u) s = .next (s.takeResend i b).takeWork.kick := by
  show Host.Outcome.next (s.receive kindStripe u) = _
  rw [receive_stripe h ha hi, routeStripe, hb]
  simp [hr]

theorem exec_frameClose {u : IngestUnit} {s : State} {i : StreamIx} {n : Word32} (h : s.TakesFrames)
    (ha : ingestAccepted kindFrameClose u = true) (hi : streamOf u.stream = some i)
    (hb : readFrameCloseBody u.body = some n) :
    exec (.frameClose u) s = .next (s.takeFrameClose i n).takeWork.kick := by
  rw [receive_frameClose h ha hi, routeFrameClose, hb]

theorem exec_frameOpen {u : IngestUnit} {s : State} {i : StreamIx} {n timecode : Word32} (h : s.TakesFrames)
    (ha : ingestAccepted kindFrameOpen u = true) (hi : streamOf u.stream = some i)
    (hb : readFrameOpenBody u.body = some (n, timecode)) :
    exec (.frameOpen u) s = .next (s.takeFrameOpen i n timecode).takeWork.kick := by
  rw [receive_frameOpen h ha hi, routeFrameOpen, hb]

/-- The FRAME_OPEN unit the server builds reaches the Stream Table (R7). -/
theorem exec_frameOpen_built {s : State} (h : s.TakesFrames) (i : StreamIx) (n timecode : Word32) :
    exec (.frameOpen (buildIngest kindFrameOpen (byteOf (streamId i)) (le32Bytes n ++ le32Bytes timecode))) s =
      .next (s.takeFrameOpen i n timecode).takeWork.kick :=
  exec_frameOpen h (ingestAccepted_buildIngest _ _ (by simp [le32Bytes])) (streamOf_byteOf i)
    (readFrameOpenBody_le32Bytes n timecode)

/-! ### Work that cannot begin (R72) -/

theorem NoWork.of_engine {s t : State} (h : s.NoWork) (he : t.engine = s.engine) : t.NoWork := by
  simpa [NoWork, context, he] using h

theorem bumpBy_engine (s : State) (i : StreamIx) (c : Counter) (n : Word32) : (s.bumpBy i c n).engine = s.engine :=
  rfl

theorem bump_engine (s : State) (i : StreamIx) (c : Counter) : (s.bump i c).engine = s.engine := rfl

theorem stray_engine (s : State) (i : StreamIx) (n : Word32) : (s.stray i n).engine = s.engine := by
  rw [stray, (Signals.raise _ _ _ _).engine, bump_engine]

/-- With no work to take, a STRAY unit leaves the contexts as they are. -/
theorem takeWork_stray {s : State} (h : s.NoWork) (i : StreamIx) (n : Word32) :
    (s.stray i n).takeWork = s.stray i n :=
  takeWork_rests _ (.inr (h.of_engine (stray_engine s i n)))

end State

end Sys2Proof.Machine

/-! PROOFS. Power-on, the ingest link, and the units that have no effect, are STRAY or late. -/

namespace Sys2Proof.Machine.State

/-! ### Reset values -/

theorem stream_poweredOn (s : State) (i : StreamIx) : s.poweredOn.stream i = StreamRec.reset := by
  simp [stream, poweredOn, State.reset]

theorem row_poweredOn (s : State) (k : Fin 256) : s.poweredOn.dir.row k = { way0 := none, way1 := none } := by
  simp [Directory.row, poweredOn, State.reset, Directory.reset]

theorem plan_poweredOn (s : State) (p : Fin 16) : s.poweredOn.plans[p] = none := by
  simp [poweredOn, State.reset]

theorem context_poweredOn (s : State) (c : Fin 4) : s.poweredOn.context c = none := by
  simp [context, poweredOn, State.reset, Engine.reset]

theorem drive_poweredOn (s : State) (a : DriveIx) : s.poweredOn.drive a = DriveRec.reset := by
  simp [drive, poweredOn, State.reset]

theorem watch_poweredOn (s : State) (w : Fin 16) : s.poweredOn.watch w = none := by
  simp [watch, poweredOn, State.reset, Monitor.reset]

theorem fault_poweredOn (s : State) (k : FaultKind) : s.poweredOn.fault k = FaultEntry.reset k := by
  cases k <;> rfl

theorem counters_reset (c : Counter) : StreamRec.reset.counters[c.ix] = 0 := by
  simp [StreamRec.reset]

/-! ### The rebuilt flow set (R19, R20) -/

theorem mem_allStreams (i : StreamIx) : i ∈ allStreams := by
  revert i
  decide

theorem pause_mem_rebuiltFlow (s : State) (i : StreamIx) :
    { stream := i, pause := true } ∈ s.rebuiltFlow ↔ (s.stream i).paused = true := by
  simp [rebuiltFlow, mem_allStreams]

theorem resume_mem_rebuiltFlow (s : State) (i : StreamIx) : { stream := i, pause := false } ∈ s.rebuiltFlow ↔
    (s.stream i).paused = false ∧ { stream := i, pause := false } ∈ s.ret.flowSet := by
  have hany : (s.ret.flowSet.any fun f => f.stream == i && !f.pause) = true ↔
      { stream := i, pause := false } ∈ s.ret.flowSet := by
    rw [List.any_eq_true]
    constructor
    · rintro ⟨⟨j, p⟩, hf, hp⟩
      simp only [Bool.and_eq_true, beq_iff_eq, Bool.not_eq_true'] at hp
      rwa [← hp.1, ← hp.2]
    · exact fun h => ⟨_, h, by simp⟩
  simp [rebuiltFlow, mem_allStreams, ← hany]

/-! ### Units without an effect (R6, R115, R178) -/

theorem discards_iff (s : State) (kind : Byte) : s.discards kind = true ↔ s.store.sweeping = true ∨
    s.monitor.halted = true ∧ (kind = kindFrameOpen ∨ kind = kindStripe ∨ kind = kindFrameClose) := by
  simp [discards, or_assoc]

/-- During the sweep and in HALTED a frame unit changes nothing. -/
theorem receive_discarded {s : State} {i : StreamIx} {u : IngestUnit} {kind : Byte}
    (h : s.store.sweeping = true ∨ s.monitor.halted = true) (hr : s.Rested) (hi : streamOf u.stream = some i)
    (hk : kind = kindFrameOpen ∨ kind = kindStripe ∨ kind = kindFrameClose) : s.receive kind u = s := by
  cases ha : ingestAccepted kind u with
  | false => exact receive_rejected ha s
  | true =>
    rw [receive_stream ha hi, routeStream, if_pos ((discards_iff s kind).2 (h.imp_right fun h => ⟨h, hk⟩))]
    exact hr

theorem answering_rejected {kind : Byte} {u : BurnAnswer} (h : burnAccepted kind u = false) (s : State)
    (w : WindowKind) : s.answering kind w u = none := by
  simp [answering, h]

theorem answerNews_rejected {kind : Byte} {u : BurnAnswer} (h : burnAccepted kind u = false) (s : State)
    (w : WindowKind) (take : State → Exchange → News → State) : s.answerNews kind w u take = s := by
  rw [answerNews, answering_rejected h]

theorem answerDone_rejected {u : BurnAnswer} (h : burnAccepted kindWriteDone u = false) (s : State) :
    s.answerDone u = s := by
  rw [answerDone, answering_rejected h]

theorem answerRelay_rejected {u : BurnAnswer} (h : burnAccepted kindDriveAnswer u = false) (s : State) :
    s.answerRelay u = s := by
  rw [answerRelay, answering_rejected h]

/-! ### STRAY frame units (R7, R8, R10, R12) -/

section
variable {s : State} {i : StreamIx}

theorem takeFrameOpen_stray (h : (s.stream i).state.takesFrames = false) (n timecode : Word32) :
    s.takeFrameOpen i n timecode = s.stray i n := by
  rw [takeFrameOpen, h]

theorem takeStripeUnit_stray (b : StripeBody) (h : (s.stream i).state.takesFrames = false ∨
    ∀ f, s.frame i b.number = some f → f.state ≠ .opened) : s.takeStripeUnit i b = s.stray i b.number := by
  unfold takeStripeUnit
  split
  next ht hf =>
    rw [if_pos (h.resolve_left (by simp [ht]) _ hf)]
  next => rfl

theorem takeFrameClose_stray (n : Word32) (h : (s.stream i).state.takesFrames = false ∨
    ∀ f, s.frame i n = some f → f.state ≠ .opened) : s.takeFrameClose i n = s.stray i n := by
  unfold takeFrameClose
  split
  next ht hf =>
    rw [if_neg (h.resolve_left (by simp [ht]) _ hf)]
  next => rfl

theorem takeResend_stopped (b : StripeBody) (h : (s.stream i).state = .stopped) :
    s.takeResend i b = s.stray i b.number := by
  rw [takeResend, if_pos h]

theorem takeResend_late (b : StripeBody) (h : (s.stream i).state ≠ .stopped)
    (hw : s.awaiting { stream := i, number := b.number, stripe := b.index } = none) :
    s.takeResend i b = s.bump i .lateResends := by
  rw [takeResend, if_neg h, hw]

/-- The checks of R8 on a STRIPE of an OPEN frame. -/
theorem takeStripeUnit_opened {b : StripeBody} {f : FrameRec} (ht : (s.stream i).state.takesFrames = true)
    (hf : s.frame i b.number = some f) (ho : f.state = .opened) : s.takeStripeUnit i b =
      match f.stripeAt b.index with
      | none => s.stray i b.number
      | some st =>
        if b.payload.length ≠ f.stripeSize ∨ st.state = .sound then s.stray i b.number
        else s.storeStripe { stream := i, number := b.number, stripe := b.index } b := by
  unfold takeStripeUnit
  rw [ht, hf]
  simp only [ho, ne_eq, not_true_eq_false, if_false]
  cases f.stripeAt b.index with
  | none => rfl
  | some st => by_cases hl : b.payload.length = f.stripeSize <;> simp [hl]

end

end Sys2Proof.Machine.State

namespace Sys2Proof.Streams

open Machine Machine.State

/-- Settles O9: a reset state's records are the reset records, field by field. -/
theorem powerOnGivesResetValues : Obligations.PowerOnGivesResetValues := by
  intro s
  refine ⟨s.poweredOn, rfl, rfl, fun i => ?_, rfl, rfl, fun _ => rfl, rfl, rfl, rfl, rfl, row_poweredOn s, rfl, rfl, rfl,
    plan_poweredOn s, rfl, rfl, context_poweredOn s, rfl, fun a => ?_, rfl, rfl, rfl, rfl, rfl, rfl, rfl, rfl, rfl, rfl,
    rfl, rfl, rfl, rfl, watch_poweredOn s, fault_poweredOn s, rfl⟩
  · rw [stream_poweredOn]
    exact ⟨rfl, rfl, rfl, rfl, rfl, rfl, rfl, rfl, counters_reset, rfl, rfl, rfl, rfl, rfl⟩
  · rw [drive_poweredOn]
    exact ⟨rfl, rfl, rfl, rfl, rfl, rfl, rfl, rfl, rfl, rfl, rfl, rfl, rfl⟩

/-- Settles O11. -/
theorem linkChangesAreTaken : Obligations.LinkChangesAreTaken := by
  refine ⟨fun s h => ?_, fun s h => ?_⟩
  · show Host.Outcome.next s.linkLost = _
    rw [linkLost, if_pos h]
  · have he : exec .linkUp s =
        .next ({ s with linkUp := true, ret := { s.ret with flowSet := s.rebuiltFlow } }).settle := by
      show Host.Outcome.next s.linkReturned = _
      rw [linkReturned, if_neg (by simp [h])]
    exact ⟨he, pause_mem_rebuiltFlow s, resume_mem_rebuiltFlow s⟩

/-- Settles O15: each test of acceptance stands before every effect of a unit. -/
theorem discardedUnitsHaveNoEffect : Obligations.DiscardedUnitsHaveNoEffect := by
  refine ⟨fun s i u h hr hi => ?_, fun u s => ?_, fun bytes s h => ?_, fun bytes kind u s hf ha => ?_, fun u s => ?_⟩
  · have hd {kind : Byte} := receive_discarded (kind := kind) h hr hi
    exact ⟨congrArg _ (hd (.inl rfl)), congrArg _ (hd (.inr (.inl rfl))), congrArg _ (hd (.inr (.inl rfl))),
      congrArg _ (hd (.inr (.inr rfl)))⟩
  · exact ⟨fun h => congrArg _ (receive_rejected h s),
      fun h => ⟨congrArg _ (receive_rejected h s), congrArg _ (receive_rejected h s)⟩,
      fun h => congrArg _ (receive_rejected h s), fun h => congrArg _ (receive_rejected h s)⟩
  · show Host.Outcome.next (s.receiveBytes bytes) = _
    rw [receiveBytes, frameIngest, if_pos h]
  · show Host.Outcome.next (s.receiveBytes bytes) = _
    rw [receiveBytes, hf]
    exact congrArg _ (receive_rejected ha s)
  · exact ⟨fun h => congrArg _ (answerNews_rejected h s _ _), fun h => congrArg _ (answerNews_rejected h s _ _),
      fun h => congrArg _ (answerNews_rejected h s _ _), fun h => congrArg _ (answerNews_rejected h s _ _),
      fun h => congrArg _ (answerDone_rejected h s), fun h => congrArg _ (answerNews_rejected h s _ _),
      fun h => congrArg _ (answerRelay_rejected h s)⟩

/-- Settles O18. -/
theorem frameUnitsElsewhereAreStray : Obligations.FrameUnitsElsewhereAreStray := by
  intro s i u ht hw hi
  refine ⟨fun hs => ⟨fun n timecode ha hb => ?_, fun b ha hb hr => ?_, fun n ha hb => ?_⟩, fun b hs ha hb hr => ?_,
    fun n ha hb hf => ?_, fun ha hl => ?_, fun ha hl => ?_, fun ha hl => ?_⟩
  · rw [exec_frameOpen ht ha hi hb, takeFrameOpen_stray hs, takeWork_stray hw]
  · rw [exec_stripe ht ha hi hb hr, takeStripeUnit_stray b (.inl hs)]
  · rw [exec_frameClose ht ha hi hb, takeFrameClose_stray n (.inl hs), takeWork_stray hw]
  · rw [exec_stripeResend ht ha hi hb hr, takeResend_stopped b hs, takeWork_stray hw]
  · rw [exec_frameClose ht ha hi hb, takeFrameClose_stray n (.inr hf), takeWork_stray hw]
  · rw [receive_frameOpen ht ha hi, routeFrameOpen, readFrameOpenBody, if_neg hl, carriedNumber_frame (.inl rfl)]
  · rw [receive_frameClose ht ha hi, routeFrameClose, readFrameCloseBody, if_neg hl,
      carriedNumber_frame (.inr (.inr rfl))]
  · show Host.Outcome.next (s.receive kindStripe u) = _
    rw [receive_stripe ht ha hi, routeStripe, readStripeBody, if_pos hl, carriedNumber_frame (.inr (.inl rfl))]

/-- Settles O20: the checks of R8 in their order, and the store without a free slot (R33). -/
theorem stripeThatDoesNotFitIsStray : Obligations.StripeThatDoesNotFitIsStray := by
  intro s i u b ht ha hi hb hr hs
  rw [exec_stripe ht ha hi hb hr]
  refine ⟨fun hf => ?_, fun f hf => ⟨fun ho => ?_, fun ho hn => ?_, fun st ho hst => ⟨fun hx => ?_, fun hl hx he => ?_⟩⟩⟩
  · rw [takeStripeUnit_stray b (.inr fun f h => by simp [hf] at h)]
  · rw [takeStripeUnit_stray b (.inr fun g h => by rwa [← Option.some.inj (hf.symm.trans h)])]
  · rw [takeStripeUnit_opened hs hf ho, hn]
  · rw [takeStripeUnit_opened hs hf ho, hst]
    exact congrArg _ (congrArg _ (if_pos hx))
  · rw [takeStripeUnit_opened hs hf ho, hst]
    simp only [hl, hx, ne_eq, not_true_eq_false, or_self, if_false]
    rw [storeStripe, askSlot_none he]

/-- Settles O21. -/
theorem unmatchedResendIsLate : Obligations.UnmatchedResendIsLate := by
  intro s i u b ht hw ha hi hb hr hs hn
  rw [exec_stripeResend ht ha hi hb hr, takeResend_late b hs hn,
    takeWork_rests _ (.inr (hw.of_engine (bump_engine s i .lateResends)))]

/-- Settles O24. -/
theorem unitsOfOtherKindsAreStray : Obligations.UnitsOfOtherKindsAreStray := by
  intro s bytes kind u hf ha
  have he : exec (.unknownUnitKind bytes) s = .next (s.route kind u.stream u.body) := by
    show Host.Outcome.next (s.receiveBytes bytes) = _
    rw [receiveBytes, hf]
    simp [receive, ha]
  rw [he]
  refine ⟨fun h => ?_, fun i hi h1 h2 h3 => ⟨fun hs => ?_, fun hs hr => ?_⟩⟩
  · have h0 : u.stream ≠ 0 := fun e => by simp [e] at h
    rw [route, if_neg h0, streamOf_eq_none h, carriedNumber_eq]
  · have hk : ¬ (kind = kindFrameOpen ∨ kind = kindStripe ∨ kind = kindFrameClose) :=
      not_or.2 ⟨h1, not_or.2 ⟨h2, h3⟩⟩
    have hd : ¬ s.discards kind = true := fun h => ((discards_iff s kind).1 h).elim (by simp [hs]) fun h => hk h.2
    have hc : carriedNumber kind u.body = 0 := by rw [carriedNumber_eq, if_neg fun h => hk h.1]
    rw [route, if_neg (ne_zero_of_streamOf hi), hi]
    simp only [routeStream, hd, h1, h2, h3, hc, Bool.false_eq_true, if_false]
  · rw [route, if_neg (ne_zero_of_streamOf hi), hi]
    simp only [routeStream, (discards_iff s kind).2 (.inl hs), if_true]
    exact congrArg _ hr

end Sys2Proof.Streams

/-! PROOFS. The fields of a configuration (R2), START_STREAM (R13, R142) and the reports (R22, R31, R51, R56, R152, R176). -/

namespace Sys2Proof.Machine

/-! ### Fields and codes -/

theorem finOf_eq_some {n : Nat} {b : Byte} {p : Fin n} : finOf n b = some p ↔ p.val = b.toNat := by
  unfold finOf
  split
  next h => simp [Fin.ext_iff, eq_comm]
  next h => simpa using fun e : p.val = b.toNat => h (e ▸ p.isLt)

theorem finOf_isSome {n : Nat} {b : Byte} : (∃ p, finOf n b = some p) ↔ b.toNat < n := by
  simp only [finOf_eq_some]
  exact ⟨fun ⟨p, hp⟩ => hp ▸ p.isLt, fun h => ⟨⟨_, h⟩, rfl⟩⟩

theorem finOf_eq_none {n : Nat} {b : Byte} (h : n ≤ b.toNat) : finOf n b = none := by
  rw [finOf, dif_neg (by omega)]

theorem driveOf_eq_some {b : Byte} {a : DriveIx} : driveOf b = some a ↔ driveAddress a = b.toNat := by
  unfold driveOf driveAddress
  split
  next h =>
    rw [Option.some.injEq, Fin.ext_iff]
    show b.toNat - 1 = a.val ↔ _
    omega
  next h => exact iff_of_false (by simp) (by have := a.isLt; omega)

theorem driveOf_isSome {b : Byte} : (∃ a, driveOf b = some a) ↔ 1 ≤ b.toNat ∧ b.toNat ≤ 8 := by
  simp only [driveOf_eq_some, driveAddress]
  exact ⟨fun ⟨a, ha⟩ => by have := a.isLt; omega,
    fun h => ⟨⟨b.toNat - 1, by omega⟩, Nat.sub_add_cancel h.1⟩⟩

theorem driveOf_eq_none {b : Byte} (h : ¬ (1 ≤ b.toNat ∧ b.toNat ≤ 8)) : driveOf b = none := by
  rw [driveOf, dif_neg h]

theorem readFlag_eq_some {b : Byte} {v : Bool} : readFlag b = some v ↔ b = if v then 1 else 0 := by
  unfold readFlag
  cases v <;> split_ifs with h0 h1 <;> simp_all

theorem readFlag_isSome {b : Byte} : (∃ v, readFlag b = some v) ↔ b.toNat ≤ 1 := by
  simp only [readFlag_eq_some, Bool.exists_bool, if_true, Bool.false_eq_true, if_false]
  rw [BitVec.toNat_eq, BitVec.toNat_eq]
  show b.toNat = 0 ∨ b.toNat = 1 ↔ _
  omega

/-- A configuration is accepted when every field is in its range, and then holds the fields (R2). -/
theorem readStreamConfig_eq_some {f : ConfigFields} {cfg : StreamConfig} : readStreamConfig f = some cfg ↔
    ((1 ≤ f.stripes.toNat ∧ f.stripes.toNat ≤ 72) ∧
      (512 ≤ f.stripeSize.toNat ∧ f.stripeSize.toNat ≤ 16384 ∧ f.stripeSize.toNat % 512 = 0) ∧
      (2 ≤ f.depth.toNat ∧ f.depth.toNat ≤ 6) ∧ (900 ≤ f.period.toNat ∧ f.period.toNat ≤ 9000) ∧
      f.pattern ≠ 0 ∧ f.genLimit.toNat ≤ 3 ∧ f.partner ≠ f.primary ∧ f.partner.toNat ≤ 8) ∧
    ∃ (pf pc pa : Fin 16) (primary : DriveIx) (fallback notAllowed : Bool),
      finOf 16 f.planFlagged = some pf ∧ finOf 16 f.planCorrupt = some pc ∧ finOf 16 f.planAbsent = some pa ∧
      driveOf f.primary = some primary ∧ readFlag f.fallback = some fallback ∧ readFlag f.fill = some notAllowed ∧
      cfg = { stripes := f.stripes.toNat, stripeSize := f.stripeSize.toNat, planFlagged := pf, planCorrupt := pc,
              planAbsent := pa, depth := f.depth.toNat, period := f.period.toNat, pattern := f.pattern,
              primary := primary, partner := driveOf f.partner, genLimit := f.genLimit.toNat,
              fallback := if fallback then .mark else .reference, fillAllowed := !notAllowed } := by
  unfold readStreamConfig
  split
  next hr =>
    rw [and_iff_right hr]
    split
    next hpf hpc hpa hp hfb hfl => simp [hpf, hpc, hpa, hp, hfb, hfl, eq_comm]
    next hno =>
      refine iff_of_false (by simp) ?_
      rintro ⟨pf, pc, pa, p, fb, na, h1, h2, h3, h4, h5, h6, -⟩
      exact hno pf pc pa p fb na h1 h2 h3 h4 h5 h6
  next hr => exact iff_of_false (by simp) fun h => hr h.1

theorem partnerAddress {b : Byte} (h : b.toNat ≤ 8) : ((driveOf b).map driveAddress).getD 0 = b.toNat := by
  cases hd : driveOf b with
  | some a => exact driveOf_eq_some.1 hd
  | none =>
    have := mt (driveOf_isSome (b := b)).2 (by simp [hd])
    simp only [Option.map_none, Option.getD_none]
    omega

namespace State

/-! ### Bindings (R142) -/

theorem driveInUse_iff (s : State) (i : StreamIx) (a : DriveIx) : s.driveInUse i a = true ↔
    (∃ j, j ≠ i ∧ ((s.drive a).binding = .active j ∨ (s.drive a).binding = .standby j)) ∨
      (s.drive a).queue ≠ [] := by
  unfold driveInUse
  cases (s.drive a).binding <;> simp [Binding.stream]

theorem driveInUse_partner (s : State) (i : StreamIx) (cfg : StreamConfig) :
    (cfg.partner.map (s.driveInUse i)).getD false = true ↔ ∃ b, cfg.partner = some b ∧ s.driveInUse i b = true := by
  cases cfg.partner <;> simp

theorem chooseDrives_inUse {s : State} {i : StreamIx} {cfg : StreamConfig}
    (h : s.driveInUse i cfg.primary = true ∨ ∃ b, cfg.partner = some b ∧ s.driveInUse i b = true) :
    s.chooseDrives i cfg = .error .inUse := by
  rw [← driveInUse_partner, ← Bool.or_eq_true] at h
  rw [chooseDrives, if_pos h]

/-- With neither drive in use, the primary is taken when it is READY, else the partner (R142). -/
theorem chooseDrives_free {s : State} {i : StreamIx} {cfg : StreamConfig}
    (h1 : s.driveInUse i cfg.primary = false) (h2 : ∀ b, cfg.partner = some b → s.driveInUse i b = false) :
    s.chooseDrives i cfg =
      if (s.drive cfg.primary).condition = .ready then .ok (cfg.primary, cfg.partner)
      else
        match cfg.partner with
        | some b => if (s.drive b).condition = .ready then .ok (b, some cfg.primary) else .error .noDrive
        | none => .error .noDrive := by
  have h : ¬ (s.driveInUse i cfg.primary || (cfg.partner.map (s.driveInUse i)).getD false) = true := by
    rw [Bool.or_eq_true, driveInUse_partner]
    rintro (h | ⟨b, hb, h⟩)
    · simp [h1] at h
    · simp [h2 b hb] at h
  rw [chooseDrives, if_neg h] <;> rfl

/-- What the bindings of a start make of the state (R142): the two drives alone change. -/
theorem bindDrives_bound (s : State) (i : StreamIx) (active : DriveIx) (standby : Option DriveIx)
    (h : standby ≠ some active) :
    s.bindDrives i active standby = { s with drives := (s.bindDrives i active standby).drives } ∧
    (s.bindDrives i active standby).drive active = { s.drive active with binding := .active i } ∧
    (∀ b, standby = some b → (s.bindDrives i active standby).drive b = { s.drive b with binding := .standby i }) ∧
    ∀ a, a ≠ active → standby ≠ some a → (s.bindDrives i active standby).drive a = s.drive a := by
  cases standby with
  | none =>
    refine ⟨rfl, ?_, by simp, fun a ha _ => ?_⟩
    · simp [bindDrives]
    · exact drive_modDrive_other _ _ ha.symm
  | some b =>
    have hb : active ≠ b := fun e => h (by rw [e])
    refine ⟨rfl, ?_, ?_, fun a ha hs => ?_⟩
    · rw [bindDrives, drive_modDrive_other _ _ hb.symm, drive_modDrive_same]
    · rintro _ ⟨⟩
      rw [bindDrives, drive_modDrive_same, drive_modDrive_other _ _ hb]
    · rw [bindDrives, drive_modDrive_other _ _ (fun e => hs (by rw [e])), drive_modDrive_other _ _ ha.symm]

/-! ### START_STREAM (R13) -/

theorem ownStartStream_wrongState {s : State} {tag : Word16} {id : Byte} {i : StreamIx} (hi : streamOf id = some i)
    (h : (s.stream i).state ≠ .configured) : ownStartStream tag id s = s.refuse tag .wrongState := by
  unfold ownStartStream
  rw [hi]
  dsimp only
  split
  next hc _ => exact absurd hc h
  next => rfl

theorem ownStartStream_configured {s : State} {tag : Word16} {id : Byte} {i : StreamIx} {cfg : StreamConfig}
    (hi : streamOf id = some i) (h : (s.stream i).state = .configured) (hc : (s.stream i).config = some cfg) :
    ownStartStream tag id s =
      if s.planLoaded cfg.planFlagged && s.planLoaded cfg.planCorrupt && s.planLoaded cfg.planAbsent then
        match s.chooseDrives i cfg with
        | .ok (active, standby) => ((s.bindDrives i active standby).prime i).done tag .empty
        | .error why => s.refuse tag why
      else s.refuse tag .planMissing := by
  unfold ownStartStream
  rw [hi]
  dsimp only
  rw [h, hc] <;> rfl

/-! ### Plan users (R56) -/

theorem causesNaming_eq (cfg : StreamConfig) (p : Fin 16) : causesNaming cfg p =
    (if cfg.planFlagged = p then [.flagged] else []) ++ (if cfg.planCorrupt = p then [.corrupt] else []) ++
      (if cfg.planAbsent = p then [.absent] else []) := by
  simp only [causesNaming, List.filter_cons, List.filter_nil, StreamConfig.planFor, beq_iff_eq]
  split_ifs <;> rfl

theorem mem_planUsers_iff (s : State) (p : Fin 16) (i : StreamIx) (causes : List Cause) :
    ({ stream := i, causes := causes } : PlanUser) ∈ s.planUsers p ↔
      (s.stream i).state.started = true ∧ causes ≠ [] ∧ ∃ cfg, (s.stream i).config = some cfg ∧
        causes = (if cfg.planFlagged = p then [.flagged] else []) ++ (if cfg.planCorrupt = p then [.corrupt] else []) ++
          (if cfg.planAbsent = p then [.absent] else []) := by
  rw [mem_planUsers]
  simp only [← causesNaming_eq, planCauses]
  split
  next cfg hs hc => simp [hs, hc]
  next hno =>
    refine iff_of_false (fun h => h.1 h.2) ?_
    rintro ⟨hs, -, cfg, hc, -⟩
    exact hno cfg hs hc

theorem planUsers_ascending (s : State) (p : Fin 16) : ((s.planUsers p).map (·.stream)).Pairwise (· < ·) := by
  refine List.Pairwise.sublist (List.filter_sublist.map _) ?_
  rw [List.map_map]
  show (allStreams.map id).Pairwise (· < ·)
  decide

end State

end Sys2Proof.Machine

namespace Sys2Proof.Streams

open Machine Machine.State

/-- Settles O33. -/
theorem configurationRanges : Obligations.ConfigurationRanges := by
  intro f
  refine ⟨⟨?_, fun h => ?_⟩, fun cfg h => ?_⟩
  · rintro ⟨cfg, h⟩
    obtain ⟨hr, pf, pc, pa, p, fb, na, h1, h2, h3, h4, h5, h6, -⟩ := readStreamConfig_eq_some.1 h
    have r1 := finOf_isSome.1 ⟨pf, h1⟩
    have r2 := finOf_isSome.1 ⟨pc, h2⟩
    have r3 := finOf_isSome.1 ⟨pa, h3⟩
    have r4 := driveOf_isSome.1 ⟨p, h4⟩
    have r5 := readFlag_isSome.1 ⟨fb, h5⟩
    have r6 := readFlag_isSome.1 ⟨na, h6⟩
    refine ⟨?_, ?_, ?_, ?_, ?_, ?_, ?_, ?_, ?_, ?_, ?_, ?_, hr.2.2.2.2.1, r4.1, r4.2, ?_, hr.2.2.2.2.2.2.1, ?_, r5, r6⟩ <;>
      omega
  · obtain ⟨a1, a2, b1, b2, b3, r1, r2, r3, c1, c2, d1, d2, hp, e1, e2, hpb, hpp, hg, hfb, hfl⟩ := h
    obtain ⟨pf, h1⟩ := finOf_isSome.2 (Nat.lt_succ_of_le r1)
    obtain ⟨pc, h2⟩ := finOf_isSome.2 (Nat.lt_succ_of_le r2)
    obtain ⟨pa, h3⟩ := finOf_isSome.2 (Nat.lt_succ_of_le r3)
    obtain ⟨p, h4⟩ := driveOf_isSome.2 ⟨e1, e2⟩
    obtain ⟨fb, h5⟩ := readFlag_isSome.2 hfb
    obtain ⟨na, h6⟩ := readFlag_isSome.2 hfl
    exact ⟨_, readStreamConfig_eq_some.2 ⟨⟨⟨a1, a2⟩, ⟨b1, b2, b3⟩, ⟨c1, c2⟩, ⟨d1, d2⟩, hp, hg, hpp, hpb⟩,
      pf, pc, pa, p, fb, na, h1, h2, h3, h4, h5, h6, rfl⟩⟩
  · obtain ⟨hr, pf, pc, pa, p, fb, na, h1, h2, h3, h4, h5, h6, rfl⟩ := readStreamConfig_eq_some.1 h
    refine ⟨rfl, rfl, finOf_eq_some.1 h1, finOf_eq_some.1 h2, finOf_eq_some.1 h3, rfl, rfl, rfl, driveOf_eq_some.1 h4,
      partnerAddress hr.2.2.2.2.2.2.2, rfl, ?_, ?_⟩
    · rw [readFlag_eq_some.1 h5]
      cases fb <;> simp
    · rw [readFlag_eq_some.1 h6]
      cases na <;> simp

/-- Settles O31. -/
theorem statusCommandsOnlyReport : Obligations.StatusCommandsOnlyReport := by
  intro tag s ht
  refine ⟨fun id i hi => ⟨s.streamReport i, ?_, rfl, rfl, rfl, rfl, rfl, rfl, rfl, rfl, rfl, rfl, rfl⟩, fun id hi => ?_,
    fun x => ⟨s.storeReport none, ?_, rfl, rfl, rfl, rfl, rfl, rfl, rfl, rfl⟩,
    fun x h => ⟨s.storeReport (some ⟨x.toNat, h⟩), ?_, rfl⟩, fun x h => ?_,
    fun first count h1 h2 h3 => ⟨s.directoryReport first.toNat count.toNat, ?_, rfl, rfl, rfl, rfl, ?_, fun k hk => ?_⟩,
    fun first count h => ?_, fun id p hp => ⟨s.planUsers p, ?_, planUsers_ascending s p, mem_planUsers_iff s p⟩,
    fun id h => ?_, ⟨s.driveReport, driveReport_reports s, exec_commandRow tag (.driveStatus 0) ht rfl⟩,
    fun id a ha => ⟨s.driveReport a, driveReport_reports s a, ?_⟩, fun id h => ?_,
    exec_commandRow tag .readFaults ht rfl⟩
  · refine (exec_commandRow tag (.streamStatus id) ht rfl).trans ?_
    rw [owner, ownStreamStatus, hi]
  · refine (exec_commandRow tag (.streamStatus id) ht rfl).trans ?_
    rw [owner, ownStreamStatus, hi]
  · exact exec_commandRow tag (.storeStatus 0 x) ht rfl
  · refine (exec_commandRow tag (.storeStatus 1 x) ht rfl).trans ?_
    show Host.Outcome.next (State.kick (if h : x.toNat < 16384 then _ else _)) = _
    rw [dif_pos h]
  · refine (exec_commandRow tag (.storeStatus 1 x) ht rfl).trans ?_
    show Host.Outcome.next (State.kick (if h : x.toNat < 16384 then _ else _)) = _
    rw [dif_neg (by omega)]
  · refine (exec_commandRow tag (.readDirectory first count) ht rfl).trans ?_
    rw [owner, ownReadDirectory, if_pos ⟨h1, h2, by omega⟩]
  · simp [directoryReport]
  · simp [directoryReport, hk]
  · refine (exec_commandRow tag (.readDirectory first count) ht rfl).trans ?_
    rw [owner, ownReadDirectory, if_neg (by omega)]
  · refine (exec_commandRow tag (.readPlan id) ht rfl).trans ?_
    rw [owner, ownReadPlan, finOf_eq_some.2 hp.symm]
  · refine (exec_commandRow tag (.readPlan id) ht rfl).trans ?_
    rw [owner, ownReadPlan, finOf_eq_none h]
  · have h0 : id ≠ 0 := by rintro rfl; cases ha
    refine (exec_commandRow tag (.driveStatus id) ht rfl).trans ?_
    rw [owner, ownDriveStatus, if_neg h0, ha]
  · have h0 : id ≠ 0 := by rintro rfl; simp at h
    refine (exec_commandRow tag (.driveStatus id) ht rfl).trans ?_
    rw [owner, ownDriveStatus, if_neg h0, driveOf_eq_none (by omega)]

/-- Settles O35: the checks of R13 and R142 in their order, and the two bindings. -/
theorem startStreamEntersPriming : Obligations.StartStreamEntersPriming := by
  refine ⟨driveInUse_iff, fun tag id s ht => ?_⟩
  have hrow : exec (.startStream tag id) s = .next (ownStartStream tag id s).kick :=
    exec_commandRow tag (.startStream id) ht rfl
  rw [hrow]
  refine ⟨fun hi => ?_, fun i hi h => ?_, fun i cfg hi hs hc hd => ?_⟩
  · rw [ownStartStream, hi]
  · rw [ownStartStream_wrongState hi h]
  · rw [ownStartStream_configured hi hs hc]
    refine ⟨fun hp => ?_, fun p1 p2 p3 => ?_⟩
    · have hn : ¬ (s.planLoaded cfg.planFlagged && s.planLoaded cfg.planCorrupt && s.planLoaded cfg.planAbsent) = true := by
        simp only [planLoaded, Bool.and_eq_true, Option.isSome_iff_ne_none]
        tauto
      rw [if_neg hn]
    · have hl : (s.planLoaded cfg.planFlagged && s.planLoaded cfg.planCorrupt && s.planLoaded cfg.planAbsent) = true := by
        simp only [planLoaded, Bool.and_eq_true, Option.isSome_iff_ne_none]
        exact ⟨⟨p1, p2⟩, p3⟩
      rw [if_pos hl]
      refine ⟨fun hu => ?_, fun u1 u2 => ⟨fun n1 n2 => ?_, fun active standby ha => ?_⟩⟩
      · rw [chooseDrives_inUse hu]
      · rw [chooseDrives_free u1 u2, if_neg n1]
        cases hb : cfg.partner with
        | none => rfl
        | some b => simp [n2 b hb]
      · have hch : s.chooseDrives i cfg = .ok (active, standby) := by
          rw [chooseDrives_free u1 u2]
          obtain ⟨hr, rfl, rfl⟩ | ⟨hr, hp, hb, rfl⟩ := ha
          · rw [if_pos hr]
          · rw [if_neg hr, hp]
            simp [hb]
        have hne : standby ≠ some active := by
          obtain ⟨-, rfl, rfl⟩ | ⟨hr, -, hb, rfl⟩ := ha
          · exact hd
          · rintro ⟨⟩
            exact hr hb
        obtain ⟨hrest, hact, hstd, hoth⟩ := bindDrives_bound s i active standby hne
        have hst (j : StreamIx) : (s.bindDrives i active standby).stream j = s.stream j := by rw [hrest]; rfl
        rw [hch]
        refine ⟨_, rfl, ?_, hact, hstd, hoth, fun j hj => ?_, ?_, ?_, ?_, ?_, ?_, ?_⟩
        · rw [prime, stream_modStream_same, hst]
        · rw [prime, stream_modStream_other _ _ hj.symm, hst]
        all_goals rw [prime, hrest]; rfl

end Sys2Proof.Streams

/-! PROOFS. What the close of a frame makes of a state (R4, R11): `State.Closed`, and FRAME_CLOSE. -/

namespace Sys2Proof.Machine

/-! ### Counters (R21) -/

theorem Counter.ix_injective {c d : Counter} (h : c.ix = d.ix) : c = d := by
  revert h
  cases c <;> cases d <;> decide

/-- A counter after a write of one. -/
theorem counter_set (v : Vector Word32 17) (c d : Counter) (x : Word32) :
    (v.set c.ix x)[d.ix] = if d = c then x else v[d.ix] := by
  by_cases h : d = c
  · subst h
    simp
  · have : c.ix.val ≠ d.ix.val := fun e => h (Counter.ix_injective (Fin.ext e)).symm
    simp [h, this]

namespace State

/-- A counter after a raise of one (R21). -/
theorem counter_bumpBy (s : State) (i : StreamIx) (c d : Counter) (n : Word32) :
    ((s.bumpBy i c n).stream i).counters[d.ix] = (s.stream i).counters[d.ix] + if d = c then n else 0 := by
  rw [bumpBy, stream_modStream_same]
  dsimp only
  rw [counter_set]
  split
  next h => rw [h]
  next => simp

theorem stream_bumpBy_same (s : State) (i : StreamIx) (c : Counter) (n : Word32) :
    (s.bumpBy i c n).stream i = { s.stream i with counters := ((s.bumpBy i c n).stream i).counters } := by
  simp [bumpBy]

theorem stream_bumpBy_other (s : State) {i j : StreamIx} (c : Counter) (n : Word32) (h : j ≠ i) :
    (s.bumpBy i c n).stream j = s.stream j :=
  stream_modStream_other s _ h.symm

theorem window_bumpBy (s : State) (i j : StreamIx) (c : Counter) (n : Word32) :
    ((s.bumpBy i c n).stream j).window = (s.stream j).window := by
  by_cases h : j = i
  · subst h
    rw [stream_bumpBy_same]
  · rw [stream_bumpBy_other _ _ _ h]

theorem frame_bumpBy (s : State) (i j : StreamIx) (c : Counter) (n m : Word32) :
    (s.bumpBy i c n).frame j m = s.frame j m := by
  rw [frame, window_bumpBy, frame]

/-- The flow reasons of a stream rest on its configuration, its state and the length of its window (R19). -/
theorem occupancyReason_of_length {r q : StreamRec} (h1 : q.config = r.config) (h2 : q.state = r.state)
    (h3 : q.window.length = r.window.length) : q.occupancyReason = r.occupancyReason := by
  simp [StreamRec.occupancyReason, h1, h2, h3]

end State

/-! ### Stripes at close (R11) -/

theorem close_eq_withDamageFixed (f : FrameRec) (o : Word48) : f.close o = f.withDamageFixed o := by
  have hp : (fun x : StripeRec => x.state == .damaged) ∘ StripeRec.close =
      fun x => x.state == .damaged || x.state == .expected := by
    funext x
    simp only [Function.comp, StripeRec.close]
    split
    next h => simp [h]
    next h => simp [h]
  have hd : ((f.stripes.map StripeRec.close).filter fun x => x.state == .damaged).length =
      (f.stripes.filter fun x => x.state == .damaged || x.state == .expected).length := by
    rw [List.filter_map, List.length_map, hp]
  simp only [FrameRec.close, FrameRec.withDamageFixed, hd]
  rfl

/-- How many stripes a close finds damaged (R11). -/
def FrameRec.damageAtClose (f : FrameRec) : Nat :=
  (f.stripes.filter fun x => x.state == .damaged || x.state == .expected).length

/-- What a close adds to a counter (R11, R21). -/
def FrameRec.closeCount (f : FrameRec) : Counter → Nat
  | .damagedFlagged => (f.stripes.filter fun x => x.state == .damaged && x.cause == some .flagged).length
  | .damagedCorrupt => (f.stripes.filter fun x => x.state == .damaged && x.cause == some .corrupt).length
  | .damagedAbsent =>
    (f.stripes.filter fun x => x.state == .expected || (x.state == .damaged && x.cause == some .absent)).length
  | _ => 0

theorem FrameRec.closeCount_other (f : FrameRec) {c : Counter} (h1 : c ≠ .damagedFlagged) (h2 : c ≠ .damagedCorrupt)
    (h3 : c ≠ .damagedAbsent) : f.closeCount c = 0 := by
  cases c <;> simp_all [closeCount]

theorem countCause_close (c : Cause) (sts : List StripeRec) : countCause c (sts.map StripeRec.close) =
    (sts.filter fun x => (x.state == .expected && decide (c = .absent)) || (x.state == .damaged && x.cause == some c)).length := by
  rw [countCause, List.filter_map, List.length_map]
  congr 2
  funext x
  simp only [Function.comp, StripeRec.close]
  split
  next h => simp only [h]; cases c <;> rfl
  next h => simp [h]

namespace State

/-! ### Positions in a window -/

theorem predecessorOf_mem {n : Word32} {p : FrameRec} : ∀ {w : List FrameRec}, predecessorOf n w = some p → p ∈ w
  | [], h => by simp [predecessorOf] at h
  | [_], h => by simp [predecessorOf] at h
  | f :: g :: rest, h => by
    rw [predecessorOf] at h
    split at h
    · cases h
      exact List.mem_cons_self
    · exact List.mem_cons_of_mem _ (predecessorOf_mem h)

/-- The record before a frame, whose number no record before it bears. -/
theorem predecessorOf_append {n : Word32} {p f : FrameRec} {after : List FrameRec} (hf : f.number = n)
    (hp : p.number ≠ n) : ∀ before : List FrameRec, (∀ q ∈ before, q.number ≠ n) →
      predecessorOf n (before ++ p :: f :: after) = some p
  | [], _ => by simp [predecessorOf, hf]
  | [x], _ => by simp [predecessorOf, hf, hp]
  | x :: y :: before, h => by
    have hy : (y.number == n) = false := by simpa using h y (by simp)
    rw [List.cons_append, List.cons_append, predecessorOf, hy]
    exact predecessorOf_append hf hp (y :: before) fun q hq => h q (List.mem_cons_of_mem _ hq)

theorem predecessorOf_none {n : Word32} : ∀ {f : FrameRec} {rest : List FrameRec}, (∀ q ∈ rest, q.number ≠ n) →
    predecessorOf n (f :: rest) = none
  | _, [], _ => by simp [predecessorOf]
  | f, g :: rest, h => by
    have hg : (g.number == n) = false := by simpa using h g (by simp)
    rw [predecessorOf, hg]
    exact predecessorOf_none fun q hq => h q (List.mem_cons_of_mem _ hq)

/-- A window after a change of the one frame of a number. -/
theorem map_number_ne {n : Word32} (g : FrameRec → FrameRec) {w : List FrameRec} (h : ∀ q ∈ w, q.number ≠ n) :
    (w.map fun f => if f.number == n then g f else f) = w := by
  conv => rhs; rw [← List.map_id w]
  exact List.map_congr_left fun q hq => by simp [h q hq]

/-- A frame before another in a window whose numbers rise strictly (R5). -/
theorem number_ne_of_append {before after : List FrameRec} {f : FrameRec}
    (hp : ((before ++ f :: after).map (·.number)).Pairwise (· < ·)) :
    (∀ q ∈ before, q.number ≠ f.number) ∧ ∀ q ∈ after, q.number ≠ f.number := by
  rw [List.map_append, List.map_cons, List.pairwise_append, List.pairwise_cons] at hp
  obtain ⟨-, ⟨h2, -⟩, h3⟩ := hp
  exact ⟨fun q hq => BitVec.ne_of_lt (h3 _ (List.mem_map_of_mem hq) _ List.mem_cons_self),
    fun q hq => (BitVec.ne_of_lt (h2 _ (List.mem_map_of_mem hq))).symm⟩

/-! ### The close of a frame -/

/-- The record and the counters of a frame that closes, and the close ordinal counter (R11 steps 1 to 3). -/
def closeRecord (s : State) (i : StreamIx) (n : Word32) (f : FrameRec) : State :=
  let g := f.close s.engine.closeOrdinal
  ((((s.modFrame i n fun _ => g).bumpBy i .damagedFlagged
    (BitVec.ofNat 32 (countCause .flagged g.stripes))).bumpBy i .damagedCorrupt
    (BitVec.ofNat 32 (countCause .corrupt g.stripes))).bumpBy i .damagedAbsent
    (BitVec.ofNat 32 (countCause .absent g.stripes))).modEngine fun e => { e with closeOrdinal := e.closeOrdinal + 1 }

/-- The damage of a frame that closes is told (R11 step 4). -/
def closeDamage (s : State) (i : StreamIx) (n : Word32) (d : Nat) : State :=
  if d = 0 then s else (s.enqueueFrame i n).occur .damageRate (streamId i) (BitVec.ofNat 32 d)

/-- The PARKED stripes of the record before a frame return to DAMAGED (R11 step 5). -/
def unparkBefore (s : State) (i : StreamIx) (n : Word32) : State :=
  match predecessorOf n (s.stream i).window with
  | some p => s.unparkFrame i p.number
  | none => s

theorem closeFrame_eq {s : State} {i : StreamIx} {n : Word32} {f : FrameRec} (h : s.frame i n = some f) :
    s.closeFrame i n = ((s.closeRecord i n f).closeDamage i n f.damageAtClose).unparkBefore i n := by
  have hd : (f.close s.engine.closeOrdinal).damaged = f.damageAtClose := by rw [close_eq_withDamageFixed]; rfl
  unfold closeFrame
  rw [h]
  dsimp only
  rw [hd] <;> rfl

section
variable (s : State) (i : StreamIx) (n : Word32) (f : FrameRec)

theorem closeRecord_rest : s.closeRecord i n f =
    { s with streams := (s.closeRecord i n f).streams
             engine := { s.engine with closeOrdinal := s.engine.closeOrdinal + 1 } } := rfl

theorem stream_closeRecord_other {j : StreamIx} (h : j ≠ i) : (s.closeRecord i n f).stream j = s.stream j := by
  simp only [closeRecord, stream_congr_modEngine, stream_bumpBy_other _ _ _ h, stream_modFrame_other _ _ _ h]

theorem stream_closeRecord_same : (s.closeRecord i n f).stream i = { s.stream i with
    window := (s.stream i).window.map fun x => if x.number == n then f.withDamageFixed s.engine.closeOrdinal else x
    counters := ((s.closeRecord i n f).stream i).counters } := by
  simp only [closeRecord, stream_congr_modEngine]
  rw [stream_bumpBy_same, stream_bumpBy_same, stream_bumpBy_same, stream_modFrame_same, close_eq_withDamageFixed]

theorem counters_closeRecord (c : Counter) : ((s.closeRecord i n f).stream i).counters[c.ix] =
    (s.stream i).counters[c.ix] + BitVec.ofNat 32 (f.closeCount c) := by
  have hs : (f.close s.engine.closeOrdinal).stripes = f.stripes.map StripeRec.close := rfl
  simp only [closeRecord, stream_congr_modEngine, counter_bumpBy, hs, countCause_close]
  rw [stream_modFrame_same]
  cases c <;> simp [FrameRec.closeCount]

theorem frame_closeRecord_same (h : s.frame i n = some f) :
    (s.closeRecord i n f).frame i n = some (f.withDamageFixed s.engine.closeOrdinal) := by
  rw [frame, stream_closeRecord_same]
  exact find_map_same (g := fun _ => f.withDamageFixed s.engine.closeOrdinal) (fun _ _ => frame_number (f := f) h) h

theorem frame_closeRecord_other (h : s.frame i n = some f) {m : Word32} (hm : m ≠ n) :
    (s.closeRecord i n f).frame i m = s.frame i m := by
  rw [frame, stream_closeRecord_same]
  exact find_map_other (g := fun _ => f.withDamageFixed s.engine.closeOrdinal) (fun _ _ => frame_number (f := f) h) hm

theorem numbers_closeRecord (h : s.frame i n = some f) :
    ((s.closeRecord i n f).stream i).window.map (·.number) = (s.stream i).window.map (·.number) := by
  rw [stream_closeRecord_same, List.map_map]
  refine List.map_congr_left fun x _ => ?_
  simp only [Function.comp]
  split
  next e => exact (frame_number h).trans (beq_iff_eq.1 e).symm
  next => rfl

theorem closeDamage_state (d : Nat) (j : StreamIx) : ((s.closeDamage i n d).stream j).state = (s.stream j).state := by
  unfold closeDamage
  split
  · rfl
  · rw [state_occur, enqueueFrame_eq]
    rfl

/-- What the damage told makes of a state: the repair queue grows, and the rest are signals. -/
theorem closeDamage_rest (d : Nat) : s.closeDamage i n d = { s with
    streams := (s.closeDamage i n d).streams
    engine := { s.engine with queue := (s.closeDamage i n d).engine.queue }
    monitor := (s.closeDamage i n d).monitor
    ret := { s.ret with
      flowSet := (s.closeDamage i n d).ret.flowSet, outbox := (s.closeDamage i n d).ret.outbox } } := by
  unfold closeDamage
  split
  · rfl
  · have S := Signals.occur (s.enqueueFrame i n) .damageRate (streamId i) (BitVec.ofNat 32 d)
    have e := S.rest
    rw [enqueueFrame_eq] at e S ⊢
    rw [S.engine]
    exact e

theorem closeDamage_stream (d : Nat) (j : StreamIx) : (s.closeDamage i n d).stream j = { s.stream j with
    paused := ((s.closeDamage i n d).stream j).paused
    cadence := { (s.stream j).cadence with running := ((s.closeDamage i n d).stream j).cadence.running } } := by
  have hs := closeDamage_state s i n d j
  unfold closeDamage at hs ⊢
  split
  · rfl
  next h =>
    have e := (Signals.occur (s.enqueueFrame i n) .damageRate (streamId i) (BitVec.ofNat 32 d)).stream j
    rw [if_neg h] at hs
    rw [hs] at e
    rw [enqueueFrame_eq] at e ⊢
    exact e

theorem closeDamage_rises (d : Nat) : FlowRises s (s.closeDamage i n d) i := by
  unfold closeDamage
  split
  · exact FlowRises.refl s i
  · refine FlowRises.trans (t := s.enqueueFrame i n) ?_ (occur_rises _ _ _ _ i (.inr rfl))
    rw [enqueueFrame_eq]
    exact FlowRises.of_same i (fun _ => rfl) rfl rfl fun _ => rfl

theorem closeDamage_keeps (d : Nat) : ∀ q ∈ s.engine.queue, q ∈ (s.closeDamage i n d).engine.queue := by
  unfold closeDamage
  split
  · exact fun _ h => h
  · rw [(Signals.occur _ _ _ _).engine]
    exact enqueueFrame_keeps s i n

theorem closeDamage_queued {d : Nat} (hd : 0 < d) (h : s.frame i n = some f) :
    (s.closeDamage i n d).Queued f i := by
  rw [closeDamage, if_neg hd.ne']
  intro o ho
  rw [(Signals.occur _ _ _ _).engine]
  exact enqueueFrame_queued s i n f f h rfl (frame_number h) o ho

/-- The return of the stripes PARKED in the record before a frame (R11 step 5): nothing, when there is none. -/
theorem unparkBefore_unparked : (s.unparkBefore i n = s ∧ predecessorOf n (s.stream i).window = none) ∨
    ∃ p q, predecessorOf n (s.stream i).window = some p ∧ s.frame i p.number = some q ∧
      Unparked s (s.unparkBefore i n) i p.number q := by
  unfold unparkBefore
  split
  next p hp =>
    have hm := predecessorOf_mem hp
    cases hq : s.frame i p.number with
    | none => simpa using List.find?_eq_none.1 hq p hm
    | some q => exact .inr ⟨p, q, hp, hq, unparkFrame_unparked s i _ q hq⟩
  next hp => exact .inl ⟨rfl, hp⟩

end

/-- A change of one stream's frames and counters leaves the flow states and their reasons. -/
theorem FlowRises.of_frames {s t : State} {i : StreamIx} (k : StreamIx) (ho : ∀ j, j ≠ i → t.stream j = s.stream j)
    (hi : t.stream i = { s.stream i with window := (t.stream i).window, counters := (t.stream i).counters })
    (hn : (t.stream i).window.map (·.number) = (s.stream i).window.map (·.number)) (hr : t.ret = s.ret)
    (hm : t.monitor = s.monitor) : FlowRises s t k := by
  have hl : (t.stream i).window.length = (s.stream i).window.length := by simpa using congrArg List.length hn
  have hs (j : StreamIx) : (t.stream j).paused = (s.stream j).paused ∧
      (t.stream j).occupancyReason = (s.stream j).occupancyReason := by
    by_cases e : j = i
    · subst e
      exact ⟨by rw [hi], occupancyReason_of_length (by rw [hi]) (by rw [hi]) hl⟩
    · rw [ho j e]
      exact ⟨rfl, rfl⟩
  exact FlowRises.of_same k (fun j => (hs j).1) (by rw [hr]) (by rw [suspensions, hm, suspensions]) fun j => (hs j).2

/-- A return of PARKED stripes leaves the flow states and their reasons. -/
theorem Unparked.rises {s t : State} {i : StreamIx} {n : Word32} {f : FrameRec} (h : Unparked s t i n f)
    (k : StreamIx) : FlowRises s t k :=
  FlowRises.of_frames k h.streams (by rw [h.stream]) h.numbers (by rw [h.rest]) (by rw [h.rest])

/-- What the close of frame `f`, the first of number `n` in the window of stream `i`, makes of a state (R4, R11). -/
structure Closed (s t : State) (i : StreamIx) (n : Word32) (f : FrameRec) : Prop where
  rest : t = { s with
    streams := t.streams, engine := t.engine, monitor := t.monitor
    ret := { s.ret with flowSet := t.ret.flowSet, outbox := t.ret.outbox } }
  others : ∀ j, j ≠ i → t.stream j = { s.stream j with
    cadence := { (s.stream j).cadence with running := (t.stream j).cadence.running } }
  stream : t.stream i = { s.stream i with
    window := (t.stream i).window, counters := (t.stream i).counters, paused := (t.stream i).paused
    cadence := { (s.stream i).cadence with running := (t.stream i).cadence.running } }
  numbers : (t.stream i).window.map (·.number) = (s.stream i).window.map (·.number)
  frame : ∃ g, t.frame i n = some g ∧ (g = f.withDamageFixed s.engine.closeOrdinal ∨
    g = (f.withDamageFixed s.engine.closeOrdinal).unparked)
  frames : ∀ m g, m ≠ n → s.frame i m = some g → t.frame i m = some g ∨ t.frame i m = some g.unparked
  ordinal : t.engine.closeOrdinal = s.engine.closeOrdinal + 1
  contexts : t.engine.contexts = s.engine.contexts
  keeps : ∀ q ∈ s.engine.queue, q ∈ t.engine.queue
  queued : 0 < f.damageAtClose → ∃ r ∈ t.engine.queue, r.stream = i ∧ r.number = n
  counters : ∀ c : Counter, (t.stream i).counters[c.ix] =
    (s.stream i).counters[c.ix] + BitVec.ofNat 32 (f.closeCount c)
  silent : f.damageAtClose = 0 → s.Silent t
  occurred : 0 < f.damageAtClose → s.Occurred t .damageRate (streamId i) (BitVec.ofNat 32 f.damageAtClose)
  flow : FlowRises s t i

namespace Closed
variable {s t : State} {i : StreamIx} {n : Word32} {f : FrameRec} (h : Closed s t i n f)
include h

theorem store : t.store = s.store := by rw [h.rest]
theorem dir : t.dir = s.dir := by rw [h.rest]
theorem plans : t.plans = s.plans := by rw [h.rest]
theorem drives : t.drives = s.drives := by rw [h.rest]
theorem burn : t.burn = s.burn := by rw [h.rest]
theorem replies : t.ret.replies = s.ret.replies := by rw [h.rest]

theorem length (j : StreamIx) : (t.stream j).window.length = (s.stream j).window.length := by
  by_cases e : j = i
  · subst e
    simpa using congrArg List.length h.numbers
  · rw [h.others j e]

theorem state (j : StreamIx) : (t.stream j).state = (s.stream j).state := by
  by_cases e : j = i
  · subst e
    rw [h.stream]
  · rw [h.others j e]

end Closed

/-- The close of the record, and the damage told. -/
theorem closeDamage_closed {s : State} {i : StreamIx} {n : Word32} {f : FrameRec} (h : s.frame i n = some f) :
    Closed s ((s.closeRecord i n f).closeDamage i n f.damageAtClose) i n f := by
  have ho (j : StreamIx) (hj : j ≠ i) := stream_closeRecord_other s i n f hj
  have hw := stream_closeRecord_same s i n f
  have hn := numbers_closeRecord s i n f h
  have hc := counters_closeRecord s i n f
  have hf := frame_closeRecord_same s i n f h
  have hg (m : Word32) (hm : m ≠ n) := frame_closeRecord_other s i n f h hm
  have heng : (s.closeRecord i n f).engine = { s.engine with closeOrdinal := s.engine.closeOrdinal + 1 } := rfl
  have hret : (s.closeRecord i n f).ret = s.ret := rfl
  have hmon : (s.closeRecord i n f).monitor = s.monitor := rfl
  have hrest := closeDamage_rest (s.closeRecord i n f) i n f.damageAtClose
  have hst := closeDamage_stream (s.closeRecord i n f) i n f.damageAtClose
  have hflow := (FlowRises.of_frames i ho (by rw [hw]) hn hret hmon).trans
    (closeDamage_rises (s.closeRecord i n f) i n f.damageAtClose)
  have hframe (m : Word32) : ((s.closeRecord i n f).closeDamage i n f.damageAtClose).frame i m =
      (s.closeRecord i n f).frame i m := by rw [frame, hst i, frame]
  refine ⟨?_, fun j hj => ?_, ?_, ?_, ⟨_, (hframe n).trans hf, .inl rfl⟩,
    fun m g hm hx => .inl (by rw [hframe, hg m hm, hx]), by rw [hrest, heng], by rw [hrest, heng], fun q hq => ?_,
    fun hd => ?_, fun c => ?_, fun hd => ?_, fun hd => ?_, hflow⟩
  · have he := congrArg State.engine hrest
    rw [he]
    exact hrest
  · have e := hst j
    rw [hflow.judged.1 j hj, ho j hj] at e
    exact e
  · rw [hst i, hw]
  · rw [hst i]
    exact hn
  · exact closeDamage_keeps (s.closeRecord i n f) i n _ q hq
  · obtain ⟨q, hq, h1, h2⟩ := closeDamage_queued (s.closeRecord i n f) i n _ hd hf _ rfl
    exact ⟨q, hq, h1, h2.trans (frame_number (f := f) h)⟩
  · rw [hst i]
    exact hc c
  · rw [hd, closeDamage, if_pos rfl]
    exact ⟨hmon, by rw [hret]⟩
  · rw [closeDamage, if_neg hd.ne']
    exact ⟨(s.closeRecord i n f).enqueueFrame i n, by rw [enqueueFrame_eq, hmon], by rw [enqueueFrame_eq, hret],
      rfl, rfl⟩

/-- A return of PARKED stripes after a close. -/
theorem Closed.unparked {s t u : State} {i : StreamIx} {n m : Word32} {f g : FrameRec} (h : Closed s t i n f)
    (hg : t.frame i m = some g) (k : Unparked t u i m g) : Closed s u i n f := by
  have hm : u.monitor = t.monitor := by rw [k.rest]
  have ho : u.ret = t.ret := by rw [k.rest]
  have hframe (l : Word32) (x : FrameRec) (hx : t.frame i l = some x) :
      u.frame i l = some x ∨ u.frame i l = some x.unparked := by
    by_cases e : l = m
    · subst e
      cases hg.symm.trans hx
      exact .inr k.frame
    · exact .inl ((k.others l e).trans hx)
  refine ⟨?_, fun j hj => ?_, ?_, k.numbers.trans h.numbers, ?_, fun l x hl hx => ?_, k.ordinal.trans h.ordinal,
    k.contexts.trans h.contexts, fun q hq => k.keeps q (h.keeps q hq), fun hd => ?_, fun c => ?_, fun hd => ?_,
    fun hd => ?_, h.flow.trans (k.rises i)⟩
  · rw [k.rest, h.rest]
  · rw [k.streams j hj]
    exact h.others j hj
  · have e := k.stream
    rw [h.stream] at e
    rw [e]
  · obtain ⟨x, hx, hc⟩ := h.frame
    obtain hu | hu := hframe n x hx
    · exact ⟨x, hu, hc⟩
    · refine ⟨_, hu, .inr ?_⟩
      obtain rfl | rfl := hc
      · rfl
      · exact FrameRec.unparked_of_none _ (FrameRec.unparked_none _)
  · obtain hc | hc := h.frames l x hl hx
    · exact hframe l x hc
    · have := hframe l _ hc
      rw [FrameRec.unparked_of_none _ (FrameRec.unparked_none _)] at this
      exact .inr (this.elim id id)
  · obtain ⟨r, hr, he⟩ := h.queued hd
    exact ⟨r, k.keeps r hr, he⟩
  · rw [k.stream]
    exact h.counters c
  · exact ⟨hm.trans (h.silent hd).1, by rw [ho, (h.silent hd).2]⟩
  · obtain ⟨x, h1, h2, h3, h4⟩ := h.occurred hd
    exact ⟨x, h1, h2, hm.trans h3, by rw [ho, h4]⟩

/-- The close of a frame (R4, R11). -/
theorem closeFrame_closed {s : State} {i : StreamIx} {n : Word32} {f : FrameRec} (h : s.frame i n = some f) :
    Closed s (s.closeFrame i n) i n f := by
  rw [closeFrame_eq h]
  have hc := closeDamage_closed h
  obtain ⟨he, -⟩ | ⟨p, q, -, hq, hu⟩ :=
    unparkBefore_unparked ((s.closeRecord i n f).closeDamage i n f.damageAtClose) i n
  · rw [he]
    exact hc
  · exact hc.unparked hq hu

theorem frame_mem {s : State} {i : StreamIx} {n : Word32} {f : FrameRec} (h : s.frame i n = some f) :
    f ∈ (s.stream i).window :=
  List.mem_of_find?_eq_some h

/-- Where a frame stands in a window. -/
theorem window_split {s : State} {i : StreamIx} {n : Word32} {f : FrameRec} (h : s.frame i n = some f) :
    ∃ before after, (s.stream i).window = before ++ f :: after :=
  List.append_of_mem (frame_mem h)

section
variable {s : State} {i : StreamIx} {n : Word32} {f : FrameRec}
  (hp : ((s.stream i).window.map (·.number)).Pairwise (· < ·)) (h : s.frame i n = some f)
include hp h

/-- The window after the close of the record and before the return of PARKED stripes. -/
theorem window_closeDamage {before after : List FrameRec} (hw : (s.stream i).window = before ++ f :: after) :
    (((s.closeRecord i n f).closeDamage i n f.damageAtClose).stream i).window =
      before ++ f.withDamageFixed s.engine.closeOrdinal :: after := by
  have hn := frame_number h
  rw [hw] at hp
  obtain ⟨h1, h2⟩ := number_ne_of_append hp
  rw [hn] at h1 h2
  rw [closeDamage_stream, stream_closeRecord_same]
  dsimp only
  rw [hw, List.map_append, List.map_cons, if_pos (beq_iff_eq.2 hn),
    map_number_ne (fun _ => f.withDamageFixed s.engine.closeOrdinal) h1,
    map_number_ne (fun _ => f.withDamageFixed s.engine.closeOrdinal) h2]

/-- The head of the window closes: there is no record before it. -/
theorem closeFrame_head {rest : List FrameRec} (hw : (s.stream i).window = f :: rest) :
    s.closeFrame i n = (s.closeRecord i n f).closeDamage i n f.damageAtClose ∧
      ((s.closeFrame i n).stream i).window = f.withDamageFixed s.engine.closeOrdinal :: rest := by
  have hv := window_closeDamage hp h (before := []) hw
  have h2 := (number_ne_of_append (before := []) (hw ▸ hp)).2
  rw [frame_number h] at h2
  have he : s.closeFrame i n = (s.closeRecord i n f).closeDamage i n f.damageAtClose := by
    rw [closeFrame_eq h, unparkBefore, hv]
    simp only [List.nil_append]
    rw [predecessorOf_none h2]
  exact ⟨he, by rw [he, hv]; rfl⟩

/-- The record `p` before the frame that closes has its PARKED stripes back (R11 step 5). -/
theorem closeFrame_predecessor {before after : List FrameRec} {p : FrameRec}
    (hw : (s.stream i).window = before ++ p :: f :: after) :
    Unparked ((s.closeRecord i n f).closeDamage i n f.damageAtClose) (s.closeFrame i n) i p.number p := by
  have hw' : (s.stream i).window = (before ++ [p]) ++ f :: after := by rw [hw]; simp
  have hv := window_closeDamage hp h hw'
  have h1 := (number_ne_of_append (hw' ▸ hp)).1
  rw [frame_number h] at h1
  have hpn : p.number ≠ n := h1 p (by simp)
  have hpf : ((s.closeRecord i n f).closeDamage i n f.damageAtClose).frame i p.number = some p := by
    rw [frame, closeDamage_stream, ← frame, frame_closeRecord_other s i n f h hpn]
    exact frame_of_mem hp (by rw [hw]; simp)
  rw [closeFrame_eq h, unparkBefore, hv, List.append_assoc, List.cons_append, List.nil_append,
    predecessorOf_append (f := f.withDamageFixed s.engine.closeOrdinal) (frame_number (f := f) h) hpn before
      fun q hq => h1 q (by simp [hq])]
  exact unparkFrame_unparked _ _ _ _ hpf

/-- The frame that closes, in a window whose numbers rise strictly. -/
theorem frame_closeFrame : (s.closeFrame i n).frame i n = some (f.withDamageFixed s.engine.closeOrdinal) := by
  have hv : ((s.closeRecord i n f).closeDamage i n f.damageAtClose).frame i n =
      some (f.withDamageFixed s.engine.closeOrdinal) := by
    rw [frame, closeDamage_stream, ← frame]
    exact frame_closeRecord_same s i n f h
  obtain ⟨before, after, hw⟩ := window_split h
  rcases List.eq_nil_or_concat before with rfl | ⟨l, p, rfl⟩
  · rw [(closeFrame_head hp h hw).1, hv]
  · have hw' : (s.stream i).window = l ++ p :: f :: after := by rw [hw]; simp
    have hpn : p.number ≠ n := frame_number h ▸ (number_ne_of_append (hw ▸ hp)).1 p (by simp)
    rw [(closeFrame_predecessor hp h hw').others n hpn.symm, hv]

end

end State

end Sys2Proof.Machine

namespace Sys2Proof.Streams

open Machine Machine.State

/-- Settles O23: the frame unit brings the close, and the close is `State.Closed`. -/
theorem frameCloseFixesTheDamage : Obligations.FrameCloseFixesTheDamage := by
  rintro s i u n f d ht ha hi hb hs hp hf ho rfl
  have hc := closeFrame_closed hf
  refine ⟨s.closeFrame i n, ?_, frame_closeFrame hp hf, hc.ordinal, hc.queued, hc.counters .damagedFlagged,
    hc.counters .damagedCorrupt, hc.counters .damagedAbsent, fun c h1 h2 h3 => ?_, hc.silent, hc.occurred,
    fun before after p hw => ?_, fun hh => ?_, fun m g hm hg hn => ?_, hc.store, hc.dir, hc.drives, hc.contexts,
    fun j hj => ?_⟩
  · rw [exec_frameClose ht ha hi hb, takeFrameClose, hs, hf]
    simp [ho]
  · simp [hc.counters c, f.closeCount_other h1 h2 h3]
  · have hu := closeFrame_predecessor hp hf hw
    refine ⟨hu.frame, ?_, fun hx => hu.queued hx⟩
    rw [hu.parked, closeDamage_rest]
    rfl
  · obtain ⟨rest, hw⟩ := List.head?_eq_some_iff.1 hh
    rw [(closeFrame_head hp hf hw).1, closeDamage_rest]
    rfl
  · obtain h | h := hc.frames m g hm hg
    · exact h
    · rwa [FrameRec.unparked_of_none g hn] at h
  · rw [hc.others j hj]
    exact ⟨rfl, rfl⟩

end Sys2Proof.Streams

/-! PROOFS. FRAME_OPEN: refused, and accepted with the flow state judged (R7, R14, R19). -/

namespace Sys2Proof.Machine.State

/-! ### Records written as they were -/

theorem setStream_self (s : State) (i : StreamIx) : s.setStream i (s.stream i) = s := by
  simp [setStream, stream]

theorem setStream_setStream (s : State) (i : StreamIx) (r q : StreamRec) :
    (s.setStream i r).setStream i q = s.setStream i q := by
  simp [setStream]

theorem bumpBy_zero (s : State) (i : StreamIx) (c : Counter) : s.bumpBy i c 0 = s := by
  have h : { s.stream i with counters := (s.stream i).counters.set c.ix ((s.stream i).counters[c.ix] + 0) } =
      s.stream i := by simp
  rw [bumpBy, modStream, h, setStream_self]

/-! ### The flow state (R19) -/

/-- What judging a flow state makes of a state: the stream's flow state, and its FLOW unit at a change. -/
theorem judgeFlow_eq (s : State) (i : StreamIx) : s.judgeFlow i =
    { s.setStream i { s.stream i with paused := s.pauseReason i } with ret := { s.ret with
        flowSet := if s.pauseReason i = (s.stream i).paused then s.ret.flowSet
          else (s.ret.flowSet.filter fun f => f.stream != i) ++ [{ stream := i, pause := s.pauseReason i }] } } := by
  unfold judgeFlow
  split
  next h =>
    rw [h]
    exact (setStream_self s i).symm
  next => rfl

theorem stream_judgeFlow_same (s : State) (i : StreamIx) :
    (s.judgeFlow i).stream i = { s.stream i with paused := s.pauseReason i } := by
  rw [judgeFlow_eq]
  exact stream_setStream_same s i _

theorem stream_judgeFlow_other (s : State) {i j : StreamIx} (h : j ≠ i) : (s.judgeFlow i).stream j = s.stream j := by
  rw [judgeFlow_eq]
  exact stream_setStream_other s _ h.symm

/-- The flow state fits its reasons after it is judged. -/
theorem paused_judgeFlow (s : State) (i : StreamIx) :
    ((s.judgeFlow i).stream i).paused = (s.judgeFlow i).pauseReason i := by
  rw [stream_judgeFlow_same, pauseReason_judgeFlow]

/-- Two judgements in a row, of which one finds the reasons as they were. -/
theorem FlowJudged.trans {s t u : State} {i : StreamIx} (h : s.FlowJudged t i) (g : t.FlowJudged u i)
    (hx : t.pauseReason i = s.pauseReason i ∨ u.pauseReason i = t.pauseReason i) : s.FlowJudged u i := by
  refine ⟨fun j hj => (g.1 j hj).trans (h.1 j hj), fun hs => ?_⟩
  obtain ⟨a1, a2⟩ := h.2 hs
  obtain ⟨b1, b2⟩ := g.2 a1
  refine ⟨b1, ?_⟩
  rw [b2, a2]
  obtain hx | hx := hx
  · have e : (t.stream i).paused = (s.stream i).paused := by rw [a1, hs, hx]
    rw [if_pos e, e]
  · have e : (u.stream i).paused = (t.stream i).paused := by rw [a1, b1, hx]
    rw [if_pos e, e]

/-- Two judgements in a row, between which reasons are only added. -/
theorem FlowJudged.trans_rises {s t u : State} {i : StreamIx} (h : s.FlowJudged t i) (g : t.FlowJudged u i)
    (h1 : s.pauseReason i = true → t.pauseReason i = true) (h2 : t.pauseReason i = true → u.pauseReason i = true) :
    s.FlowJudged u i := by
  refine h.trans g ?_
  cases ht : t.pauseReason i with
  | true => exact .inr (h2 ht)
  | false => exact .inl (Bool.eq_false_iff.2 fun hs => by simp [h1 hs] at ht).symm

/-! ### The arbiter's pick leaves all but the return path -/

theorem kick_eq (s : State) : s.kick = { s with ret := s.kick.ret } := by
  unfold kick
  split <;> rfl

theorem stream_kick (s : State) (j : StreamIx) : s.kick.stream j = s.stream j := by rw [kick_eq]; rfl

theorem pauseReason_kick (s : State) (i : StreamIx) : s.kick.pauseReason i = s.pauseReason i := by
  rw [kick_eq]
  rfl

theorem kick_replies (s : State) : s.kick.ret.replies.length ≤ s.ret.replies.length := by
  unfold kick
  split
  next u r _ _ h =>
    unfold ReturnPath.next at h
    split at h <;> cases h <;> simp_all
  next => exact Nat.le_refl _

/-! ### Room for a frame (R3, R5) -/

theorem recordFree_congr {s t : State} (h : ∀ j, (t.stream j).window.length = (s.stream j).window.length)
    (hd : t.drives = s.drives) : t.recordFree = s.recordFree := by
  have hl : t.streams.toList.map (·.window.length) = s.streams.toList.map (·.window.length) := by
    refine List.ext_getElem (by simp) fun k hk _ => ?_
    have hk : k < 12 := by simpa using hk
    simpa [stream] using h ⟨k, hk⟩
  rw [recordFree, recordsInUse, hl, hd, recordFree, recordsInUse]

/-! ### FRAME_OPEN (R7) -/

/-- The frame numbers missing before a frame (R7 step 4). -/
def gapBefore (last : Option Word32) (n : Word32) : Word32 :=
  match last with
  | some last => n - last - 1
  | none => 0

theorem countGap_eq (s : State) (i : StreamIx) (n : Word32) :
    s.countGap i n = s.bumpBy i .gapFrames (gapBefore (s.stream i).lastNumber n) := by
  unfold countGap
  cases (s.stream i).lastNumber with
  | some last => rfl
  | none => exact (bumpBy_zero s i _).symm

section
variable {s : State} {i : StreamIx} {cfg : StreamConfig} {n : Word32}

theorem takeFrameOpen_sequence {last : Word32} (ht : (s.stream i).state.takesFrames = true)
    (hc : (s.stream i).config = some cfg) (hl : (s.stream i).lastNumber = some last) (hn : n ≤ last)
    (timecode : Word32) : s.takeFrameOpen i n timecode = s.refuseFrame i .sequence n := by
  simp only [takeFrameOpen, ht, hc, hl, if_pos hn]

theorem takeFrameOpen_inOrder (ht : (s.stream i).state.takesFrames = true) (hc : (s.stream i).config = some cfg)
    (hl : ∀ last, (s.stream i).lastNumber = some last → last < n) (timecode : Word32) :
    s.takeFrameOpen i n timecode = s.admitFrame i cfg n timecode := by
  unfold takeFrameOpen
  rw [ht, hc]
  dsimp only
  split
  next last h => rw [if_neg (BitVec.not_le.2 (hl last h))]
  next => rfl

/-- A FRAME_OPEN without room (R7 step 5), `s` being the state after the close of an OPEN frame. -/
theorem admitFrame_full {u : State} (hu : s.closeOpen i = u) (hl : (u.stream i).lastNumber = (s.stream i).lastNumber)
    (hw : (u.stream i).window.length = (s.stream i).window.length) (hr : u.recordFree = s.recordFree)
    (h : cfg.depth ≤ (s.stream i).window.length ∨ s.recordFree = false) (timecode : Word32) :
    s.admitFrame i cfg n timecode =
      (((u.bumpBy i .gapFrames (gapBefore (s.stream i).lastNumber n)).modStream i fun r =>
        { r with lastNumber := some n }).refuseFrame i .overrun n) := by
  unfold admitFrame
  dsimp only
  rw [hu, countGap_eq, hl]
  refine if_neg ?_
  rw [stream_modStream_same]
  dsimp only
  rw [window_bumpBy, hw]
  have hf : ((u.bumpBy i .gapFrames (gapBefore (s.stream i).lastNumber n)).modStream i fun r =>
      { r with lastNumber := some n }).recordFree = s.recordFree := by
    rw [← hr]
    refine recordFree_congr (fun j => ?_) rfl
    by_cases e : j = i
    · subst e
      rw [stream_modStream_same]
      dsimp only
      rw [window_bumpBy]
    · rw [stream_modStream_other _ _ (Ne.symm e), window_bumpBy]
  rw [hf]
  rintro ⟨h1, h2⟩
  obtain h | h := h
  · omega
  · simp [h] at h2

theorem closeOpen_none (h : s.openNumber i = none) : s.closeOpen i = s := by
  rw [closeOpen, h]

/-- The close of the OPEN frame of a window (R7, R11). -/
theorem closeOpen_closed {m : Word32} (h : s.openNumber i = some m) :
    s.closeOpen i = s.closeFrame i m ∧ ∃ f, s.frame i m = some f ∧ Closed s (s.closeFrame i m) i m f := by
  refine ⟨by rw [closeOpen, h], ?_⟩
  obtain ⟨g, hg, hm⟩ := Option.map_eq_some_iff.1 h
  cases hf : s.frame i m with
  | none => simpa [hm] using List.find?_eq_none.1 hf g (List.mem_of_find?_eq_some hg)
  | some f => exact ⟨f, rfl, closeFrame_closed hf⟩

end

end Sys2Proof.Machine.State

namespace Sys2Proof.Streams

open Machine Machine.State

/-- Settles O17: the order of R7's steps 2 to 5. -/
theorem frameOpenIsRefused : Obligations.FrameOpenIsRefused := by
  intro s i cfg n timecode ht hs hc
  have hraise (u : State) (k : FaultKind) (he : u.engine = s.engine) (hw : s.NoWork) :
      (u.refuseFrame i k n).takeWork = u.refuseFrame i k n :=
    takeWork_rests _ (.inr (hw.of_engine (by rw [refuseFrame, (Signals.raise _ _ _ _).engine, bump_engine, he])))
  simp only [exec_frameOpen_built ht]
  refine ⟨fun last hw hl hn => ?_, fun hw ho hl hfull => ?_, fun m ho hl hfull => ?_⟩
  · rw [takeFrameOpen_sequence hs hc hl hn, hraise s _ rfl hw, refuseFrame]
  · rw [takeFrameOpen_inOrder hs hc hl, admitFrame_full (closeOpen_none ho) rfl rfl rfl hfull, hraise _ _ ?_ hw] <;> rfl
  · obtain ⟨he, f, -, hcl⟩ := closeOpen_closed ho
    have hln : ((s.closeFrame i m).stream i).lastNumber = (s.stream i).lastNumber := by rw [hcl.stream]
    rw [takeFrameOpen_inOrder hs hc hl, admitFrame_full he hln (hcl.length i)
      (recordFree_congr hcl.length hcl.drives) hfull]
    rfl

end Sys2Proof.Streams

/-! PROOFS. A FRAME_OPEN that is accepted (R3, R7, R14, R19, R21). -/

namespace Sys2Proof.Machine

/-- The record of a stream before its flow state is judged, when a FRAME_OPEN is accepted (R7, R14). -/
def StreamRec.admitted (r : StreamRec) (cfg : StreamConfig) (i : StreamIx) (n timecode : Word32) (halted : Bool) :
    StreamRec :=
  let full := r.state = .priming ∧ r.window.length + 1 = cfg.depth
  { r with
    lastNumber := some n, window := r.window ++ [FrameRec.opened cfg i n timecode]
    counters := (r.counters.set Counter.gapFrames.ix
      (r.counters[Counter.gapFrames.ix] + State.gapBefore r.lastNumber n)).set Counter.framesAccepted.ix
      (r.counters[Counter.framesAccepted.ix] + 1)
    state := if full then .running else r.state
    cadence := if full then { r.cadence with position := 0, running := !halted } else r.cadence }

namespace State

section
variable {s u : State} {i : StreamIx} {cfg : StreamConfig} {n : Word32}

theorem modStream_modStream (s : State) (i : StreamIx) (f g : StreamRec → StreamRec) :
    (s.modStream i f).modStream i g = s.modStream i fun r => g (f r) := by
  rw [modStream, modStream, stream_setStream_same, setStream_setStream, modStream]

/-- A FRAME_OPEN with room (R7 step 6, R14), `u` being the state after the close of an OPEN frame. -/
theorem admitFrame_room (hu : s.closeOpen i = u) (hw : (u.stream i).window.length < cfg.depth)
    (hr : u.recordFree = true) (timecode : Word32) : s.admitFrame i cfg n timecode =
      (u.setStream i ((u.stream i).admitted cfg i n timecode u.monitor.halted)).judgeFlow i := by
  have hf : ((u.bumpBy i .gapFrames (gapBefore (u.stream i).lastNumber n)).modStream i fun r =>
      { r with lastNumber := some n }).recordFree = true := by
    rw [← hr]
    refine recordFree_congr (fun j => ?_) rfl
    by_cases e : j = i
    · subst e
      rw [stream_modStream_same]
      dsimp only
      rw [window_bumpBy]
    · rw [stream_modStream_other _ _ (Ne.symm e), window_bumpBy]
  unfold admitFrame
  dsimp only
  rw [hu, countGap_eq, if_pos ⟨by rw [stream_modStream_same]; simpa [window_bumpBy] using hw, hf⟩]
  congr 1
  simp only [bump, bumpBy, modStream_modStream, endPriming, stream_modStream_same, List.length_append,
    List.length_singleton]
  have hc : (Counter.gapFrames).ix.val ≠ (Counter.framesAccepted).ix.val := by decide
  by_cases h : (u.stream i).state = .priming ∧ (u.stream i).window.length + 1 = cfg.depth
  · rw [if_pos h, startCadence, modStream_modStream, modStream]
    simp only [StreamRec.admitted, if_pos h]
    congr 2
    simp [Counter.ix]
  · rw [if_neg h, modStream]
    simp only [StreamRec.admitted, if_neg h]
    congr 2
    simp [Counter.ix]

/-- The counters of a stream whose FRAME_OPEN is accepted (R21). -/
theorem counters_admitted (r : StreamRec) (cfg : StreamConfig) (i : StreamIx) (n timecode : Word32) (halted : Bool)
    (c : Counter) : (r.admitted cfg i n timecode halted).counters[c.ix] = r.counters[c.ix] +
      (if c = .framesAccepted then 1 else if c = .gapFrames then gapBefore r.lastNumber n else 0) := by
  simp only [StreamRec.admitted, counter_set]
  split
  next h => rw [h]
  next => split <;> simp_all

/-- A FRAME_OPEN can only add to the occupancy (R19). -/
theorem occupancyReason_admitted (r : StreamRec) (cfg : StreamConfig) (i : StreamIx) (n timecode : Word32)
    (halted : Bool) (h : r.occupancyReason = true) :
    (r.admitted cfg i n timecode halted).occupancyReason = true := by
  unfold StreamRec.occupancyReason StreamRec.admitted at *
  dsimp only at *
  split at h
  next => cases h
  next cfg' hc =>
    rw [Bool.and_eq_true, decide_eq_true_iff] at h
    have hn : ¬ (r.state = .priming ∧ r.window.length + 1 = cfg.depth) := by
      rintro ⟨hp, -⟩
      simp [hp, StreamState.paced] at h
    rw [hc, if_neg hn, h.1]
    simp only [List.length_append, List.length_singleton, Bool.true_and, decide_eq_true_iff]
    omega

end

end State

end Sys2Proof.Machine

namespace Sys2Proof.Streams

open Machine Machine.State

theorem occupancyReason_iff (s : State) (i : StreamIx) : (s.stream i).occupancyReason = true ↔
    ∃ cfg, (s.stream i).config = some cfg ∧
      ((s.stream i).state = .running ∨ (s.stream i).state = .stalled ∨ (s.stream i).state = .draining) ∧
      cfg.depth / 2 < (s.stream i).window.length := by
  unfold StreamRec.occupancyReason
  cases (s.stream i).config with
  | none => simp
  | some cfg => cases hs : (s.stream i).state <;> simp [StreamState.paced]

section
variable (u : State) (i : StreamIx) (cfg : StreamConfig) (n timecode : Word32)

/-- The state a FRAME_OPEN is accepted into, `u` being the state after the close of an OPEN frame. -/
def accepted : State :=
  (u.setStream i ((u.stream i).admitted cfg i n timecode u.monitor.halted)).judgeFlow i

theorem stream_accepted_same : (accepted u i cfg n timecode).stream i =
    { (u.stream i).admitted cfg i n timecode u.monitor.halted with
      paused := (accepted u i cfg n timecode).pauseReason i } := by
  rw [accepted, stream_judgeFlow_same, stream_setStream_same, pauseReason_judgeFlow]

theorem stream_accepted_other {j : StreamIx} (h : j ≠ i) :
    (accepted u i cfg n timecode).stream j = u.stream j := by
  rw [accepted, stream_judgeFlow_other _ h, stream_setStream_other _ _ h.symm]

theorem accepted_rest : accepted u i cfg n timecode = { u with
    streams := (accepted u i cfg n timecode).streams
    ret := { u.ret with flowSet :=
      if ((accepted u i cfg n timecode).stream i).paused = (u.stream i).paused then u.ret.flowSet
      else (u.ret.flowSet.filter fun f => f.stream != i) ++
        [{ stream := i, pause := ((accepted u i cfg n timecode).stream i).paused }] } } := by
  rw [stream_accepted_same, accepted, pauseReason_judgeFlow, judgeFlow_eq, stream_setStream_same]
  rfl

theorem counters_accepted (c : Counter) : ((accepted u i cfg n timecode).stream i).counters[c.ix] =
    (u.stream i).counters[c.ix] +
      (if c = .framesAccepted then 1 else if c = .gapFrames then gapBefore (u.stream i).lastNumber n else 0) := by
  rw [stream_accepted_same]
  exact counters_admitted (u.stream i) cfg i n timecode u.monitor.halted c

/-- The flow state is judged from before the close on: the close and the acceptance can only add to the reasons. -/
theorem accepted_judged : u.FlowJudged (accepted u i cfg n timecode) i :=
  judgeFlow_judged i (fun j => by
    by_cases e : j = i
    · subst e
      rw [stream_setStream_same]
      rfl
    · rw [stream_setStream_other _ _ (Ne.symm e)]) rfl

theorem accepted_reason (h : u.pauseReason i = true) : (accepted u i cfg n timecode).pauseReason i = true := by
  rw [accepted, pauseReason_judgeFlow]
  rw [pauseReason, Bool.or_eq_true] at h ⊢
  refine h.imp (fun h => ?_) id
  rw [stream_setStream_same]
  exact occupancyReason_admitted _ _ _ _ _ _ h

end

/-- Settles O16: the accepted record is `StreamRec.admitted`, and its flow state is judged. -/
theorem frameOpenInOrderIsAccepted : Obligations.FrameOpenInOrderIsAccepted := by
  refine ⟨fun s i => ⟨occupancyReason_iff s i, pauseReason_iff s i⟩, fun s i cfg n timecode ht hs hc ho hl hw hr hn => ?_,
    fun s i cfg n timecode m ht hs hc ho hl hw hr => ?_⟩
  · have he : s.takeFrameOpen i n timecode = accepted s i cfg n timecode :=
      (takeFrameOpen_inOrder hs hc hl timecode).trans (admitFrame_room (closeOpen_none ho) hw hr timecode)
    have hrest := accepted_rest s i cfg n timecode
    have hst := stream_accepted_same s i cfg n timecode
    have hcount := counters_accepted s i cfg n timecode
    have hoth (j : StreamIx) (hj : j ≠ i) := stream_accepted_other s i cfg n timecode hj
    rw [exec_frameOpen_built ht, he, takeWork_rests _ (.inr (hn.of_engine (by rw [hrest])))]
    refine ⟨_, rfl, ?_⟩
    simp only [stream_kick, pauseReason_kick]
    generalize accepted s i cfg n timecode = t at *
    have hk := kick_eq t
    refine ⟨by rw [hst]; rfl, by rw [hst]; rfl, hcount .framesAccepted, hcount .gapFrames, fun c h1 h2 => ?_, fun h => ?_,
      fun h => ?_, by rw [hst], by rw [hst]; rfl, by rw [hst]; rfl, by rw [hst]; rfl, by rw [hst]; rfl, hoth,
      by rw [hk, hrest], by rw [hk, hrest], by rw [hk, hrest], by rw [hk, hrest], by rw [hk, hrest], by rw [hk, hrest],
      by rw [hk, hrest], by rw [hk, hrest], ?_, t, rfl, congrArg State.ret hrest⟩
    · simp [hcount c, h1, h2]
    · rw [hst]
      simp [StreamRec.admitted, h, ht.2]
    · rw [hst]
      simp [StreamRec.admitted, h]
    · refine (kick_replies t).trans ?_
      rw [hrest]
  · obtain ⟨hopen, f, hf, hcl⟩ := closeOpen_closed ho
    have hroom : (s.closeFrame i m).recordFree = true := (recordFree_congr hcl.length hcl.drives).trans hr
    have he : s.takeFrameOpen i n timecode = accepted (s.closeFrame i m) i cfg n timecode :=
      (takeFrameOpen_inOrder hs hc hl timecode).trans
        (admitFrame_room hopen (by rw [hcl.length]; exact hw) hroom timecode)
    have hfc (hp : ((s.stream i).window.map (·.number)).Pairwise (· < ·)) := frame_closeFrame hp hf
    have hlast : ((s.closeFrame i m).stream i).lastNumber = (s.stream i).lastNumber := by rw [hcl.stream]
    rw [exec_frameOpen_built ht, he]
    generalize s.closeFrame i m = u at *
    have hrest := accepted_rest u i cfg n timecode
    have hst := stream_accepted_same u i cfg n timecode
    have hcount := counters_accepted u i cfg n timecode
    have hoth (j : StreamIx) (hj : j ≠ i) := stream_accepted_other u i cfg n timecode hj
    have hflow : s.FlowJudged (accepted u i cfg n timecode) i := by
      exact hcl.flow.judged.trans_rises (accepted_judged u i cfg n timecode) hcl.flow.reason
        (accepted_reason u i cfg n timecode)
    have hframe (x : FrameRec) (hx : u.frame i m = some x) : (accepted u i cfg n timecode).frame i m = some x := by
      rw [frame, hst]
      exact List.find?_append.trans (by rw [show List.find? _ _ = some x from hx]; rfl)
    generalize accepted u i cfg n timecode = t at *
    refine ⟨t, rfl, ?_, by rw [hst]; simp [StreamRec.admitted], ?_, fun g hp hg => ?_, by rw [hst]; rfl, ?_, ?_,
      fun c h1 h2 h3 h4 h5 => ?_, fun h => ?_, fun h => ?_, by rw [hst], hflow, by rw [hrest]; exact hcl.ordinal,
      fun j hj => ?_, by rw [hrest, hcl.store], by rw [hrest, hcl.dir], by rw [hrest, hcl.plans],
      by rw [hrest, hcl.drives], by rw [hrest, hcl.burn]⟩
    · rw [hst]
      simp [StreamRec.admitted, hcl.length]
    · obtain ⟨x, hx, hy⟩ := hcl.frame
      refine ⟨x, hframe x hx, ?_⟩
      obtain rfl | rfl := hy
      · refine ⟨?_, rfl⟩
        simp only [FrameRec.withDamageFixed]
        split <;> simp
      · refine ⟨?_, rfl⟩
        simp only [FrameRec.withDamageFixed, FrameRec.unparked]
        split <;> simp
    · rw [Option.some.inj (hf.symm.trans hg)] at hfc
      exact hframe _ (hfc hp)
    · rw [hcount, hcl.counters]
      simp [FrameRec.closeCount]
    · rw [hcount, hcl.counters, hlast]
      simp [FrameRec.closeCount]
      rfl
    · rw [hcount, hcl.counters, f.closeCount_other h3 h4 h5]
      simp [h1, h2]
    · rw [hst, hrest]
      simp [StreamRec.admitted, hcl.state, hcl.length, h]
    · rw [hst]
      simp only [StreamRec.admitted, hcl.state, hcl.length, if_neg h]
      rw [hcl.stream]
      exact ⟨trivial, rfl⟩
    · rw [hoth j hj, hcl.others j hj]
      exact ⟨rfl, rfl⟩

end Sys2Proof.Streams

/-! PROOFS. A STRIPE that is stored and judged (R8, R9). -/

namespace Sys2Proof.Machine.State

/-- The record of a stripe after its arrival, from the judgement of its payload (R8's table). -/
theorem arrived_judgePayload (st : StripeRec) (x : Slot) (b : StripeBody) : st.arrived x (judgePayload b) =
    if crc16 b.payload ≠ b.paycheck then
      { st with state := .damaged, cause := some .corrupt, slot := some x, generation := none }
    else if b.dropout = true then
      { st with state := .damaged, cause := some .flagged, slot := some x, generation := none }
    else { st with state := .sound, cause := none, slot := some x, generation := some 0 } := by
  unfold judgePayload
  split_ifs <;> rfl

theorem stripe_eq {s : State} {j : Job} {f : FrameRec} {st : StripeRec} (hf : s.frame j.stream j.number = some f)
    (hs : f.stripeAt j.stripe = some st) : s.stripe j = some st := by
  rw [stripe, hf]
  exact hs

/-- A stripe after a change of it. -/
theorem stripe_modStripe {s : State} {j : Job} {f : FrameRec} {st : StripeRec} (g : StripeRec → StripeRec)
    (hf : s.frame j.stream j.number = some f) (hs : f.stripeAt j.stripe = some st) :
    (s.modStripe j g).stripe j = some (g st) := by
  rw [stripe, frame_modStripe g hf hs]
  obtain ⟨hl, -⟩ := List.getElem?_eq_some_iff.1 hs
  simp [FrameRec.stripeAt, hl]

/-- What a write of one frame record leaves of a stream's record. -/
theorem stream_modStripe_same (s : State) (j : Job) (g : StripeRec → StripeRec) :
    (s.modStripe j g).stream j.stream = { s.stream j.stream with
      window := ((s.modStripe j g).stream j.stream).window } := by
  rw [modStripe, stream_modFrame_same]

theorem stream_modStripe_other (s : State) {j : Job} (g : StripeRec → StripeRec) {k : StreamIx} (h : k ≠ j.stream) :
    (s.modStripe j g).stream k = s.stream k :=
  stream_modFrame_other s _ _ h

/-- The store after a stripe gives up the slot it named before, if any (R9). -/
theorem releaseOld_eq {s : State} {j : Job} {st : StripeRec} (h : s.stripe j = some st) :
    s.releaseOld j = { s with store :=
      match st.slot with
      | some y => s.store.release y
      | none => s.store } := by
  rw [releaseOld, h, Option.bind_some]
  cases st.slot <;> rfl

/-- A STRIPE that passed the checks takes the head of the free list (R8, R9, R24). -/
theorem storeStripe_eq {s : State} {j : Job} {b : StripeBody} {f : FrameRec} {st : StripeRec} {x : Slot}
    {rest : List Slot} (hf : s.frame j.stream j.number = some f) (hs : f.stripeAt j.stripe = some st)
    (hx : s.store.freeList = x :: rest) : s.storeStripe j b = { s with store :=
      match st.slot with
      | some y => (({ s.store with freeList := rest, holders := Table.set 0 x.val 1 s.store.holders } : Store).write x
          b.payload).release y
      | none => ({ s.store with freeList := rest, holders := Table.set 0 x.val 1 s.store.holders } : Store).write x
          b.payload }.modStripe j (·.arrived x (judgePayload b)) := by
  unfold storeStripe
  rw [askSlot_some hx]
  dsimp only
  exact congrArg (modStripe · j fun q => q.arrived x (judgePayload b)) (releaseOld_eq (st := st) (stripe_eq (f := f) hf hs))

end Sys2Proof.Machine.State

namespace Sys2Proof.Streams

open Machine Machine.State

/-- Settles O19. -/
theorem stripeArrivalIsStoredAndJudged : Obligations.StripeArrivalIsStoredAndJudged := by
  intro s i u b f st x rest ht ha hi hb hr hs hf ho hst hl hns hx
  have he : s.takeStripeUnit i b = s.storeStripe { stream := i, number := b.number, stripe := b.index } b := by
    rw [takeStripeUnit_opened hs hf ho, hst]
    exact if_neg (not_or.2 ⟨not_not.2 hl, hns⟩)
  rw [exec_stripe ht ha hi hb hr, he,
    storeStripe_eq (j := { stream := i, number := b.number, stripe := b.index }) hf hst hx, kick_eq]
  refine ⟨_, rfl, ?_, rfl, fun j hj => ?_, ?_, ?_, rfl, rfl, rfl, rfl, rfl⟩
  · rw [← arrived_judgePayload]
    exact stripe_modStripe (j := { stream := i, number := b.number, stripe := b.index }) _ hf hst
  · exact stream_modStripe_other (j := { stream := i, number := b.number, stripe := b.index }) _ _ hj
  all_goals
    refine (congrArg _ (stream_modStripe_same _ { stream := i, number := b.number, stripe := b.index } _)).trans ?_
    rfl

end Sys2Proof.Streams

/-! PROOFS. Invalidation of directory entries (R47 to R49) with the holds they give up (R25), and CONFIGURE_STREAM (R2). -/

namespace Sys2Proof.Machine

/-! ### Holder counts (R23, R25) -/

namespace Store

theorem release_eq (st : Store) (x : Slot) : st.release x =
    { st with freeList := (st.release x).freeList, holders := (st.release x).holders } := by
  unfold release
  split <;> rfl

theorem count_release_same (st : Store) (x : Slot) (h : st.Canonical) : (st.release x).count x = st.count x - 1 := by
  unfold release
  split
  next h0 => omega
  next => exact Table.get_set_same 0 x.val _ _ h.2.1

theorem count_release_other (st : Store) {x y : Slot} (h : y ≠ x) : (st.release x).count y = st.count y := by
  unfold release
  split
  · rfl
  · exact Table.get_set_other 0 _ (fun e => h (Fin.ext e)) _

/-- A release takes one hold from its slot and none from the others. -/
theorem count_release (st : Store) (x y : Slot) (h : st.Canonical) :
    (st.release x).count y = st.count y - if x = y then 1 else 0 := by
  split
  next e => rw [← e, count_release_same st x h]
  next e => rw [count_release_other st (Ne.symm e), Nat.sub_zero]

end Store

/-! ### Sets of the directory -/

namespace Directory

theorem row_put_same (d : Directory) (k : Fin 256) (x : DirSet) : (d.put k x).row k = x := by simp [row, put]

theorem row_put_other (d : Directory) {k l : Fin 256} (x : DirSet) (h : l ≠ k) : (d.put k x).row l = d.row l := by
  have : k.val ≠ l.val := fun e => h (Fin.ext e).symm
  simp [row, put, this]

theorem put_row_self (d : Directory) (k : Fin 256) : d.put k (d.row k) = d := by simp [row, put]

end Directory

/-- A set without the entries that meet a test. -/
def DirSet.without (test : DirEntry → Bool) (y : DirSet) : DirSet :=
  { way0 := y.way0.filter fun e => !test e, way1 := y.way1.filter fun e => !test e }

theorem DirSet.drop_way0 (test : DirEntry → Bool) (y : DirSet) :
    (if y.way0.any test = true then { y with way0 := none } else y) =
      { y with way0 := y.way0.filter fun e => !test e } := by
  obtain ⟨_ | e, w⟩ := y
  · rfl
  · cases ht : test e <;> simp [ht, Option.filter]

theorem DirSet.drop_way1 (test : DirEntry → Bool) (y : DirSet) :
    (if y.way1.any test = true then { y with way1 := none } else y) =
      { y with way1 := y.way1.filter fun e => !test e } := by
  obtain ⟨w, _ | e⟩ := y
  · rfl
  · cases ht : test e <;> simp [ht, Option.filter]

namespace State

/-- The entries of a way that meet a test are dropped, and their holds are given up: what becomes of the directory, and of the
holder counts. `row` gives the sets afterwards, `gone` the holds lost by each slot. -/
structure Dropped (s t : State) (row : Fin 256 → DirSet) (gone : Slot → Nat) : Prop where
  rest : t = { s with
    dir := { s.dir with sets := t.dir.sets }
    store := { s.store with freeList := t.store.freeList, holders := t.store.holders } }
  row : ∀ k, t.dir.row k = row k
  canonical : s.store.Canonical → t.store.Canonical
  count : s.store.Canonical → ∀ x, t.store.count x = s.store.count x - gone x

theorem Dropped.stream {s t : State} {r : Fin 256 → DirSet} {g : Slot → Nat} (h : Dropped s t r g) (j : StreamIx) :
    t.stream j = s.stream j := by
  rw [h.rest]
  rfl

/-- Apart from the sets and the holder counts the state keeps what it had. -/
theorem Dropped.keeps {s t : State} {r : Fin 256 → DirSet} {g : Slot → Nat} (h : Dropped s t r g) :
    t.store.dram = s.store.dram ∧ t.store.flips = s.store.flips ∧ t.dir.nextOrdinal = s.dir.nextOrdinal ∧
      t.dir.evictions = s.dir.evictions ∧ t.dir.flaws = s.dir.flaws ∧ t.plans = s.plans ∧ t.engine = s.engine ∧
      t.drives = s.drives ∧ t.burn = s.burn ∧ t.ret = s.ret ∧ t.monitor = s.monitor := by
  rw [h.rest]
  exact ⟨rfl, rfl, rfl, rfl, rfl, rfl, rfl, rfl, rfl, rfl, rfl⟩

theorem Dropped.refl (s : State) : Dropped s s s.dir.row fun _ => 0 := ⟨rfl, fun _ => rfl, id, fun _ _ => rfl⟩

theorem Dropped.trans {s t u : State} {r q : Fin 256 → DirSet} {g h : Slot → Nat} (a : Dropped s t r g)
    (b : Dropped t u q h) : Dropped s u q fun x => g x + h x := by
  refine ⟨?_, b.row, fun c => b.canonical (a.canonical c), fun c x => ?_⟩
  · rw [b.rest, a.rest]
  · rw [b.count (a.canonical c), a.count c, Nat.sub_sub]

/-- One way of a set; `y` is the set with the way invalid. -/
theorem dropWay_dropped (test : DirEntry → Bool) (s : State) (k : Fin 256) (w : Option DirEntry) (y : DirSet) :
    Dropped s (dropWay test s k w y)
      (fun l => if l = k ∧ w.any test = true then y else s.dir.row l)
      (fun x => w.toList.countP fun e => test e && e.slot == x) := by
  unfold dropWay
  cases w with
  | none => simpa using Dropped.refl s
  | some e =>
    by_cases ht : test e = true
    · simp only [Option.any_some, ht, and_true, if_true, Option.toList_some, List.countP_singleton, Bool.true_and,
        beq_iff_eq]
      refine ⟨?_, fun l => ?_, s.store.canonical_release e.slot, fun c x => s.store.count_release e.slot x c⟩
      · exact congrArg (fun w => ({ s.putSet k y with store := w } : State)) (s.store.release_eq e.slot)
      · by_cases hl : l = k
        · subst hl
          rw [if_pos rfl]
          exact Directory.row_put_same _ _ _
        · rw [if_neg hl]
          exact Directory.row_put_other _ _ hl
    · simpa [ht] using Dropped.refl s

/-- One set. -/
theorem invalidateSet_dropped (test : DirEntry → Bool) (s : State) (k : Fin 256) :
    Dropped s (invalidateSet test s k) (fun l => if l = k then (s.dir.row l).without test else s.dir.row l)
      (fun x => (s.dir.row k).matching fun e => test e && e.slot == x) := by
  have h0 := dropWay_dropped test s k (s.dir.row k).way0 { s.dir.row k with way0 := none }
  have h1 := dropWay_dropped test (dropWay test s k (s.dir.row k).way0 { s.dir.row k with way0 := none }) k
    ((dropWay test s k (s.dir.row k).way0 { s.dir.row k with way0 := none }).dir.row k).way1
    { (dropWay test s k (s.dir.row k).way0 { s.dir.row k with way0 := none }).dir.row k with way1 := none }
  have hk : (dropWay test s k (s.dir.row k).way0 { s.dir.row k with way0 := none }).dir.row k =
      { s.dir.row k with way0 := (s.dir.row k).way0.filter fun e => !test e } := by
    rw [h0.row k, ← DirSet.drop_way0]
    simp
  have h := h0.trans h1
  refine ⟨h.rest, fun l => (h.row l).trans ?_, h.canonical, fun c x => (h.count c x).trans ?_⟩
  · by_cases hl : l = k
    · subst hl
      simp only [true_and, if_true]
      rw [DirSet.drop_way1, hk]
      rfl
    · rw [if_neg (fun e => hl e.1), if_neg hl, h0.row l, if_neg (fun e => hl e.1)]
  · rw [hk, DirSet.matching, List.countP_append]

/-- Every set of a list without repetitions. -/
theorem invalidateSets_dropped (test : DirEntry → Bool) : ∀ (l : List (Fin 256)) (s : State), l.Nodup →
    Dropped s (l.foldl (invalidateSet test) s) (fun k => if k ∈ l then (s.dir.row k).without test else s.dir.row k)
      (fun x => (l.map fun k => (s.dir.row k).matching fun e => test e && e.slot == x).sum)
  | [], s, _ => by simpa using Dropped.refl s
  | k :: l, s, hn => by
    obtain ⟨hk, hl⟩ := List.nodup_cons.1 hn
    have h0 := invalidateSet_dropped test s k
    have h := h0.trans (invalidateSets_dropped test l (invalidateSet test s k) hl)
    have hrow (m : Fin 256) (hm : m ∈ l) : (invalidateSet test s k).dir.row m = s.dir.row m := by
      rw [h0.row m, if_neg fun e : m = k => hk (e ▸ hm)]
    refine ⟨h.rest, fun m => (h.row m).trans ?_, h.canonical, fun c x => (h.count c x).trans ?_⟩
    · by_cases hm : m ∈ l
      · rw [if_pos hm, if_pos (List.mem_cons_of_mem _ hm), hrow m hm]
      · rw [if_neg hm, h0.row m]
        exact if_congr (by simp [hm]) rfl rfl
    · rw [List.map_cons, List.sum_cons, List.map_congr_left fun m hm => by rw [hrow m hm]]

/-- Invalidation of every entry that meets a test, with the holds given up (R25, R47 to R49). -/
theorem invalidate_dropped (s : State) (test : DirEntry → Bool) :
    Dropped s (s.invalidate test) (fun k => (s.dir.row k).without test)
      (fun x => s.dir.matching fun e => test e && e.slot == x) := by
  have h := invalidateSets_dropped test (List.finRange 256) s (List.nodup_finRange 256)
  rw [invalidate]
  refine ⟨h.rest, fun k => (h.row k).trans (if_pos (List.mem_finRange k)), h.canonical, fun c x => ?_⟩
  rw [Directory.matching]
  exact h.count c x

end State

/-- The record of a stream whose configuration is replaced (R2, R93). -/
def StreamRec.configured (r : StreamRec) (cfg : StreamConfig) : StreamRec :=
  { r with
    state := .configured, config := some cfg
    cadence := { r.cadence with period := some cfg.period, pattern := some cfg.pattern, pendingPattern := none } }

/-- CONFIGURE_STREAM writes the record and drops the stream's entries (R47). -/
theorem State.configure_dropped (s : State) (i : StreamIx) (cfg : StreamConfig) :
    Dropped (s.setStream i ((s.stream i).configured cfg)) (s.configure i cfg)
      (fun k => (s.dir.row k).without fun e => e.stream == i)
      (fun x => s.dir.matching fun e => e.stream == i && e.slot == x) :=
  invalidate_dropped _ _

end Sys2Proof.Machine

namespace Sys2Proof.Streams

open Machine Machine.State

/-- Settles O34: the checks of R2, the record, and `invalidate_dropped` for the stream's entries. -/
theorem configureStreamReplacesTheConfiguration : Obligations.ConfigureStreamReplacesTheConfiguration := by
  intro tag id f s ht
  have hrow : exec (.configureStream tag id f) s = .next (ownConfigureStream tag id f s).kick :=
    exec_commandRow tag (.configureStream id f) ht rfl
  rw [hrow, ownConfigureStream]
  refine ⟨fun hi => by rw [hi], fun i hi => ?_⟩
  rw [hi]
  dsimp only
  refine ⟨fun h1 h2 => by rw [if_pos ⟨h1, h2⟩], fun h => ?_⟩
  rw [if_neg fun hn => h.elim hn.1 hn.2]
  refine ⟨fun hc => by rw [hc], fun cfg hc => ?_⟩
  have hd := configure_dropped s i cfg
  simp only [hc]
  refine ⟨s.configure i cfg, rfl, ?_, fun j hj => ?_, fun k e he => ?_, hd.row, fun hs x => hd.count hs x, hd.keeps⟩
  · rw [hd.stream, stream_setStream_same]
    rfl
  · rw [hd.stream, stream_setStream_other _ _ hj.symm]
  · rw [hd.row] at he
    simpa using he.elim (fun h => (Option.filter_eq_some_iff.1 h).2) fun h => (Option.filter_eq_some_iff.1 h).2

end Sys2Proof.Streams

/-! PROOFS. Fault kinds and actions: their codes (12 "Codes"), CLEAR_FAULTS and SET_FAULT_ACTIONS (R175, R176), notices offered
to the outbox (R177), and raises with each action (R171 to R174). -/

namespace Sys2Proof.Machine

/-! ### Codes -/

theorem readKind_eq_some {b : Byte} {k : FaultKind} : readKind b = some k ↔ b.toNat = k.ix.val + 1 := by
  cases k <;> (unfold readKind; split <;> simp_all [FaultKind.ix])

theorem readAction_eq_some {b : Byte} {a : FaultAction} : readAction b = some a ↔ b.toNat = a.code.toNat := by
  cases a <;> (unfold readAction; split <;> simp_all [FaultAction.code])

theorem readKinds_cons {b : Byte} {bs : List Byte} {k : FaultKind} {ks : List FaultKind} :
    readKinds (b :: bs) = some (k :: ks) ↔ readKind b = some k ∧ readKinds bs = some ks := by
  rw [readKinds]
  split
  next hk hr => rw [hk, hr, Option.some.injEq, List.cons.injEq, Option.some.injEq, Option.some.injEq]
  next hn => exact ⟨fun h => (nomatch h), fun ⟨hk, hr⟩ => absurd hr (hn _ _ hk)⟩

theorem readKinds_eq_some : ∀ {bs : List Byte} {ks : List FaultKind},
    readKinds bs = some ks ↔ bs.map (·.toNat) = ks.map fun k => k.ix.val + 1
  | [], [] => by simp [readKinds]
  | [], _ :: _ => by simp [readKinds]
  | b :: bs, [] => by
    rw [readKinds]
    split <;> simp
  | b :: bs, k :: ks => by
    rw [readKinds_cons, readKind_eq_some, readKinds_eq_some, List.map_cons, List.map_cons, List.cons.injEq]

theorem readActions_cons {p : Byte × Byte} {ps : List (Byte × Byte)} {q : FaultKind × FaultAction}
    {qs : List (FaultKind × FaultAction)} : readActions (p :: ps) = some (q :: qs) ↔
      readKind p.1 = some q.1 ∧ readAction p.2 = some q.2 ∧ readActions ps = some qs ∧
        (q.2 = .stop → q.1.allowsStop = true) ∧ q.1 ∉ qs.map (·.1) := by
  obtain ⟨k, a⟩ := q
  rw [readActions]
  split
  next k' a' rest hk ha hr =>
    rw [hk, ha, hr]
    simp only [Option.some.injEq, Option.ite_none_left_eq_some, not_or, not_and, Bool.not_eq_false, List.any_eq_true,
      beq_iff_eq, List.cons.injEq, Prod.mk.injEq, List.mem_map, not_exists]
    constructor
    · rintro ⟨⟨h1, h2⟩, ⟨rfl, rfl⟩, rfl⟩
      exact ⟨rfl, rfl, rfl, h1, h2⟩
    · rintro ⟨rfl, rfl, rfl, h1, h2⟩
      exact ⟨⟨h1, h2⟩, ⟨rfl, rfl⟩, rfl⟩
  next hn =>
    simp only [reduceCtorEq, false_iff, not_and]
    intro hk ha hr
    exact absurd hr (hn _ _ _ hk ha)

theorem readActions_eq_some : ∀ {ps : List (Byte × Byte)} {qs : List (FaultKind × FaultAction)},
    readActions ps = some qs ↔
      (ps.map fun p => (p.1.toNat, p.2.toNat)) = (qs.map fun q => (q.1.ix.val + 1, q.2.code.toNat)) ∧
        (qs.map (·.1)).Nodup ∧ ∀ q ∈ qs, q.2 = .stop → q.1.allowsStop = true
  | [], qs => by
    cases qs <;> simp [readActions]
  | p :: ps, [] => by
    rw [readActions]
    split
    · split <;> simp
    · simp
  | p :: ps, q :: qs => by
    rw [readActions_cons, readKind_eq_some, readAction_eq_some, readActions_eq_some]
    simp only [List.map_cons, List.cons.injEq, Prod.mk.injEq, List.nodup_cons, List.forall_mem_cons]
    tauto

/-- The record of a stream that enters STOPPED (R18, R95). -/
def StreamRec.halted (r : StreamRec) : StreamRec :=
  { r with state := .stopped, cadence := { r.cadence with running := false } }

namespace State

/-! ### The commands on the fault summary -/

theorem fault_clearFault (s : State) (k l : FaultKind) : (s.clearFault k).fault l =
    if l = k then { s.fault l with pending := false, count := 0, firstScope := none } else s.fault l := by
  have hf : (s.clearFault k).fault l =
      (s.setFault k { s.fault k with pending := false, count := 0, firstScope := none }).fault l := by
    unfold clearFault
    split <;> rfl
  rw [hf]
  split
  next h => rw [h, fault_setFault_same]
  next h => exact fault_setFault_other s _ (Ne.symm h)

/-- What clearing one kind changes: its entry, and the store log's count tied to it (R32, R176). -/
theorem clearFault_eq (s : State) (k : FaultKind) : s.clearFault k = { s with
    monitor := { s.monitor with faults := (s.clearFault k).monitor.faults }
    store := { s.store with
      corrected := if .storeCorrected = k then 0 else s.store.corrected
      flawed := if .storeUncorrectable = k then 0 else s.store.flawed } } := by
  unfold clearFault
  split <;> simp_all [setFault, modStore]

theorem fault_clearFaults (ks : List FaultKind) (s : State) (l : FaultKind) : (ks.foldl clearFault s).fault l =
    if l ∈ ks then { s.fault l with pending := false, count := 0, firstScope := none } else s.fault l := by
  induction ks generalizing s with
  | nil => rfl
  | cons k ks ih =>
    rw [List.foldl_cons, ih, fault_clearFault]
    by_cases h : l = k <;> simp [h]

theorem clearFaults_eq (ks : List FaultKind) (s : State) : ks.foldl clearFault s = { s with
    monitor := { s.monitor with faults := (ks.foldl clearFault s).monitor.faults }
    store := { s.store with
      corrected := if .storeCorrected ∈ ks then 0 else s.store.corrected
      flawed := if .storeUncorrectable ∈ ks then 0 else s.store.flawed } } := by
  induction ks generalizing s with
  | nil => rfl
  | cons k ks ih =>
    rw [List.foldl_cons, ih]
    generalize (ks.foldl clearFault (s.clearFault k)).monitor.faults = faults
    rw [clearFault_eq]
    have two (p q : Prop) [Decidable p] [Decidable q] (n : Word16) :
        (if p then 0 else if q then 0 else n) = if q ∨ p then 0 else n := by split_ifs <;> simp_all
    simp only [two, List.mem_cons]

/-- What an action set changes: its kind's entry. -/
theorem setActions_eq (ps : List (FaultKind × FaultAction)) (s : State) :
    ps.foldl setAction s = { s with monitor := { s.monitor with faults := (ps.foldl setAction s).monitor.faults } } := by
  induction ps generalizing s with
  | nil => rfl
  | cons p ps ih =>
    rw [List.foldl_cons, ih]
    rfl

theorem fault_setActions_other (ps : List (FaultKind × FaultAction)) (s : State) {k : FaultKind}
    (h : k ∉ ps.map (·.1)) : (ps.foldl setAction s).fault k = s.fault k := by
  induction ps generalizing s with
  | nil => rfl
  | cons p ps ih =>
    obtain ⟨hp, hps⟩ : k ≠ p.1 ∧ k ∉ ps.map (·.1) := by simpa using h
    rw [List.foldl_cons, ih _ hps, setAction, fault_setFault_other s _ hp.symm]

theorem fault_setActions_same (ps : List (FaultKind × FaultAction)) (s : State) (hn : (ps.map (·.1)).Nodup)
    {p : FaultKind × FaultAction} (h : p ∈ ps) :
    (ps.foldl setAction s).fault p.1 = { s.fault p.1 with action := p.2 } := by
  induction ps generalizing s with
  | nil => cases h
  | cons q ps ih =>
    obtain ⟨hq, hps⟩ := List.nodup_cons.1 hn
    rw [List.foldl_cons]
    obtain rfl | h := List.mem_cons.1 h
    · rw [fault_setActions_other _ _ hq, setAction, fault_setFault_same]
    · rw [ih _ hps h, setAction, fault_setFault_other s _ fun e => hq (List.mem_map.2 ⟨p, h, e.symm⟩)]

/-! ### Notices offered (R177) -/

theorem offerNotice_room (s : State) (n : Notice) (h : s.ret.outbox.length < 32) :
    s.offerNotice n = { s with ret := { s.ret with outbox := s.ret.outbox ++ [n] } } := by
  rw [offerNotice, if_pos h, pushNotice, if_pos h]

theorem pushNotice_full (s : State) (n : Notice) (h : 32 ≤ s.ret.outbox.length) : s.pushNotice n = s :=
  if_neg (Nat.not_lt.2 h)

theorem offerNotice_full (s : State) (n : Notice) (h : 32 ≤ s.ret.outbox.length) : s.offerNotice n =
    if (s.fault .noticeOverflow).action = .halt then (s.noteFault .noticeOverflow 0).enterHalted
    else s.noteFault .noticeOverflow 0 := by
  have push (q : Notice) : (s.noteFault .noticeOverflow 0).pushNotice q = s.noteFault .noticeOverflow 0 :=
    pushNotice_full (s.noteFault .noticeOverflow 0) q h
  rw [offerNotice, if_neg (Nat.not_lt.2 h), raiseOverflow]
  cases (s.fault .noticeOverflow).action <;> simp [push]

theorem fault_noteFault_same (s : State) (k : FaultKind) (scope : Nat) : (s.noteFault k scope).fault k =
    { pending := true, count := if (s.fault k).count = 65535#16 then 65535#16 else (s.fault k).count + 1,
      firstScope := if (s.fault k).pending = true then (s.fault k).firstScope else some scope,
      action := (s.fault k).action } := by
  rw [noteFault, fault_setFault_same, bumpCount_eq]

theorem noteFault_eq (s : State) (k : FaultKind) (scope : Nat) : s.noteFault k scope = s.setFault k
    { pending := true, count := if (s.fault k).count = 65535#16 then 65535#16 else (s.fault k).count + 1,
      firstScope := if (s.fault k).pending = true then (s.fault k).firstScope else some scope,
      action := (s.fault k).action } := by
  rw [noteFault, bumpCount_eq]

theorem stream_enterHalted (s : State) (i : StreamIx) : s.enterHalted.stream i =
    { s.stream i with cadence := { (s.stream i).cadence with running := false } } := by
  simp [enterHalted, stream]

/-- A notice offered can stop the cadence timers of the streams, and leaves their records otherwise. -/
theorem stream_offerNotice_stopped (s : State) (n : Notice) (i : StreamIx) :
    { (s.offerNotice n).stream i with cadence := { ((s.offerNotice n).stream i).cadence with running := false } } =
      { s.stream i with cadence := { (s.stream i).cadence with running := false } } := by
  obtain h | h := Nat.lt_or_ge s.ret.outbox.length 32
  · rw [offerNotice_room s n h]
    rfl
  · rw [offerNotice_full s n h]
    split
    · rw [stream_enterHalted]
      rfl
    · rfl

/-! ### The entry into STOPPED (R18) and the streams concerned (R171) -/

theorem stopStream_started (s : State) (i : StreamIx) (h : (s.stream i).state.started = true)
    (hs : (s.stream i).state ≠ .stopped) : s.stopStream i = (s.setStream i (s.stream i).halted).judgeFlow i := by
  rw [stopStream, if_pos (by simp [h, hs])]
  rfl

theorem stopStream_idle (s : State) (i : StreamIx) (h : (s.stream i).state.started = false ∨ (s.stream i).state = .stopped) :
    s.stopStream i = s := by
  rw [stopStream, if_neg (by obtain h | h := h <;> simp [h])]

theorem stopTarget_congr {s t : State} (h : t.drives = s.drives) (k : FaultKind) (scope : Nat) :
    t.stopTarget k scope = s.stopTarget k scope := by
  unfold stopTarget drive
  rw [h]

theorem stopTarget_stream (s : State) {k : FaultKind} (hk : k = .sequence ∨ k = .stray ∨ k = .overrun) (i : StreamIx) :
    s.stopTarget k (streamId i) = some i := by
  have hi : 1 ≤ streamId i ∧ streamId i ≤ 12 := ⟨Nat.succ_pos _, i.isLt⟩
  obtain rfl | rfl | rfl := hk <;> exact dif_pos hi

theorem stopTarget_part (s : State) {k : FaultKind} (hk : k = .sequence ∨ k = .stray ∨ k = .overrun) :
    s.stopTarget k 0 = none := by
  obtain rfl | rfl | rfl := hk <;> rfl

theorem stopTarget_drive (s : State) {k : FaultKind} (hk : k = .driveSilent ∨ k = .driveWriteFail) (a : DriveIx) :
    s.stopTarget k (driveAddress a) = (s.drive a).binding.stream := by
  have ha : 1 ≤ driveAddress a ∧ driveAddress a ≤ 8 := ⟨Nat.succ_pos _, a.isLt⟩
  obtain rfl | rfl := hk <;> exact dif_pos ha

/-! ### Raises by action (R173) -/

theorem raise_record (s : State) (k : FaultKind) (scope : Nat) (d : Word32) (h : (s.fault k).action = .record) :
    s.raise k scope d = s.noteFault k scope := by
  simp [raise, h]

theorem raise_notify (s : State) (k : FaultKind) (scope : Nat) (d : Word32) (h : (s.fault k).action = .notify) :
    s.raise k scope d = (s.noteFault k scope).offerNotice { source := .fault k, scope := scope, detail := d } := by
  simp [raise, h]

theorem raise_halt (s : State) (k : FaultKind) (scope : Nat) (d : Word32) (h : (s.fault k).action = .halt) :
    s.raise k scope d =
      ((s.noteFault k scope).offerNotice { source := .fault k, scope := scope, detail := d }).enterHalted := by
  simp [raise, h]

theorem stopTarget_offered (s : State) (k : FaultKind) (scope : Nat) (n : Notice) :
    ((s.noteFault k scope).offerNotice n).stopTarget k scope = s.stopTarget k scope :=
  stopTarget_congr ((Signals.noteFault s k scope).trans (.offerNotice _ n)).drives k scope

theorem raise_stop_some (s : State) {k : FaultKind} {scope : Nat} (d : Word32) {i : StreamIx}
    (h : (s.fault k).action = .stop) (hi : s.stopTarget k scope = some i) : s.raise k scope d =
      ((s.noteFault k scope).offerNotice { source := .fault k, scope := scope, detail := d }).stopStream i := by
  have ht := (s.stopTarget_offered k scope { source := .fault k, scope := scope, detail := d }).trans hi
  simp [raise, h, ht]

theorem raise_stop_none (s : State) {k : FaultKind} {scope : Nat} (d : Word32)
    (h : (s.fault k).action = .stop) (hi : s.stopTarget k scope = none) : s.raise k scope d =
      (s.noteFault k scope).offerNotice { source := .fault k, scope := scope, detail := d } := by
  have ht := (s.stopTarget_offered k scope { source := .fault k, scope := scope, detail := d }).trans hi
  simp [raise, h, ht]

theorem drives_offered (s : State) (k : FaultKind) (scope : Nat) (n : Notice) :
    ((s.noteFault k scope).offerNotice n).drives = s.drives :=
  ((Signals.noteFault s k scope).trans (.offerNotice _ n)).drives

end State

end Sys2Proof.Machine

namespace Sys2Proof.Streams

open Machine Machine.State

/-- CLEAR_FAULTS (R176). -/
theorem clearFaults_clears (tag : Word16) (count : Byte) (kinds : List Byte) (s : State) (ht : s.TakesCommands)
    (h1 : 1 ≤ kinds.length) (h11 : kinds.length ≤ 11) :
    (kinds.length ≠ count.toNat ∨ readKinds kinds = none →
      exec (.clearFaults tag count kinds) s = .next (s.refuse tag .badParameter).kick) ∧
    ∀ ks, kinds.length = count.toNat → readKinds kinds = some ks →
      exec (.clearFaults tag count kinds) s =
        .next ((ks.foldl clearFault s).done tag (.clearedCounts (ks.map fun k => (s.fault k).count))).kick := by
  have hrow : exec (.clearFaults tag count kinds) s = .next (ownClearFaults tag count kinds s).kick :=
    exec_commandRow tag (.clearFaults count kinds) ht (by simp [commandForm, itemsFit, h1, h11])
  rw [hrow, ownClearFaults]
  refine ⟨fun h => ?_, fun ks hl hk => ?_⟩
  · split
    next hc => rw [h.resolve_left fun hn => hn hc.2.2]
    next => rfl
  · rw [if_pos ⟨hl ▸ h1, hl ▸ h11, hl⟩, hk]

/-- SET_FAULT_ACTIONS (R175). -/
theorem setFaultActions_sets (tag : Word16) (count : Byte) (pairs : List (Byte × Byte)) (s : State)
    (ht : s.TakesCommands) (h1 : 1 ≤ pairs.length) (h11 : pairs.length ≤ 11) :
    (pairs.length ≠ count.toNat ∨ readActions pairs = none →
      exec (.setFaultActions tag count pairs) s = .next (s.refuse tag .badParameter).kick) ∧
    ∀ ps, pairs.length = count.toNat → readActions pairs = some ps →
      exec (.setFaultActions tag count pairs) s =
        .next ((ps.foldl setAction s).done tag (.formerActions (ps.map fun p => (s.fault p.1).action))).kick := by
  have hrow : exec (.setFaultActions tag count pairs) s = .next (ownSetFaultActions tag count pairs s).kick :=
    exec_commandRow tag (.setFaultActions count pairs) ht (by simp [commandForm, itemsFit, h1, h11])
  rw [hrow, ownSetFaultActions]
  refine ⟨fun h => ?_, fun ps hl hp => ?_⟩
  · split
    next hc => rw [h.resolve_left fun hn => hn hc.2.2]
    next => rfl
  · rw [if_pos ⟨hl ▸ h1, hl ▸ h11, hl⟩, hp]

/-- A notice that finds the outbox full (R177). -/
theorem offerNotice_discarded (s : State) (n : Notice) (h : 32 ≤ s.ret.outbox.length) :
    ∃ t : State, s.offerNotice n = t ∧ t.ret = s.ret ∧
      t.monitor.watches = s.monitor.watches ∧ (∀ k, k ≠ .noticeOverflow → t.fault k = s.fault k) ∧
      t.fault .noticeOverflow =
        { pending := true
          count := if (s.fault .noticeOverflow).count = 65535#16 then 65535#16 else (s.fault .noticeOverflow).count + 1
          firstScope := if (s.fault .noticeOverflow).pending = true then (s.fault .noticeOverflow).firstScope else some 0
          action := (s.fault .noticeOverflow).action } ∧
      ((s.fault .noticeOverflow).action ≠ .halt → t.monitor.halted = s.monitor.halted ∧ t.streams = s.streams) ∧
      ((s.fault .noticeOverflow).action = .halt → t.monitor.halted = true ∧
        ∀ i, t.stream i = { s.stream i with cadence := { (s.stream i).cadence with running := false } }) := by
  refine ⟨s.offerNotice n, rfl, ?_⟩
  have hother (k : FaultKind) (hk : k ≠ .noticeOverflow) : (s.noteFault .noticeOverflow 0).fault k = s.fault k :=
    fault_setFault_other s _ hk.symm
  rw [offerNotice_full s n h]
  split
  next ha =>
    exact ⟨rfl, rfl, hother, fault_noteFault_same s _ _, fun hn => absurd ha hn, fun _ => ⟨rfl, stream_enterHalted _⟩⟩
  next ha =>
    exact ⟨rfl, rfl, hother, fault_noteFault_same s _ _, fun _ => ⟨rfl, rfl⟩, fun hh => absurd hh ha⟩

/-- A raise with action STOP on a started stream (R18, R19, R173), after its notice. -/
theorem stopStream_stops (s o : State) (i : StreamIx) (hd : o.drives = s.drives) (he : o.engine = s.engine)
    (h : (o.stream i).state.started = true) (hs : (o.stream i).state ≠ .stopped) :
    ∃ t : State, o.stopStream i = t ∧
      t.stream i = { o.stream i with
        state := .stopped, paused := t.pauseReason i
        cadence := { (o.stream i).cadence with running := false } } ∧
      (∀ j, j ≠ i → t.stream j = o.stream j) ∧ t.monitor = o.monitor ∧ t.ret = { o.ret with
        flowSet := if (t.stream i).paused = (o.stream i).paused then o.ret.flowSet
          else (o.ret.flowSet.filter fun f => f.stream != i) ++ [{ stream := i, pause := (t.stream i).paused }] } ∧
      t.drives = s.drives ∧ t.engine = s.engine := by
  refine ⟨_, stopStream_started o i h hs, ?_, fun j hj => ?_, ?_, ?_, ?_, ?_⟩
  · rw [stream_judgeFlow_same, stream_setStream_same, pauseReason_judgeFlow]
    rfl
  · rw [stream_judgeFlow_other _ hj, stream_setStream_other _ _ hj.symm]
  · rw [judgeFlow_eq]
    rfl
  · rw [stream_judgeFlow_same, stream_setStream_same, judgeFlow_eq, stream_setStream_same]
    rfl
  · exact ((Signals.judgeFlow _ i).drives).trans hd
  · exact ((Signals.judgeFlow _ i).engine).trans he

/-- A raise with action HALT (R174), after its notice. -/
theorem enterHalted_halts (s : State) (k : FaultKind) (scope : Nat) (n : Notice) (o : State)
    (ho : o = (s.noteFault k scope).offerNotice n) :
    o.enterHalted.monitor.halted = true ∧ o.enterHalted.monitor.faults = o.monitor.faults ∧
      o.enterHalted.monitor.watches = o.monitor.watches ∧ o.enterHalted.ret = o.ret ∧
      (∀ i, o.enterHalted.stream i =
        { s.stream i with cadence := { (s.stream i).cadence with running := false } }) ∧
      o.enterHalted.store = s.store ∧ o.enterHalted.dir = s.dir ∧ o.enterHalted.plans = s.plans ∧
      o.enterHalted.engine = s.engine ∧ o.enterHalted.drives = s.drives ∧ o.enterHalted.burn = s.burn := by
  have hs : Signals s o := ho ▸ (Signals.noteFault s k scope).trans (.offerNotice _ n)
  refine ⟨rfl, rfl, rfl, rfl, fun i => ?_, hs.store, hs.dir, hs.plans, hs.engine, hs.drives, hs.burn⟩
  rw [stream_enterHalted, ho, stream_offerNotice_stopped]
  rfl

/-- Settles O45: the codes, the two commands, and a raise with each action. -/
theorem faultCommandsChangeTheListedKinds : Obligations.FaultCommandsChangeTheListedKinds := by
  refine ⟨fun tag count kinds s ht h1 h11 => ?_, fun tag count pairs s ht h1 h11 => ?_,
    fun _ _ => readKinds_eq_some, fun pairs ps => ?_, fun s n => ?_, fun s k scope d u o hu ho => ?_⟩
  · obtain ⟨href, hdone⟩ := clearFaults_clears tag count kinds s ht h1 h11
    refine ⟨href, fun ks hl hk => ⟨ks.foldl clearFault s, hdone ks hl hk, fun k hm => ?_, fun k hm => ?_, ?_⟩⟩
    · rw [fault_clearFaults, if_pos hm]
    · rw [fault_clearFaults, if_neg hm]
    · rw [clearFaults_eq]
      exact ⟨rfl, rfl, rfl, rfl, rfl, rfl, rfl, rfl, rfl, rfl⟩
  · obtain ⟨href, hdone⟩ := setFaultActions_sets tag count pairs s ht h1 h11
    refine ⟨href, fun ps hl hp => ⟨ps.foldl setAction s, hdone ps hl hp, fun p hm => ?_, fun k hm => ?_, ?_⟩⟩
    · exact fault_setActions_same ps s (readActions_eq_some.1 hp).2.1 hm
    · exact fault_setActions_other ps s hm
    · exact setActions_eq ps s
  · rw [readActions_eq_some]
    have hcode : ∀ a : FaultAction, a.code.toNat = match a with | .record => 0 | .notify => 1 | .stop => 2 | .halt => 3 :=
      fun a => by cases a <;> rfl
    simp only [hcode] <;> rfl
  · exact ⟨offerNotice_room s n, offerNotice_discarded s n⟩
  · rw [← noteFault_eq] at hu
    subst hu
    have hd : o.drives = s.drives := ho ▸ drives_offered s k scope _
    have he : o.engine = s.engine := ho ▸ ((Signals.noteFault s k scope).trans (.offerNotice _ _)).engine
    have hst (i : StreamIx) : (o.stream i).state = (s.stream i).state := by
      rw [ho, state_offerNotice]
      rfl
    refine ⟨raise_record s k scope d, fun ha => ho ▸ raise_notify s k scope d ha, fun ha => ?_, fun ha => ⟨?_, ?_, ?_⟩⟩
    · exact ⟨o.enterHalted, ho ▸ raise_halt s k scope d ha, enterHalted_halts s k scope _ o ho⟩
    · intro i hi
      have htarget : s.stopTarget k scope = some i := by
        obtain ⟨hk, rfl⟩ | ⟨hk, a, rfl, hb⟩ := hi
        · exact stopTarget_stream s hk i
        · exact (stopTarget_drive s hk a).trans hb
      rw [raise_stop_some s d ha htarget, ← ho, ← hst i]
      exact ⟨stopStream_stops s o i hd he, stopStream_idle o i⟩
    · rintro hk rfl
      rw [raise_stop_none s d ha (stopTarget_part s hk), ho]
    · rintro a hk rfl hb
      rw [raise_stop_none s d ha ((stopTarget_drive s hk a).trans hb), ho]

end Sys2Proof.Streams

/-! PROOFS. STOP_STREAM: the close of the OPEN frame, the return of the PARKED stripes, and the flow state (R11, R15, R19,
R78). -/

namespace Sys2Proof.Machine

theorem FrameRec.unparked_unparked (f : FrameRec) : f.unparked.unparked = f.unparked :=
  f.unparked.unparked_of_none f.unparked_none

/-- A close makes no stripe PARKED. -/
theorem FrameRec.withDamageFixed_parked {f : FrameRec} (o : Word48) (h : ∀ st ∈ f.stripes, st.state ≠ .parked) :
    ∀ st ∈ (f.withDamageFixed o).stripes, st.state ≠ .parked := by
  intro st hs
  obtain ⟨x, hx, rfl⟩ := List.mem_map.1 hs
  split
  · simp
  · exact h x hx

/-- The record of a stream that begins to drain (R15). -/
def StreamRec.drained (r : StreamRec) (tag : Word16) : StreamRec :=
  { r with state := .draining, stopTag := some tag }

namespace State

/-! ### The return of the PARKED stripes of several frames (R78) -/

/-- What the return of the PARKED stripes of the frames numbered `ns` of a stream makes of a state. -/
structure UnparkedIn (s t : State) (i : StreamIx) (ns : List Word32) : Prop where
  rest : t = { s with streams := t.streams, engine := t.engine }
  others : ∀ j, j ≠ i → t.stream j = s.stream j
  stream : t.stream i = { s.stream i with window := (t.stream i).window }
  numbers : (t.stream i).window.map (·.number) = (s.stream i).window.map (·.number)
  ordinal : t.engine.closeOrdinal = s.engine.closeOrdinal
  keeps : ∀ q ∈ s.engine.queue, q ∈ t.engine.queue
  inside : ∀ n ∈ ns, ∀ f, s.frame i n = some f →
    t.frame i n = some f.unparked ∧ ((∃ st ∈ f.stripes, st.state = .parked) → t.Queued f i)
  outside : ∀ n, n ∉ ns → t.frame i n = s.frame i n

theorem UnparkedIn.refl (s : State) (i : StreamIx) : UnparkedIn s s i [] :=
  ⟨rfl, fun _ _ => rfl, rfl, rfl, rfl, fun _ h => h, fun _ h => (nomatch h), fun _ _ => rfl⟩

theorem Queued.of_keeps {s t : State} {f : FrameRec} {i : StreamIx} (h : s.Queued f i)
    (k : ∀ q ∈ s.engine.queue, q ∈ t.engine.queue) : t.Queued f i := fun o ho =>
  let ⟨q, hq, hn⟩ := h o ho
  ⟨q, k q hq, hn⟩

theorem unparkFrame_in (s : State) (i : StreamIx) (n : Word32) : UnparkedIn s (s.unparkFrame i n) i [n] := by
  cases hf : s.frame i n with
  | none =>
    have hs : s.unparkFrame i n = s := by simp [unparkFrame, hf]
    rw [hs]
    refine ⟨rfl, fun _ _ => rfl, rfl, rfl, rfl, fun _ h => h, fun m hm f h => ?_, fun _ _ => rfl⟩
    rw [List.mem_singleton.1 hm, hf] at h
    cases h
  | some f =>
    have h := unparkFrame_unparked s i n f hf
    refine ⟨h.rest, h.streams, h.stream, h.numbers, h.ordinal, h.keeps, fun m hm g hg => ?_, fun m hm => ?_⟩
    · obtain rfl := List.mem_singleton.1 hm
      obtain rfl : f = g := Option.some.inj (hf.symm.trans hg)
      exact ⟨h.frame, h.queued⟩
    · exact h.others m (by simpa using hm)

theorem UnparkedIn.trans {s t u : State} {i : StreamIx} {ns ms : List Word32} (h : UnparkedIn s t i ns)
    (g : UnparkedIn t u i ms) : UnparkedIn s u i (ns ++ ms) := by
  refine ⟨?_, fun j hj => (g.others j hj).trans (h.others j hj), ?_, g.numbers.trans h.numbers,
    g.ordinal.trans h.ordinal, fun q hq => g.keeps q (h.keeps q hq), fun n hn f hf => ?_, fun n hn => ?_⟩
  · rw [g.rest, h.rest]
  · rw [g.stream, h.stream]
  · by_cases hns : n ∈ ns
    · obtain ⟨hfr, hq⟩ := h.inside n hns f hf
      have hu : u.frame i n = some f.unparked := by
        by_cases hms : n ∈ ms
        · rw [(g.inside n hms _ hfr).1, f.unparked_unparked]
        · rw [g.outside n hms, hfr]
      exact ⟨hu, fun hp => (hq hp).of_keeps g.keeps⟩
    · exact g.inside n ((List.mem_append.1 hn).resolve_left hns) f ((h.outside n hns).trans hf)
  · obtain ⟨h1, h2⟩ := not_or.1 fun e => hn (List.mem_append.2 e)
    rw [g.outside n h2, h.outside n h1]

theorem unparkFrames_in (l : List FrameRec) (s : State) (i : StreamIx) :
    UnparkedIn s (l.foldl (fun s f => s.unparkFrame i f.number) s) i (l.map (·.number)) := by
  induction l generalizing s with
  | nil => exact .refl s i
  | cons f l ih => exact (unparkFrame_in s i f.number).trans (ih _)

theorem unparkStream_in (s : State) (i : StreamIx) :
    UnparkedIn s (s.unparkStream i) i ((s.stream i).window.map (·.number)) :=
  unparkFrames_in _ s i

/-! ### The close of the OPEN frame, if there is one (R11) -/

/-- A frame that a close leaves CLOSED, or whose PARKED stripes the close gives back. -/
theorem frame_closeFrame_other {s : State} {i : StreamIx} {n m : Word32} {f g : FrameRec} (h : s.frame i n = some f)
    (hm : m ≠ n) (hg : s.frame i m = some g) : (s.closeFrame i n).frame i m = some g ∨
      (s.closeFrame i n).frame i m = some g.unparked ∧
        ((∃ st ∈ g.stripes, st.state = .parked) → (s.closeFrame i n).Queued g i) := by
  have hu : ((s.closeRecord i n f).closeDamage i n f.damageAtClose).frame i m = some g := by
    rw [frame, closeDamage_stream]
    exact (frame_closeRecord_other s i n f h hm).trans hg
  rw [closeFrame_eq h]
  obtain ⟨he, -⟩ | ⟨p, q, -, hq, hp⟩ :=
    unparkBefore_unparked ((s.closeRecord i n f).closeDamage i n f.damageAtClose) i n
  · rw [he]
    exact .inl hu
  · by_cases e : m = p.number
    · subst e
      obtain rfl : q = g := Option.some.inj (hq.symm.trans hu)
      exact .inr ⟨hp.frame, hp.queued⟩
    · exact .inl ((hp.others m e).trans hu)

/-- What the close of the OPEN frame, if there is one, leaves of a state. -/
structure OpenClosed (s t : State) (i : StreamIx) : Prop where
  rest : t = { s with
    streams := t.streams, engine := t.engine, monitor := t.monitor
    ret := { s.ret with flowSet := t.ret.flowSet, outbox := t.ret.outbox } }
  others : ∀ j, j ≠ i → t.stream j = { s.stream j with
    cadence := { (s.stream j).cadence with running := (t.stream j).cadence.running } }
  stream : t.stream i = { s.stream i with
    window := (t.stream i).window, counters := (t.stream i).counters, paused := (t.stream i).paused
    cadence := { (s.stream i).cadence with running := (t.stream i).cadence.running } }
  numbers : (t.stream i).window.map (·.number) = (s.stream i).window.map (·.number)
  ordinal : t.engine.closeOrdinal =
    if s.openNumber i = none then s.engine.closeOrdinal else s.engine.closeOrdinal + 1
  flow : FlowRises s t i

theorem closeOpen_opened (s : State) (i : StreamIx) : OpenClosed s (s.closeOpen i) i := by
  cases hm : s.openNumber i with
  | none =>
    rw [closeOpen_none hm]
    exact ⟨rfl, fun _ _ => rfl, rfl, rfl, by rw [if_pos hm], .refl s i⟩
  | some m =>
    obtain ⟨he, f, -, hc⟩ := closeOpen_closed hm
    rw [he]
    exact ⟨hc.rest, hc.others, hc.stream, hc.numbers, by rw [hc.ordinal, hm]; rfl, hc.flow⟩

section
variable {s : State} {i : StreamIx} (hp : ((s.stream i).window.map (·.number)).Pairwise (· < ·))
include hp

/-- A frame that is not OPEN, after the close of the OPEN one. -/
theorem frame_closeOpen_other {f : FrameRec} (hf : f ∈ (s.stream i).window) (ho : f.state ≠ .opened) :
    (s.closeOpen i).frame i f.number = some f ∨
      (s.closeOpen i).frame i f.number = some f.unparked ∧
        ((∃ st ∈ f.stripes, st.state = .parked) → (s.closeOpen i).Queued f i) := by
  have hs := frame_of_mem hp hf
  cases hm : s.openNumber i with
  | none =>
    rw [closeOpen_none hm]
    exact .inl hs
  | some m =>
    obtain ⟨he, g, hg, -⟩ := closeOpen_closed hm
    have hne : f.number ≠ m := by
      rintro rfl
      obtain ⟨x, hx, hn⟩ := Option.map_eq_some_iff.1 hm
      have hxf : x = f := Option.some.inj <|
        (hn ▸ frame_of_mem hp (List.mem_of_find?_eq_some hx)).symm.trans hs
      exact ho (by simpa [hxf] using List.find?_some hx)
    rw [he]
    exact frame_closeFrame_other hg hne hs

/-- The OPEN frame, once closed. -/
theorem frame_closeOpen {m : Word32} {f : FrameRec} (hm : s.openNumber i = some m) (hf : s.frame i m = some f) :
    (s.closeOpen i).frame i m = some (f.withDamageFixed s.engine.closeOrdinal) := by
  rw [(closeOpen_closed hm).1]
  exact frame_closeFrame hp hf

end

/-! ### STOP_STREAM taken (R15) -/

/-- The state of a STOP_STREAM taken before its flow state is judged. -/
def drainBegun (s : State) (i : StreamIx) (tag : Word16) : State :=
  let s2 := ((s.closeOpen i).setStream i (((s.closeOpen i).stream i).drained tag)).unparkStream i
  if (s.stream i).state = .priming then s2.startCadence i else s2

theorem beginDrain_eq (s : State) (i : StreamIx) (tag : Word16) :
    s.beginDrain i tag = (s.drainBegun i tag).judgeFlow i := rfl

/-- What the drain's begin makes of the state `u` in which the OPEN frame is closed. -/
structure Drained (s u t : State) (i : StreamIx) (tag : Word16) : Prop where
  rest : t = { u with streams := t.streams, engine := t.engine }
  others : ∀ j, j ≠ i → t.stream j = u.stream j
  stream : t.stream i = { (u.stream i).drained tag with
    window := (t.stream i).window
    cadence := if (s.stream i).state = .priming then
      { (u.stream i).cadence with position := 0, running := !u.monitor.halted } else (u.stream i).cadence }
  numbers : (t.stream i).window.map (·.number) = (u.stream i).window.map (·.number)
  ordinal : t.engine.closeOrdinal = u.engine.closeOrdinal
  keeps : ∀ q ∈ u.engine.queue, q ∈ t.engine.queue
  frame : ∀ n f, u.frame i n = some f →
    t.frame i n = some f.unparked ∧ ((∃ st ∈ f.stripes, st.state = .parked) → t.Queued f i)

theorem drainBegun_drained (s : State) (i : StreamIx) (tag : Word16) :
    Drained s (s.closeOpen i) (s.drainBegun i tag) i tag := by
  unfold drainBegun
  generalize s.closeOpen i = u
  have hu : (u.setStream i ((u.stream i).drained tag)).stream i = (u.stream i).drained tag := stream_setStream_same _ _ _
  have h := unparkStream_in (u.setStream i ((u.stream i).drained tag)) i
  rw [hu] at h
  generalize (u.setStream i ((u.stream i).drained tag)).unparkStream i = t at h
  have hst := h.stream
  have hn := h.numbers
  rw [hu] at hst hn
  have hframe (n : Word32) (f : FrameRec) (hf : u.frame i n = some f) :
      t.frame i n = some f.unparked ∧ ((∃ st ∈ f.stripes, st.state = .parked) → t.Queued f i) := by
    refine h.inside n ?_ f (by rw [State.frame, hu]; exact hf)
    exact frame_number hf ▸ List.mem_map_of_mem (frame_mem hf)
  have hrest : t = { u with streams := t.streams, engine := t.engine } := by
    rw [h.rest]
    rfl
  have hothers (j : StreamIx) (hj : j ≠ i) : t.stream j = u.stream j :=
    (h.others j hj).trans (stream_setStream_other u _ hj.symm)
  split
  next hpr =>
    have hs : (t.startCadence i).stream i = { t.stream i with
        cadence := { (t.stream i).cadence with position := 0, running := !t.monitor.halted } } :=
      stream_modStream_same _ _ _
    refine ⟨?_, fun j hj => ?_, ?_, ?_, h.ordinal, h.keeps, fun n f hf => ?_⟩
    · rw [startCadence]
      rw [hrest]
      rfl
    · exact (stream_modStream_other t _ hj.symm).trans (hothers j hj)
    · rw [hs, hst, if_pos hpr, hrest]
      rfl
    · rw [hs]
      exact hn
    · rw [State.frame, hs]
      exact hframe n f hf
  next hpr => exact ⟨hrest, hothers, by rw [if_neg hpr]; exact hst, hn, h.ordinal, h.keeps, hframe⟩

/-- Only PRIMING, of the three, has no occupancy reason: a stream that begins to drain keeps the reasons it has (R19). -/
theorem occupancyReason_drained {r q : StreamRec} (hq : q.config = r.config) (hs : q.state = .draining)
    (hw : q.window.length = r.window.length) (h : r.occupancyReason = true) : q.occupancyReason = true := by
  unfold StreamRec.occupancyReason at h ⊢
  rw [hq, hs, hw]
  cases hc : r.config with
  | none => simp [hc] at h
  | some cfg =>
    simp only [hc, Bool.and_eq_true] at h
    simpa [StreamState.paced] using h.2

section
variable {s u t : State} {i : StreamIx} {tag : Word16} (ho : OpenClosed s u i) (hd : Drained s u t i tag)
include ho hd

theorem Drained.length : (t.stream i).window.length = (s.stream i).window.length := by
  simpa using congrArg List.length (hd.numbers.trans ho.numbers)

/-- The flow state is judged at the close, and again when the stream drains. -/
theorem Drained.judged : s.FlowJudged (t.judgeFlow i) i := by
  have hpaused (j : StreamIx) : (t.stream j).paused = (u.stream j).paused := by
    by_cases e : j = i
    · subst e
      rw [hd.stream]
      rfl
    · rw [hd.others j e]
  have hsusp : t.suspensions i = u.suspensions i := by
    rw [suspensions, hd.rest]
    rfl
  have hflow : t.ret.flowSet = u.ret.flowSet := by rw [hd.rest]
  refine ho.flow.judged.trans_rises (judgeFlow_judged i hpaused hflow) ho.flow.reason fun h => ?_
  rw [pauseReason_judgeFlow]
  rw [pauseReason, Bool.or_eq_true] at h ⊢
  rw [hsusp]
  refine h.imp_left (occupancyReason_drained ?_ ?_ ?_)
  · rw [hd.stream]
    rfl
  · rw [hd.stream]
    rfl
  · simpa using congrArg List.length hd.numbers

end

end State
end Sys2Proof.Machine

namespace Sys2Proof.Streams

open Machine Machine.State

section
variable {s : State} {i : StreamIx} (hp : ((s.stream i).window.map (·.number)).Pairwise (· < ·)) (tag : Word16)
include hp

/-- A frame that is not OPEN when the stream begins to drain. -/
theorem frame_drainBegun {f : FrameRec} (hf : f ∈ (s.stream i).window) (ho : f.state ≠ .opened) :
    (s.drainBegun i tag).frame i f.number = some f.unparked ∧
      ((∃ st ∈ f.stripes, st.state = .parked) → (s.drainBegun i tag).Queued f i) := by
  have hd := drainBegun_drained s i tag
  obtain hu | ⟨hu, hq⟩ := frame_closeOpen_other hp hf ho
  · exact hd.frame _ _ hu
  · obtain ⟨ht, -⟩ := hd.frame _ _ hu
    exact ⟨by rw [ht, f.unparked_unparked], fun h => (hq h).of_keeps hd.keeps⟩

/-- The frame that was OPEN when the stream began to drain. -/
theorem frame_drainBegun_opened {m : Word32} {f : FrameRec} (hm : s.openNumber i = some m) (hf : s.frame i m = some f)
    (hn : ∀ st ∈ f.stripes, st.state ≠ .parked) :
    (s.drainBegun i tag).frame i m = some (f.withDamageFixed s.engine.closeOrdinal) := by
  rw [((drainBegun_drained s i tag).frame _ _ (frame_closeOpen hp hm hf)).1,
    FrameRec.unparked_of_none _ (f.withDamageFixed_parked _ hn)]

/-- No stripe of a draining stream is PARKED. -/
theorem drainBegun_unparked :
    ∀ g ∈ ((s.drainBegun i tag).stream i).window, ∀ st ∈ g.stripes, st.state ≠ .parked := by
  have ho := closeOpen_opened s i
  have hd := drainBegun_drained s i tag
  intro g hg
  have hnum : (((s.closeOpen i).stream i).window.map (·.number)).Pairwise (· < ·) := ho.numbers ▸ hp
  obtain ⟨f, hf, hn⟩ : ∃ f ∈ ((s.closeOpen i).stream i).window, f.number = g.number :=
    List.mem_map.1 (hd.numbers ▸ List.mem_map_of_mem (f := (·.number)) hg)
  have hft := (hd.frame _ _ (frame_of_mem hnum hf)).1
  have hgt := frame_of_mem (hd.numbers ▸ hnum) hg
  obtain rfl : f.unparked = g := Option.some.inj (hft.symm.trans (hn ▸ hgt))
  exact f.unparked_none

end

/-- Settles O36: `closeOpen_opened` for the close, `drainBegun_drained` for the record and the PARKED stripes. -/
theorem stopStreamDrains : Obligations.StopStreamDrains := by
  have hrow (tag : Word16) (id : Byte) (s : State) (ht : s.TakesCommands) :
      exec (.stopStream tag id) s = .next (ownStopStream tag id s).kick := exec_commandRow tag (.stopStream id) ht rfl
  refine ⟨fun tag id s ht hi => by rw [hrow tag id s ht, ownStopStream, hi], fun tag id i s ht hi => ⟨fun hs => ?_,
    fun hs => by rw [hrow tag id s ht, ownStopStream, hi]; simp only [hs], fun hs => ?_⟩⟩
  · have hexec : exec (.stopStream tag id) s = .next (s.beginDrain i tag).takeWork.kick := by
      rw [hrow tag id s ht, ownStopStream, hi]
      obtain hs | hs | hs := hs <;> simp only [hs]
    have ho := closeOpen_opened s i
    have hd := drainBegun_drained s i tag
    have hframe (m : Word32) : ((s.drainBegun i tag).judgeFlow i).frame i m = (s.drainBegun i tag).frame i m := by
      rw [State.frame, stream_judgeFlow_same]
      rfl
    have heng : ((s.drainBegun i tag).judgeFlow i).engine = (s.drainBegun i tag).engine := (Signals.judgeFlow _ i).engine
    have hother (j : StreamIx) (hj : j ≠ i) :
        ((s.drainBegun i tag).judgeFlow i).stream j = (s.closeOpen i).stream j :=
      (stream_judgeFlow_other _ hj).trans (hd.others j hj)
    have hsig := Signals.judgeFlow (s.drainBegun i tag) i
    refine ⟨_, hexec, ?_⟩
    rw [beginDrain_eq, hsig.store, hsig.dir, hsig.drives, hsig.burn, heng, stream_judgeFlow_same]
    refine ⟨?_, ?_, ?_, hd.length ho, fun hpr => ?_, fun hp => ⟨drainBegun_unparked hp tag, fun f hf hfo => ?_,
      fun m f hm hf hn => ?_⟩, ?_, ?_, hd.judged ho, fun j hj => ?_, ?_, ?_, ?_, ?_⟩
    · rw [hd.stream]
      rfl
    · rw [hd.stream]
      rfl
    · rw [judgeFlow_eq, hd.rest, ho.rest]
    · have hm : ((s.drainBegun i tag).judgeFlow i).monitor = (s.closeOpen i).monitor := by
        rw [judgeFlow_eq, hd.rest]
        rfl
      rw [hm, hd.stream]
      simp [hpr]
    · obtain ⟨h1, h2⟩ := frame_drainBegun hp tag hf hfo
      rw [hframe]
      refine ⟨h1, fun h => ?_⟩
      rw [Queued, heng]
      exact h2 h
    · rw [hframe]
      exact frame_drainBegun_opened hp tag hm hf hn
    · rw [hd.ordinal, ho.ordinal]
    · exact (pauseReason_judgeFlow _ i).symm
    · rw [hother j hj, ho.others j hj]
      exact ⟨rfl, rfl⟩
    · rw [hd.rest, ho.rest]
    · rw [hd.rest, ho.rest]
    · rw [hd.rest, ho.rest]
    · rw [hd.rest, ho.rest]
  · rw [hrow tag id s ht, ownStopStream, hi]
    obtain hs | hs | hs := hs <;> simp only [hs]

end Sys2Proof.Streams

/-! PROOFS. ABORT_STREAM: cancelled contexts (R84, R87), the records that return to the pool, the frames that leave the burn
queues (R133), and the end of a session (R16, R17). -/

namespace Sys2Proof.Machine

/-- The slots an operation holds, in the order it gives them up (R84; log 10). -/
def Operation.holds (op : Operation) : List Slot := op.result.toList ++ op.inputs

/-- The slots of several records, in order. -/
def slotsOf (l : List FrameRec) : List Slot := l.flatMap fun f => f.stripes.filterMap StripeRec.slot

namespace State

/-! ### Cancelled contexts (R84, R86, R87) -/

theorem releaseHolds_eq (s : State) (op : Operation) :
    s.releaseHolds op = { s with store := op.holds.foldl Store.release s.store } := by
  unfold releaseHolds Operation.holds
  rw [releaseAll_eq, List.foldl_append]
  cases op.result <;> rfl

/-- What a cancelled context leaves. -/
theorem cancelContext_eq {s : State} {c : Fin 4} {b : Busy} (h : s.context c = some b) : s.cancelContext c =
    { s with
      store := b.op.holds.foldl Store.release s.store
      engine := { s.engine with contexts := s.engine.contexts.set c none }
      ret := { s.ret with asks := (s.withdrawAsk c).ret.asks, sending := (s.withdrawAsk c).ret.sending } } := by
  unfold cancelContext
  rw [h]
  dsimp only
  rw [releaseHolds_eq]
  rfl

/-- What the cancellation of the contexts of `cs` whose jobs meet a test makes of a state. -/
structure Cancelled (s t : State) (test : Job → Bool) (cs : List (Fin 4)) : Prop where
  rest : t = { s with
    store := (((cs.filterMap s.context).filter fun b => test b.job).flatMap fun b => b.op.holds).foldl
      Store.release s.store
    engine := { s.engine with contexts := t.engine.contexts }
    ret := { s.ret with asks := t.ret.asks, sending := t.ret.sending } }
  context : ∀ c, t.context c = if c ∈ cs then (s.context c).filter fun b => !test b.job else s.context c

theorem Cancelled.refl (s : State) (test : Job → Bool) : Cancelled s s test [] := ⟨rfl, fun _ => rfl⟩

/-- One context's turn. -/
def cancelOne (test : Job → Bool) (s : State) (c : Fin 4) : State :=
  match s.context c with
  | some b => if test b.job then s.cancelContext c else s
  | none => s

theorem cancelOne_cancelled (s : State) (test : Job → Bool) (c : Fin 4) : Cancelled s (cancelOne test s c) test [c] := by
  unfold cancelOne
  cases hc : s.context c with
  | none =>
    refine ⟨by simp [hc], fun e => ?_⟩
    by_cases he : e = c
    · simp [he, hc]
    · simp [he]
  | some b =>
    by_cases ht : test b.job = true
    · simp only [ht, if_true]
      rw [cancelContext_eq hc]
      refine ⟨by simp [hc, ht], fun e => ?_⟩
      by_cases he : e = c
      · subst he
        rw [if_pos List.mem_cons_self, hc, Option.filter_some, ht]
        exact context_setContext_same s e none
      · rw [if_neg (by simpa using he)]
        exact context_setContext_other s none (Ne.symm he)
    · simp only [ht]
      refine ⟨by simp [hc, ht], fun e => ?_⟩
      by_cases he : e = c
      · simp [he, hc, Option.filter_some, ht]
      · simp [he]

theorem Cancelled.cons {s t u : State} {test : Job → Bool} {c : Fin 4} {cs : List (Fin 4)}
    (h : Cancelled s t test [c]) (hc : c ∉ cs) (g : Cancelled t u test cs) : Cancelled s u test (c :: cs) := by
  have hctx (e : Fin 4) (he : e ∈ cs) : t.context e = s.context e := by
    rw [h.context, if_neg fun hm => hc (by rwa [← List.mem_singleton.1 hm])]
  have hmap : cs.filterMap t.context = cs.filterMap s.context := List.filterMap_congr hctx
  refine ⟨?_, fun e => ?_⟩
  · rw [g.rest, hmap, h.rest]
    cases hs : s.context c with
    | none => simp [hs]
    | some b => by_cases hb : test b.job = true <;> simp [hs, hb]
  · rw [g.context]
    by_cases he : e ∈ cs
    · rw [if_pos he, if_pos (List.mem_cons_of_mem _ he), hctx e he]
    · rw [if_neg he, h.context]
      exact if_congr (by simp [he]) rfl rfl

theorem cancelWhere_cancelled (s : State) (test : Job → Bool) : Cancelled s (s.cancelWhere test) test allContexts := by
  have fold : ∀ (cs : List (Fin 4)) (s : State), cs.Nodup → Cancelled s (cs.foldl (cancelOne test) s) test cs := by
    intro cs
    induction cs with
    | nil => exact fun s _ => .refl s test
    | cons c cs ih =>
      intro s hn
      obtain ⟨hc, hcs⟩ := List.nodup_cons.1 hn
      exact (cancelOne_cancelled s test c).cons hc (ih _ hcs)
  exact fold allContexts s (by decide)

theorem mem_allContexts (c : Fin 4) : c ∈ allContexts := by
  revert c
  decide

theorem mem_allDrives (a : DriveIx) : a ∈ allDrives := by
  revert a
  decide

theorem Cancelled.context_all {s t : State} {test : Job → Bool} (h : Cancelled s t test allContexts) (c : Fin 4) :
    t.context c = (s.context c).filter fun b => !test b.job := by
  rw [h.context, if_pos (mem_allContexts c)]

/-! ### Records that return to the pool (R17, R25) -/

theorem returnRecords_eq (l : List FrameRec) (s : State) :
    l.foldl returnRecord s = { s with store := (slotsOf l).foldl Store.release s.store } := by
  induction l generalizing s with
  | nil => rfl
  | cons f l ih =>
    rw [List.foldl_cons, ih, returnRecord, releaseAll_eq, slotsOf, slotsOf, List.flatMap_cons, List.foldl_append]

/-- The window's records return to the pool (R17 step 2). -/
theorem emptyWindow_eq (s : State) (i : StreamIx) : s.emptyWindow i =
    { s.setStream i { s.stream i with window := [] } with
      store := (slotsOf (s.stream i).window).foldl Store.release s.store } :=
  returnRecords_eq _ _

end State

/-! ### Frames withdrawn from the burn queues (R17, R133) -/

/-- A drive's binding to a stream is released (R143). -/
def DriveRec.unbound (d : DriveRec) (i : StreamIx) : DriveRec :=
  { d with binding := if d.binding.stream = some i then .none else d.binding }

/-- A booking without a suspension of stream `i` (R169). -/
def Booking.released (b : Booking) (i : StreamIx) : Booking :=
  { b with suspension := if b.suspension = some i then none else b.suspension }

theorem Booking.released_suspension (b : Booking) (i : StreamIx) : (b.released i).suspension ≠ some i := by
  dsimp only [released]
  split
  next => simp
  next hn => exact hn

theorem DriveRec.unbound_binding (d : DriveRec) (i : StreamIx) : (d.unbound i).binding.stream ≠ some i := by
  dsimp only [unbound]
  split
  next => simp [Binding.stream]
  next hn => exact hn

/-- The record of a stream whose session ends (R16, R17 step 5). -/
def StreamRec.ended (r : StreamRec) : StreamRec :=
  { r with
    state := .configured
    cadence := { r.cadence with
      running := false, position := 0, pattern := r.config.map (·.pattern), pendingPattern := none } }

/-- The frames of stream `i` that leave a drive's queue, the head being engaged or not. -/
def DriveRec.gone (d : DriveRec) (i : StreamIx) (engaged : Bool) : List FrameRec :=
  (match d.queue with
    | [] => []
    | f :: rest => if f.stream = i ∧ engaged = true then rest else f :: rest).filter fun g => g.stream == i

/-- A drive whose queue is `kept` of what it was. -/
def DriveRec.keeping (d : DriveRec) (kept : List FrameRec) : DriveRec :=
  { d with queue := kept, committed := (kept.map (·.need)).sum }

/-- A drive after the frames of stream `i` have left its queue, the head being engaged or not, and in flight or not. -/
def DriveRec.withdraw (d : DriveRec) (i : StreamIx) (engaged inFlight : Bool) : DriveRec :=
  match d.queue with
  | [] => d
  | f :: rest =>
    if f.stream = i ∧ engaged = true then
      if inFlight = true then { d.keeping (f :: rest.filter fun g => g.stream != i) with withdrawn := true }
      else { d.keeping (f :: rest.filter fun g => g.stream != i) with abandonOwed := true, withdrawn := false }
    else d.keeping ((f :: rest).filter fun g => g.stream != i)

section
variable {d : DriveRec} {i : StreamIx} {e x : Bool} {f : FrameRec} {rest : List FrameRec}

theorem DriveRec.gone_nil (h : d.queue = []) : d.gone i e = [] := by
  rw [gone, h]
  rfl

theorem DriveRec.gone_engaged (h : d.queue = f :: rest) (he : f.stream = i ∧ e = true) :
    d.gone i e = rest.filter fun g => g.stream == i := by
  rw [gone, h]
  dsimp only
  rw [if_pos he]

theorem DriveRec.gone_free (h : d.queue = f :: rest) (he : ¬(f.stream = i ∧ e = true)) :
    d.gone i e = (f :: rest).filter fun g => g.stream == i := by
  rw [gone, h]
  dsimp only
  rw [if_neg he]

theorem DriveRec.withdraw_nil (h : d.queue = []) : d.withdraw i e x = d := by
  rw [withdraw, h]

theorem DriveRec.withdraw_engaged (h : d.queue = f :: rest) (he : f.stream = i ∧ e = true) : d.withdraw i e x =
    if x = true then { d.keeping (f :: rest.filter fun g => g.stream != i) with withdrawn := true }
    else { d.keeping (f :: rest.filter fun g => g.stream != i) with abandonOwed := true, withdrawn := false } := by
  rw [withdraw, h]
  dsimp only
  rw [if_pos he]

theorem DriveRec.withdraw_free (h : d.queue = f :: rest) (he : ¬(f.stream = i ∧ e = true)) :
    d.withdraw i e x = d.keeping ((f :: rest).filter fun g => g.stream != i) := by
  rw [withdraw, h]
  dsimp only
  rw [if_neg he]

end

/-- The queue of a drive is withdrawn from as if its binding had been released before. -/
theorem DriveRec.unbound_withdraw (d : DriveRec) (i : StreamIx) (e x : Bool) :
    (d.withdraw i e x).unbound i = (d.unbound i).withdraw i e x := by
  cases hq : d.queue with
  | nil => rw [withdraw_nil hq, withdraw_nil (d := d.unbound i) hq]
  | cons f rest =>
    by_cases he : f.stream = i ∧ e = true
    · rw [withdraw_engaged hq he, withdraw_engaged (d := d.unbound i) hq he]
      split <;> rfl
    · rw [withdraw_free hq he, withdraw_free (d := d.unbound i) hq he]
      rfl

namespace State

/-- What stands at the head and what is in flight rests on the drive and on the exchange. -/
theorem headEngaged_congr {s t : State} {a : DriveIx} (hd : t.drive a = s.drive a) (hb : t.burn = s.burn) :
    t.headEngaged a = s.headEngaged a ∧ t.frameInFlight a = s.frameInFlight a := by
  have hf : t.frameInFlight a = s.frameInFlight a := by rw [frameInFlight, hb, frameInFlight]
  exact ⟨by rw [headEngaged, hd, hf, headEngaged], hf⟩

theorem setDrive_self (s : State) (a : DriveIx) : s.setDrive a (s.drive a) = s := by
  simp [setDrive, drive]

theorem drive_congr {s t : State} (h : t.drives = s.drives) (a : DriveIx) : t.drive a = s.drive a := by
  rw [drive, h, drive]

/-- What the withdrawal of a stream's frames from the queues of several drives makes of a state. -/
structure Withdrawn (s t : State) (i : StreamIx) (l : List DriveIx) : Prop where
  rest : t = { s with
    drives := t.drives
    store := (slotsOf (l.flatMap fun a => (s.drive a).gone i (s.headEngaged a))).foldl Store.release s.store }
  drive : ∀ a, t.drive a =
    if a ∈ l then (s.drive a).withdraw i (s.headEngaged a) (s.frameInFlight a) else s.drive a

theorem Withdrawn.refl (s : State) (i : StreamIx) : Withdrawn s s i [] := ⟨rfl, fun _ => rfl⟩

/-- A change of one drive, and records that return to the pool. -/
theorem Withdrawn.of_drive {s : State} {i : StreamIx} {a : DriveIx} {d : DriveRec} {t : State}
    (ht : t = { s.setDrive a d with
      store := (slotsOf ((s.drive a).gone i (s.headEngaged a))).foldl Store.release s.store })
    (hd : d = (s.drive a).withdraw i (s.headEngaged a) (s.frameInFlight a)) : Withdrawn s t i [a] := by
  subst ht
  refine ⟨by simp [setDrive], fun b => ?_⟩
  by_cases hb : b = a
  · subst hb
    rw [if_pos List.mem_cons_self, ← hd]
    exact drive_setDrive_same s b d
  · rw [if_neg (by simpa using hb)]
    exact drive_setDrive_other s d (Ne.symm hb)

/-- An engaged head stays in the queue just written, marked or owed an ABANDON. -/
theorem withdrawHead_eq (s : State) (a : DriveIx) (d : DriveRec) (st : Store) :
    ({ s.setDrive a d with store := st } : State).withdrawHead a = { s.setDrive a
      (if s.frameInFlight a = true then { d with withdrawn := true }
        else { d with abandonOwed := true, withdrawn := false }) with store := st } := by
  have hd : ({ s.setDrive a d with store := st } : State).drive a = d := drive_setDrive_same s a d
  have hset (e : DriveRec) :
      ({ s.setDrive a d with store := st } : State).setDrive a e = { s.setDrive a e with store := st } :=
    congrArg (fun w => ({ w with store := st } : State)) (setDrive_setDrive s a d e)
  unfold withdrawHead oweAbandon modDrive
  rw [hset, hset, hd]
  exact (apply_ite (fun e => ({ s.setDrive a e with store := st } : State)) _ _ _).symm

theorem withdrawQueue_withdrawn (s : State) (i : StreamIx) (a : DriveIx) : Withdrawn s (s.withdrawQueue i a) i [a] := by
  unfold withdrawQueue
  cases hq : (s.drive a).queue with
  | nil =>
    refine .of_drive (d := s.drive a) ?_ (DriveRec.withdraw_nil hq).symm
    rw [DriveRec.gone_nil hq, setDrive_self]
    rfl
  | cons f rest =>
    dsimp only
    by_cases he : f.stream = i ∧ s.headEngaged a = true
    · rw [if_pos he, returnRecords_eq]
      refine .of_drive ?_ (DriveRec.withdraw_engaged hq he).symm
      rw [DriveRec.gone_engaged hq he]
      exact withdrawHead_eq s a _ _
    · rw [if_neg he, returnRecords_eq]
      refine .of_drive ?_ (DriveRec.withdraw_free hq he).symm
      rw [DriveRec.gone_free hq he]
      rfl

theorem Withdrawn.cons {s t u : State} {i : StreamIx} {a : DriveIx} {l : List DriveIx} (h : Withdrawn s t i [a])
    (ha : a ∉ l) (g : Withdrawn t u i l) : Withdrawn s u i (a :: l) := by
  have hdrive (b : DriveIx) (hb : b ∈ l) : t.drive b = s.drive b := by
    rw [h.drive, if_neg fun hm => ha (by rwa [← List.mem_singleton.1 hm])]
  have hburn : t.burn = s.burn := by rw [h.rest]
  refine ⟨?_, fun b => ?_⟩
  · have hgone : (l.flatMap fun b => (t.drive b).gone i (t.headEngaged b)) =
        l.flatMap fun b => (s.drive b).gone i (s.headEngaged b) :=
      List.flatMap_congr fun b hb => by rw [hdrive b hb, (headEngaged_congr (hdrive b hb) hburn).1]
    rw [g.rest, hgone, h.rest]
    simp [slotsOf]
  · rw [g.drive]
    by_cases hb : b ∈ l
    · obtain ⟨h1, h2⟩ := headEngaged_congr (hdrive b hb) hburn
      rw [if_pos hb, if_pos (List.mem_cons_of_mem _ hb), hdrive b hb, h1, h2]
    · rw [if_neg hb, h.drive]
      exact if_congr (by simp [hb]) rfl rfl

theorem withdrawFrames_withdrawn (s : State) (i : StreamIx) : Withdrawn s (s.withdrawFrames i) i allDrives := by
  have fold : ∀ (l : List DriveIx) (s : State), l.Nodup →
      Withdrawn s (l.foldl (fun s a => s.withdrawQueue i a) s) i l := by
    intro l
    induction l with
    | nil => exact fun s _ => .refl s i
    | cons a l ih =>
      intro s hn
      obtain ⟨ha, hl⟩ := List.nodup_cons.1 hn
      exact (withdrawQueue_withdrawn s i a).cons ha (ih _ hl)
  exact fold allDrives s (by decide)

/-! ### The end of a session (R16, R17) -/

/-- One drive's binding to the stream is released. -/
theorem unbindOne_eq (s : State) (i : StreamIx) (a : DriveIx) :
    (if (s.drive a).binding.stream = some i then s.modDrive a fun d => { d with binding := .none } else s) =
      s.setDrive a ((s.drive a).unbound i) := by
  unfold DriveRec.unbound
  split
  · rfl
  · exact (setDrive_self s a).symm

/-- The bindings of several drives to the stream are released. -/
theorem setUnbound_eq (i : StreamIx) (l : List DriveIx) (s : State) (hn : l.Nodup) :
    l.foldl (fun s a => s.setDrive a ((s.drive a).unbound i)) s =
        { s with drives := (l.foldl (fun s a => s.setDrive a ((s.drive a).unbound i)) s).drives } ∧
      ∀ a, (l.foldl (fun s a => s.setDrive a ((s.drive a).unbound i)) s).drive a =
        if a ∈ l then (s.drive a).unbound i else s.drive a := by
  induction l generalizing s with
  | nil => exact ⟨rfl, fun _ => rfl⟩
  | cons a l ih =>
    obtain ⟨ha, hl⟩ := List.nodup_cons.1 hn
    obtain ⟨hr, hd⟩ := ih (s.setDrive a ((s.drive a).unbound i)) hl
    refine ⟨hr, fun b => (hd b).trans ?_⟩
    by_cases hb : b = a
    · subst hb
      rw [if_neg ha, if_pos List.mem_cons_self, drive_setDrive_same]
    · rw [drive_setDrive_other s _ (Ne.symm hb)]
      exact if_congr (by simp [hb]) rfl rfl

/-- The release of a stream's bindings changes the bindings alone (R143). -/
theorem unbindDrives_eq (s : State) (i : StreamIx) :
    s.unbindDrives i = { s with drives := (s.unbindDrives i).drives } ∧
      ∀ a, (s.unbindDrives i).drive a = (s.drive a).unbound i := by
  unfold unbindDrives
  simp only [unbindOne_eq]
  obtain ⟨hr, hd⟩ := setUnbound_eq i allDrives s (by decide)
  exact ⟨hr, fun a => (hd a).trans (if_pos (mem_allDrives a))⟩

theorem watch_releaseSuspensions (s : State) (i : StreamIx) (w : Fin 16) :
    (s.releaseSuspensions i).watch w = (s.watch w).map (·.released i) := by
  simp only [watch, releaseSuspensions, Fin.getElem_fin, Vector.getElem_ofFn]
  cases s.monitor.watches[w.val] with
  | none => rfl
  | some b =>
    obtain ⟨⟩ := b
    dsimp only [Option.map_some, Booking.released]
    split <;> rfl

theorem suspensions_eq_zero {s : State} {i : StreamIx} (h : ∀ w b, s.watch w = some b → b.suspension ≠ some i) :
    s.suspensions i = 0 := by
  rw [suspensions, List.length_eq_zero_iff, List.filter_eq_nil_iff]
  intro x hx
  obtain ⟨k, hk, rfl⟩ := List.getElem_of_mem hx
  have hw := h ⟨k, by simpa using hk⟩
  rw [Vector.getElem_toList]
  simp only [watch, Fin.getElem_fin] at hw
  split
  next b hb => simpa using hw b hb
  next => simp

/-- What the end of a stream's session makes of a state. -/
structure Ended (s t : State) (i : StreamIx) : Prop where
  rest : t = { s with
    streams := t.streams, drives := t.drives, monitor := { s.monitor with watches := t.monitor.watches }
    ret := { s.ret with flowSet := if (s.stream i).paused = true then
      (s.ret.flowSet.filter fun f => f.stream != i) ++ [{ stream := i, pause := false }] else s.ret.flowSet } }
  stream : t.stream i = { (s.stream i).ended with paused := false }
  others : ∀ j, j ≠ i → t.stream j = s.stream j
  drive : ∀ a, t.drive a = (s.drive a).unbound i
  watch : ∀ w, t.watch w = (s.watch w).map (·.released i)

theorem Ended.unsuspended {s t : State} {i : StreamIx} (h : Ended s t i) :
    ∀ w b, t.watch w = some b → b.suspension ≠ some i := by
  intro w b hb
  rw [h.watch] at hb
  obtain ⟨c, -, rfl⟩ := Option.map_eq_some_iff.1 hb
  exact c.released_suspension i

theorem Ended.unbound {s t : State} {i : StreamIx} (h : Ended s t i) (a : DriveIx) :
    (t.drive a).binding.stream ≠ some i := by
  rw [h.drive]
  exact (s.drive a).unbound_binding i

theorem endSession_ended (s : State) (i : StreamIx) : Ended s (s.endSession i) i := by
  obtain ⟨hu, hud⟩ := unbindDrives_eq (s.setStream i (s.stream i).ended) i
  have hend : s.endSession i =
      (((s.setStream i (s.stream i).ended).unbindDrives i).releaseSuspensions i).judgeFlow i := rfl
  rw [hend]
  generalize (s.setStream i (s.stream i).ended).unbindDrives i = u at hu hud
  have hw (w : Fin 16) : (u.releaseSuspensions i).watch w = (s.watch w).map (·.released i) := by
    rw [watch_releaseSuspensions, hu]
    rfl
  have hst : (u.releaseSuspensions i).stream i = (s.stream i).ended := by
    have : u.stream i = (s.stream i).ended := by
      rw [hu]
      exact stream_setStream_same s i _
    exact this
  have hzero : (u.releaseSuspensions i).suspensions i = 0 := suspensions_eq_zero fun w b hb => by
    rw [hw] at hb
    obtain ⟨c, -, rfl⟩ := Option.map_eq_some_iff.1 hb
    exact c.released_suspension i
  have hreason : (u.releaseSuspensions i).pauseReason i = false := by
    rw [pauseReason, hst, hzero]
    cases hc : (s.stream i).config <;> simp [StreamRec.ended, StreamRec.occupancyReason, hc, StreamState.paced]
  refine ⟨?_, ?_, fun j hj => ?_, fun a => ?_, fun w => ?_⟩
  · have hflow (x y : List FlowUnit) : (if false = (s.stream i).ended.paused then x else y) =
        if (s.stream i).paused = true then y else x := by cases hp : (s.stream i).paused <;> simp [StreamRec.ended, hp]
    rw [judgeFlow_eq, hreason, hst, hflow]
    rw [hu]
    rfl
  · rw [stream_judgeFlow_same, hst, hreason]
  · rw [stream_judgeFlow_other _ hj, releaseSuspensions, hu]
    exact stream_setStream_other s _ hj.symm
  · rw [judgeFlow_eq]
    exact hud a
  · rw [judgeFlow_eq]
    exact hw w

/-- The answer to an outstanding STOP_STREAM (R16, R17 step 6). -/
theorem answerStop_eq (s : State) (i : StreamIx) (x : Answer) : s.answerStop i x =
    { s.setStream i { s.stream i with stopTag := none } with ret := { s.ret with
        replies := s.ret.replies ++ match (s.stream i).stopTag with
          | some tag => [{ immediate := false, reply := { tag := tag, answer := x } }]
          | none => [] } } := by
  unfold answerStop
  cases h : (s.stream i).stopTag with
  | some tag => rfl
  | none =>
    have : { s.stream i with stopTag := none } = s.stream i := by rw [← h]
    rw [this, setStream_self]
    simp

/-! ### ABORT_STREAM taken (R17) -/

/-- The slots an ABORT_STREAM gives up, in order (log 10): of the cancelled contexts, of the window, of the frames that
leave the queues. -/
def abortedSlots (s : State) (i : StreamIx) : List Slot :=
  (((allContexts.filterMap s.context).filter fun b => b.job.stream == i).flatMap fun b => b.op.holds) ++
    slotsOf (s.stream i).window ++ slotsOf (allDrives.flatMap fun a => (s.drive a).gone i (s.headEngaged a))

theorem abortedSlots_eq (s : State) (i : StreamIx) : s.abortedSlots i =
    (((allContexts.filterMap s.context).filter fun b => b.job.stream == i).flatMap fun b => b.op.holds) ++
      slotsOf (s.stream i).window ++ allDrives.flatMap fun a => slotsOf ((s.drive a).gone i (s.headEngaged a)) := by
  rw [abortedSlots, slotsOf, slotsOf, List.flatMap_assoc]
  rfl

/-- What an ABORT_STREAM makes of a state before an outstanding STOP_STREAM is answered. -/
structure Aborted (s t : State) (i : StreamIx) : Prop where
  rest : t = { s with
    streams := t.streams, drives := t.drives, monitor := { s.monitor with watches := t.monitor.watches }
    store := (s.abortedSlots i).foldl Store.release s.store
    engine := { s.engine with
      contexts := t.engine.contexts
      queue := s.engine.queue.filter fun r => r.stream != i
      parked := s.engine.parked - ((s.stream i).window.map (·.parkedNow)).sum }
    ret := { s.ret with
      asks := t.ret.asks, sending := t.ret.sending
      flowSet := if (s.stream i).paused = true then
        (s.ret.flowSet.filter fun f => f.stream != i) ++ [{ stream := i, pause := false }] else s.ret.flowSet } }
  stream : t.stream i = { (s.stream i).ended with paused := false, window := [] }
  others : ∀ j, j ≠ i → t.stream j = s.stream j
  context : ∀ c, t.context c = (s.context c).filter fun b => !(b.job.stream == i)
  drive : ∀ a, t.drive a = ((s.drive a).unbound i).withdraw i (s.headEngaged a) (s.frameInFlight a)
  unbound : ∀ a, (t.drive a).binding.stream ≠ some i
  unsuspended : ∀ w b, t.watch w = some b → b.suspension ≠ some i
  watch : ∀ w, t.watch w = (s.watch w).map (·.released i)

/-- The contexts and the window of the stream, before its frames leave the burn queues. -/
theorem abandonWork_emptied (s : State) (i : StreamIx) : ∃ c : State,
    Cancelled s c (fun j => j.stream == i) allContexts ∧ (s.abandonWork i).emptyWindow i =
      { c.setStream i { c.stream i with window := [] } with
        store := (slotsOf (c.stream i).window).foldl Store.release c.store
        engine := { c.engine with
          queue := c.engine.queue.filter fun r => r.stream != i
          parked := c.engine.parked - ((s.stream i).window.map (·.parkedNow)).sum } } :=
  ⟨_, cancelWhere_cancelled s _, emptyWindow_eq _ i⟩

theorem abort_aborted (s : State) (i : StreamIx) : Aborted s
    ((((s.abandonWork i).emptyWindow i).withdrawFrames i).endSession i) i := by
  obtain ⟨c, hc, he⟩ := abandonWork_emptied s i
  generalize (s.abandonWork i).emptyWindow i = u at he
  have hw := withdrawFrames_withdrawn u i
  have hend := endSession_ended (u.withdrawFrames i) i
  generalize u.withdrawFrames i = v at hw hend
  generalize v.endSession i = t at hend
  have hcs (j : StreamIx) : c.stream j = s.stream j := by
    rw [hc.rest]
    rfl
  have hcd (a : DriveIx) : c.drive a = s.drive a := by
    rw [hc.rest]
    rfl
  have hud (a : DriveIx) : u.drive a = s.drive a := by
    rw [he]
    exact hcd a
  have hub : u.burn = s.burn := by
    rw [he, hc.rest]
    rfl
  have hus : u.stream i = { s.stream i with window := [] } := by
    rw [he, ← hcs]
    exact stream_setStream_same c i _
  have hvs (j : StreamIx) : v.stream j = u.stream j := by
    rw [hw.rest]
    rfl
  have hvw (w : Fin 16) : v.watch w = s.watch w := by
    rw [hw.rest, he, hc.rest]
    rfl
  have hengaged (a : DriveIx) := headEngaged_congr (hud a) hub
  have hgone : (allDrives.flatMap fun a => (u.drive a).gone i (u.headEngaged a)) =
      allDrives.flatMap fun a => (s.drive a).gone i (s.headEngaged a) :=
    List.flatMap_congr fun a _ => by rw [hud, (hengaged a).1]
  have hv : v = { s with
      streams := v.streams, drives := v.drives
      store := (s.abortedSlots i).foldl Store.release s.store
      engine := { s.engine with
        contexts := v.engine.contexts
        queue := s.engine.queue.filter fun r => r.stream != i
        parked := s.engine.parked - ((s.stream i).window.map (·.parkedNow)).sum }
      ret := { s.ret with asks := v.ret.asks, sending := v.ret.sending } } := by
    rw [hw.rest, hgone, he, hcs, hc.rest, abortedSlots, List.foldl_append, List.foldl_append]
    rfl
  refine ⟨?_, ?_, fun j hj => ?_, fun k => ?_, fun a => ?_, hend.unbound, hend.unsuspended, fun w => ?_⟩
  · have hpaused : (v.stream i).paused = (s.stream i).paused := by rw [hvs, hus]
    rw [hend.rest, hpaused]
    rw [hv]
  · rw [hend.stream, hvs, hus]
    rfl
  · rw [hend.others j hj, hvs, he]
    exact (stream_setStream_other c _ hj.symm).trans (hcs j)
  · have : t.context k = c.context k := by
      rw [hend.rest, hw.rest, he]
      rfl
    rw [this, hc.context_all]
  · rw [hend.drive, hw.drive, if_pos (mem_allDrives a), hud, (hengaged a).1, (hengaged a).2, DriveRec.unbound_withdraw]
  · rw [hend.watch, hvw]

end State
end Sys2Proof.Machine

namespace Sys2Proof.Streams

open Machine Machine.State

theorem frameInFlight_iff {s : State} {a : DriveIx} :
    s.frameInFlight a = true ↔ ∃ e, s.burn.exchange = some e ∧ e.drive = a ∧ e.purpose = .frame := by
  unfold frameInFlight
  cases s.burn.exchange <;> simp

/-- When a head frame is engaged (R17 step 4, R133). -/
theorem headEngaged_iff (s : State) (a : DriveIx) : s.headEngaged a = true ↔
    (s.drive a).abandonOwed = true ∨ (s.drive a).transfer ≠ .waitingSpace ∨
      ∃ e, s.burn.exchange = some e ∧ e.drive = a ∧ e.purpose = .frame := by
  rw [headEngaged, Bool.or_eq_true, ← frameInFlight_iff]
  cases (s.drive a).transfer <;> simp

/-- What becomes of a queue the frames of a stream leave (R17, R133). -/
theorem withdraw_cases (s : State) (i : StreamIx) (a : DriveIx) (d x : DriveRec)
    (hx : x = d.withdraw i (s.headEngaged a) (s.frameInFlight a)) :
    (d.queue = [] → x = d) ∧
    (∀ f rest, d.queue = f :: rest → f.stream ≠ i ∨ s.headEngaged a = false →
      x = { d with
        queue := d.queue.filter fun g => g.stream != i
        committed := ((d.queue.filter fun g => g.stream != i).map (·.need)).sum }) ∧
    (∀ f rest, d.queue = f :: rest → f.stream = i → s.headEngaged a = true →
      ((∃ e, s.burn.exchange = some e ∧ e.drive = a ∧ e.purpose = .frame) → x = { d with
        queue := f :: rest.filter fun g => g.stream != i
        committed := ((f :: rest.filter fun g => g.stream != i).map (·.need)).sum, withdrawn := true }) ∧
      ((∀ e, s.burn.exchange = some e → e.drive = a → e.purpose ≠ .frame) → x = { d with
        queue := f :: rest.filter fun g => g.stream != i
        committed := ((f :: rest.filter fun g => g.stream != i).map (·.need)).sum
        abandonOwed := true, withdrawn := false })) := by
  subst hx
  refine ⟨DriveRec.withdraw_nil, fun f rest hq hf => ?_, fun f rest hq hf he => ⟨fun hx => ?_, fun hx => ?_⟩⟩
  · rw [DriveRec.withdraw_free hq fun h => hf.elim (· h.1) fun hn => by simp [hn] at h, hq]
    rfl
  · rw [DriveRec.withdraw_engaged hq ⟨hf, he⟩, if_pos (frameInFlight_iff.2 hx)]
    rfl
  · have hn : ¬ s.frameInFlight a = true := fun h =>
      let ⟨e, h1, h2, h3⟩ := frameInFlight_iff.1 h
      hx e h1 h2 h3
    rw [DriveRec.withdraw_engaged hq ⟨hf, he⟩, if_neg hn]
    rfl

/-- Settles O37: `abort_aborted` for steps 1 to 5 of R17, and `answerStop_eq` for step 6. -/
theorem abortStreamEndsTheSession : Obligations.AbortStreamEndsTheSession := by
  have hrow (tag : Word16) (id : Byte) (s : State) (ht : s.TakesCommands) :
      exec (.abortStream tag id) s = .next (ownAbortStream tag id s).kick := exec_commandRow tag (.abortStream id) ht rfl
  refine ⟨fun tag id s ht hi => by rw [hrow tag id s ht, ownAbortStream, hi], fun tag id i s ht hi => ⟨fun hs => ?_,
    fun hs => by rw [hrow tag id s ht, ownAbortStream, hi]; simp [hs]⟩⟩
  have hexec : exec (.abortStream tag id) s = .next ((s.abort i).done tag .empty).takeWork.kick := by
    rw [hrow tag id s ht, ownAbortStream, hi]
    simp [hs]
  have h := abort_aborted s i
  rw [abort] at hexec
  generalize (((s.abandonWork i).emptyWindow i).withdrawFrames i).endSession i = u at h hexec
  have hstop : (u.stream i).stopTag = (s.stream i).stopTag := by
    rw [h.stream]
    rfl
  have hta := answerStop_eq u i (.refused .aborted)
  rw [hstop] at hta
  generalize u.answerStop i (.refused .aborted) = t at hta hexec
  have hst : t.stream i = { (s.stream i).ended with paused := false, window := [], stopTag := none } := by
    rw [hta]
    refine (stream_setStream_same u i _).trans ?_
    rw [h.stream]
  have hother (j : StreamIx) (hj : j ≠ i) : t.stream j = s.stream j := by
    rw [hta]
    exact (stream_setStream_other u _ hj.symm).trans (h.others j hj)
  have hdrive (a : DriveIx) : t.drive a = u.drive a := by
    rw [hta]
    rfl
  have hcontext (c : Fin 4) : t.context c = (s.context c).filter fun b => !(b.job.stream == i) := by
    rw [hta]
    exact h.context c
  have hwatch (w : Fin 16) : t.watch w = u.watch w := by
    rw [hta]
    rfl
  have heng : t.engine = u.engine := by rw [hta]; rfl
  have hret : t.ret.flowSet = u.ret.flowSet := by rw [hta]
  refine ⟨t, hexec, ?_⟩
  rw [hst, hret, heng]
  refine ⟨rfl, rfl, rfl, rfl, rfl, ?_, rfl, rfl, rfl, rfl, rfl, rfl, rfl, fun c b hb => ?_, fun c b hb hn => ?_,
    fun r hr => ?_, ?_, ?_, fun a => ?_, headEngaged_iff s, fun a d hd => ?_, ?_, fun w b hb => ?_, fun w b hb => ?_,
    ?_, hother, ?_, ?_, ?_⟩
  · rw [h.rest]
  · rw [hcontext] at hb
    simpa using (Option.filter_eq_some_iff.1 hb).2
  · rw [hcontext, hb, Option.filter_some, if_pos (by simpa using hn)]
  · rw [h.rest] at hr
    simpa using (List.mem_filter.1 hr).2
  · rw [h.rest]
  · rw [h.rest]
    rfl
  · rw [hdrive]
    exact h.unbound a
  · subst hd
    exact withdraw_cases s i a _ _ ((hdrive a).trans (h.drive a))
  · have hslots := congrArg (List.foldl Store.release s.store) (abortedSlots_eq s i)
    rw [hta, h.rest]
    exact hslots
  · rw [hwatch] at hb
    exact h.unsuspended w b hb
  · rw [hwatch, h.watch, hb]
    rfl
  · rw [hta, h.rest] <;> rfl
  · rw [hta, h.rest]
    rfl
  · rw [hta, h.rest]
    rfl
  · rw [hta, h.rest]
    rfl

end Sys2Proof.Streams

/-! PROOFS. Forcing: the give-up of a frame (R84, R86), and the settlement of its unresolved stripes (R40, R102, R103). -/

namespace Sys2Proof.Machine

/-- A stripe once its frame is given up: every one still to be resolved is DAMAGED (R86, R102). -/
def StripeRec.unforced (x : StripeRec) : StripeRec := if x.toForce = true then { x with state := .damaged } else x

/-- A forced stripe with its donor, or MARKED without one (R102). -/
def StripeRec.settled (x : StripeRec) : Option Donor → StripeRec
  | some d => { x with
      state := .repaired, slot := some d.slot, method := some .fallback, donors := [d.number]
      generation := some d.generation }
  | none => { x with state := .marked, method := some .mark, donors := [], generation := none }

/-- The claims of a forced stripe on the store (R102): +1 on its donor's slot, then −1 on its own. -/
def Store.lend (w : Store) (slot : Option Slot) : Option Donor → Store
  | some d =>
    match slot with
    | some y => (w.claim d.slot).release y
    | none => w.claim d.slot
  | none => w

/-- The counter a forced stripe raises (R102). -/
def settledCounter : Option Donor → Counter
  | some _ => .repairedFallback
  | none => .marked

theorem StripeRec.unforced_state (x : StripeRec) : (x.unforced.state == .damaged) = x.toForce := by
  unfold unforced
  split
  next h => simp [h]
  next h =>
    simp only [toForce, Bool.or_eq_true, not_or, Bool.not_eq_true] at h
    simp [toForce, h.1.1, h.1.2, h.2]

theorem StripeRec.unforced_slot (x : StripeRec) : x.unforced.slot = x.slot := by
  unfold unforced
  split <;> rfl

theorem StripeRec.unforced_settled (x : StripeRec) (d : Option Donor) (h : x.toForce = true) :
    x.unforced.settled d = x.settled d := by
  rw [unforced, if_pos h]
  cases d <;> rfl

/-- What the give-up does to one stripe. -/
theorem StripeRec.unforced_eq (x : StripeRec) :
    (if (x.state == .repairing || x.state == .parked) = true then { x with state := .damaged } else x) = x.unforced := by
  obtain ⟨state⟩ := x
  cases state <;> rfl

namespace State

/-! ### The head of a window -/

theorem bump_setStream (s : State) (i : StreamIx) (r : StreamRec) (c : Counter) : (s.setStream i r).bump i c =
    s.setStream i { r with counters := r.counters.set c.ix (r.counters[c.ix] + 1) } := by
  rw [bump, bumpBy, modStream, stream_setStream_same, setStream_setStream]

section
variable {s : State} {i : StreamIx} {f : FrameRec} {rest : List FrameRec}
  (hw : (s.stream i).window = f :: rest)
include hw

theorem frame_head : s.frame i f.number = some f := by simp [frame, hw]

theorem modFrame_head (hr : ∀ q ∈ rest, q.number ≠ f.number) (g : FrameRec → FrameRec) :
    s.modFrame i f.number g = s.setStream i { s.stream i with window := g f :: rest } := by
  have h := map_number_ne g hr
  rw [modFrame, modStream, hw, List.map_cons, h, if_pos (beq_self_eq_true _)]

theorem resolveStripe_head (hr : ∀ q ∈ rest, q.number ≠ f.number) {k : Nat} {st : StripeRec}
    (hs : f.stripes[k]? = some st) (g : StripeRec → StripeRec) :
    s.resolveStripe { stream := i, number := f.number, stripe := k } g =
      s.setStream i { s.stream i with window := f.withResolved k (g st) :: rest } := by
  rw [resolveStripe, modFrame_head hw hr]
  simp [FrameRec.modStripe, FrameRec.resolveOne, FrameRec.withResolved, modify_eq_set g hs]

/-- One forced stripe of the window's head (R102). -/
theorem forceStripe_head (hr : ∀ q ∈ rest, q.number ≠ f.number) {k : Nat} {st : StripeRec}
    (hs : f.stripes[k]? = some st) (cfg : StreamConfig) {d : Option Donor}
    (hd : s.forcedDonor i cfg f.number k = d) :
    s.forceStripe cfg { stream := i, number := f.number, stripe := k } =
      { s.setStream i { s.stream i with
          window := f.withResolved k (st.settled d) :: rest
          counters := (s.stream i).counters.set (settledCounter d).ix
            ((s.stream i).counters[(settledCounter d).ix] + 1) } with
        store := s.store.lend st.slot d } := by
  have hmark : s.markStripe { stream := i, number := f.number, stripe := k } .mark =
      s.setStream i { s.stream i with
        window := f.withResolved k (st.settled none) :: rest
        counters := (s.stream i).counters.set Counter.marked.ix ((s.stream i).counters[Counter.marked.ix] + 1) } := by
    rw [markStripe, resolveStripe_head hw hr hs, bump_setStream]
    rfl
  unfold forceStripe
  unfold forcedDonor at hd
  cases hc : cfg.fallback with
  | mark =>
    obtain rfl : none = d := by simpa [hc] using hd
    exact hmark
  | reference =>
    rw [if_pos hc] at hd
    dsimp only
    rw [hd]
    cases d with
    | none => exact hmark
    | some d =>
      have hold : (s.claim d.slot).releaseOld { stream := i, number := f.number, stripe := k } =
          { s with store := s.store.lend st.slot (some d) } :=
        releaseOld_eq (s := s.claim d.slot) (st := st) (stripe_eq (f := f) (frame_head hw) hs)
      dsimp only [forceAdopt]
      rw [hold]
      rw [resolveStripe_head (s := { s with store := s.store.lend st.slot (some d) }) hw hr hs]
      exact bump_setStream { s with store := s.store.lend st.slot (some d) } i _ _

end

/-! ### The unresolved stripes in ascending index (R102) -/

/-- The donor of a stripe of a forced frame, if it is one to be settled. -/
def forceDonor (s : State) (i : StreamIx) (cfg : StreamConfig) (n : Word32) (p : StripeRec × Nat) : Option Donor :=
  if p.1.toForce = true then s.forcedDonor i cfg n p.2 else none

/-- The stripes of a forced frame. -/
def forcedStripes (s : State) (i : StreamIx) (cfg : StreamConfig) (n : Word32) (l : List (StripeRec × Nat)) :
    List StripeRec :=
  l.map fun p => if p.1.toForce = true then p.1.settled (s.forcedDonor i cfg n p.2) else p.1

/-- How many of the stripes to be settled find a donor (`found`), or find none. -/
def forcedCount (s : State) (i : StreamIx) (cfg : StreamConfig) (n : Word32) (found : Bool) (l : List (StripeRec × Nat)) :
    Nat :=
  (l.filter fun p => p.1.toForce && ((s.forcedDonor i cfg n p.2).isSome == found)).length

theorem forcedDonor_congr {s t : State} (h : t.dir = s.dir) : t.forcedDonor = s.forcedDonor := by
  funext i cfg n k
  rw [forcedDonor, h, forcedDonor]

theorem forcedCount_cons (s : State) (i : StreamIx) (cfg : StreamConfig) (n : Word32) (b : Bool) (p : StripeRec × Nat)
    (l : List (StripeRec × Nat)) : s.forcedCount i cfg n b (p :: l) = s.forcedCount i cfg n b l +
      if p.1.toForce = true ∧ (s.forcedDonor i cfg n p.2).isSome = b then 1 else 0 := by
  unfold forcedCount
  rw [List.filter_cons]
  split
  next h =>
    rw [if_pos (by simpa using h)]
    rfl
  next h =>
    rw [if_neg (by simpa using h)]
    rfl

/-- What the settlement of the stripes `l` of frame `f` at the window's head makes of a state, `stripes` being those of the
frame afterwards. -/
structure Settled (s t : State) (i : StreamIx) (cfg : StreamConfig) (f : FrameRec) (tail : List FrameRec)
    (stripes : List StripeRec) (l : List (StripeRec × Nat)) : Prop where
  rest : t = { s with
    streams := t.streams
    store := l.foldl (fun w p => w.lend p.1.slot (s.forceDonor i cfg f.number p)) s.store }
  others : ∀ j, j ≠ i → t.stream j = s.stream j
  stream : ∃ g : FrameRec, g = { f with stripes := stripes, unresolved := g.unresolved, state := g.state } ∧
    t.stream i = { s.stream i with window := g :: tail, counters := (t.stream i).counters }
  counters : ∀ c : Counter, (t.stream i).counters[c.ix] = (s.stream i).counters[c.ix] +
    ((if c = .repairedFallback then BitVec.ofNat 32 (s.forcedCount i cfg f.number true l) else 0) +
      if c = .marked then BitVec.ofNat 32 (s.forcedCount i cfg f.number false l) else 0)

/-- One stripe's turn, DAMAGED or not. -/
def forceIfDamaged (cfg : StreamConfig) (i : StreamIx) (n : Word32) (s : State) (p : StripeRec × Nat) : State :=
  if (p.1.state == .damaged) = true then s.forceStripe cfg { stream := i, number := n, stripe := p.2 } else s

section
variable {s t : State} {i : StreamIx} {cfg : StreamConfig} {f g : FrameRec} {tail : List FrameRec}
  {stripes : List StripeRec} {x : StripeRec} {k : Nat} {l : List (StripeRec × Nat)}

/-- A stripe that is resolved is passed over. -/
theorem Settled.skip (hx : ¬ x.toForce = true) (h : Settled s t i cfg f tail stripes l) :
    Settled s t i cfg f tail stripes ((x, k) :: l) := by
  have hd : s.forceDonor i cfg f.number (x, k) = none := if_neg hx
  have hc (b : Bool) : s.forcedCount i cfg f.number b ((x, k) :: l) = s.forcedCount i cfg f.number b l := by
    rw [forcedCount_cons, if_neg fun e => hx e.1, Nat.add_zero]
  refine ⟨?_, h.others, h.stream, fun c => by rw [hc, hc, h.counters]⟩
  rw [List.foldl_cons, hd]
  exact h.rest

/-- A stripe is settled, and then the others. -/
theorem Settled.force (hx : x.toForce = true) {d : Option Donor} (hd : s.forcedDonor i cfg f.number k = d)
    {y : StripeRec} (hg : g = f.withResolved k y) {u : State} (hu : u = { s.setStream i { s.stream i with
        window := g :: tail
        counters := (s.stream i).counters.set (settledCounter d).ix
          ((s.stream i).counters[(settledCounter d).ix] + 1) } with
      store := s.store.lend x.slot d })
    (h : Settled u t i cfg g tail stripes l) : Settled s t i cfg f tail stripes ((x, k) :: l) := by
  have hdon : u.forcedDonor = s.forcedDonor := forcedDonor_congr (by rw [hu]; rfl)
  have hn : g.number = f.number := by rw [hg]; rfl
  have hui : u.stream i = { s.stream i with
      window := g :: tail
      counters := (s.stream i).counters.set (settledCounter d).ix
        ((s.stream i).counters[(settledCounter d).ix] + 1) } := by
    rw [hu]
    exact stream_setStream_same s i _
  have hfd : u.forceDonor i cfg g.number = s.forceDonor i cfg f.number := by
    funext p
    rw [forceDonor, hdon, hn, forceDonor]
  have hcount (b : Bool) : u.forcedCount i cfg g.number b l = s.forcedCount i cfg f.number b l := by
    rw [forcedCount, hdon, hn, forcedCount]
  refine ⟨?_, fun j hj => ?_, ?_, fun c => ?_⟩
  · have hx : s.forceDonor i cfg f.number (x, k) = d := (if_pos hx).trans hd
    rw [h.rest, hfd, List.foldl_cons, hx, hu]
    rfl
  · rw [h.others j hj, hu]
    exact stream_setStream_other s _ hj.symm
  · obtain ⟨e, he, hs⟩ := h.stream
    refine ⟨e, ?_, ?_⟩
    · rw [he, hg]
      rfl
    · rw [hs, hui]
  · rw [h.counters, hui, counter_set, hcount, hcount, forcedCount_cons, forcedCount_cons, hd]
    cases d with
    | some d =>
      by_cases hc : c = .repairedFallback
      · subst hc
        simp only [settledCounter, hx, Option.isSome_some, true_and, if_true, reduceCtorEq, if_false, BitVec.ofNat_add]
        bv_omega
      · simp [settledCounter, hc]
    | none =>
      by_cases hc : c = .marked
      · subst hc
        simp only [settledCounter, hx, Option.isSome_none, true_and, if_true, reduceCtorEq, if_false, BitVec.ofNat_add]
        bv_omega
      · simp [settledCounter, hc]

end

theorem settle_stripes {i : StreamIx} {cfg : StreamConfig} {tail : List FrameRec} {n : Word32}
    (hr : ∀ q ∈ tail, q.number ≠ n) : ∀ (todo done : List StripeRec) (s : State) (f : FrameRec),
    (s.stream i).window = f :: tail → f.number = n → f.stripes = done ++ todo.map StripeRec.unforced →
    Settled s (((todo.map StripeRec.unforced).zipIdx done.length).foldl (forceIfDamaged cfg i n) s) i cfg f tail
      (done ++ s.forcedStripes i cfg n (todo.zipIdx done.length)) (todo.zipIdx done.length)
  | [], done, s, f, hw, hn, hs => by
    refine ⟨rfl, fun _ _ => rfl, ⟨f, ?_, ?_⟩, fun c => ?_⟩
    · obtain ⟨⟩ := f
      simpa [forcedStripes] using hs
    · rw [← hw]
      rfl
    · simp [forcedCount]
  | x :: todo, done, s, f, hw, hn, hs => by
    subst hn
    have hk : f.stripes[done.length]? = some x.unforced := by simp [hs]
    simp only [List.map_cons, List.zipIdx_cons, List.foldl_cons]
    by_cases hx : x.toForce = true
    · have hone : forceIfDamaged cfg i f.number s (x.unforced, done.length) = _ :=
        (if_pos (by rw [x.unforced_state]; exact hx)).trans (forceStripe_head hw hr hk cfg rfl)
      rw [x.unforced_slot, x.unforced_settled _ hx] at hone
      generalize forceIfDamaged cfg i f.number s (x.unforced, done.length) = u at hone
      have hdon : u.forcedDonor = s.forcedDonor := forcedDonor_congr (by rw [hone]; rfl)
      have huw : (u.stream i).window =
          f.withResolved done.length (x.settled (s.forcedDonor i cfg f.number done.length)) :: tail := by
        rw [hone]
        exact congrArg StreamRec.window (stream_setStream_same s i _)
      have h := settle_stripes (cfg := cfg) hr todo
        (done ++ [x.settled (s.forcedDonor i cfg f.number done.length)]) u _ huw rfl
        (by simp [FrameRec.withResolved, hs])
      refine Settled.force hx rfl rfl hone ?_
      have hstripes : u.forcedStripes i cfg f.number = s.forcedStripes i cfg f.number := by
        funext l
        rw [forcedStripes, hdon, forcedStripes]
      rw [hstripes] at h
      simpa [forcedStripes, hx] using h
    · have hsame : x.unforced = x := if_neg hx
      have hone : forceIfDamaged cfg i f.number s (x.unforced, done.length) = s :=
        if_neg (by rw [x.unforced_state]; exact hx)
      have h := settle_stripes (cfg := cfg) hr todo (done ++ [x]) s f hw rfl (by simp [hs, hsame])
      rw [hone]
      refine Settled.skip hx ?_
      simpa [forcedStripes, hx] using h

/-! ### The give-up of a frame (R84, R86) -/

theorem storeGivenUp_eq (s : State) (i : StreamIx) (n : Word32) : s.storeGivenUp i n =
    (((allContexts.filterMap s.context).filter fun b => b.job.stream == i && b.job.number == n).flatMap
      fun b => b.op.holds).foldl Store.release s.store := by
  unfold storeGivenUp
  generalize s.store = w
  induction allContexts generalizing w with
  | nil => rfl
  | cons c cs ih =>
    rw [List.foldl_cons, ih]
    cases hc : s.context c with
    | none => rw [List.filterMap_cons_none hc]
    | some b =>
      by_cases hb : b.job.stream = i ∧ b.job.number = n
      · simp [hc, hb, Operation.holds]
      · rw [List.filterMap_cons_some hc, List.filter_cons_of_neg (by simpa using hb)]
        dsimp only
        rw [if_neg hb]

/-- What the give-up of the frame `f` at the window's head makes of a state. -/
structure GivenUp (s t : State) (i : StreamIx) (f : FrameRec) (tail : List FrameRec) : Prop where
  rest : t = { s with
    streams := t.streams, store := s.storeGivenUp i f.number
    engine := { s.engine with
      contexts := t.engine.contexts, parked := t.engine.parked
      queue := s.engine.queue.filter fun r => !r.names i f.number }
    ret := { s.ret with asks := t.ret.asks, sending := t.ret.sending } }
  others : ∀ j, j ≠ i → t.stream j = s.stream j
  stream : t.stream i = { s.stream i with
    window := { f with stripes := f.stripes.map StripeRec.unforced } :: tail }
  context : ∀ c, t.context c = (s.context c).filter fun b => !(b.job.stream == i && b.job.number == f.number)

theorem giveUp_head {s : State} {i : StreamIx} {f : FrameRec} {tail : List FrameRec}
    (hw : (s.stream i).window = f :: tail) (hr : ∀ q ∈ tail, q.number ≠ f.number) :
    GivenUp s (s.giveUp i f.number) i f tail := by
  have hc := cancelWhere_cancelled s fun j => j.stream == i && j.number == f.number
  unfold giveUp
  generalize s.cancelWhere (fun j => j.stream == i && j.number == f.number) = u at hc ⊢
  have hus (j : StreamIx) : u.stream j = s.stream j := by
    rw [hc.rest]
    rfl
  dsimp only
  rw [modFrame_head (by rw [hus, hw]) hr]
  refine ⟨?_, fun j hj => ?_, ?_, fun c => hc.context_all c⟩
  · rw [storeGivenUp_eq]
    rw [hc.rest]
    rfl
  · exact (stream_setStream_other u _ hj.symm).trans (hus j)
  · refine (stream_setStream_same u i _).trans ?_
    rw [hus]
    simp only [StripeRec.unforced_eq]

/-! ### An occurrence on a stream's record -/

theorem stream_occur (s : State) (c : WatchCondition) (n : Nat) (d : Word32) (j : StreamIx) :
    (s.occur c n d).stream j = { s.stream j with
      paused := ((s.occur c n d).stream j).paused
      cadence := { (s.stream j).cadence with running := ((s.occur c n d).stream j).cadence.running } } := by
  have e := (Signals.occur s c n d).stream j
  rw [state_occur] at e
  exact e

theorem Occurred.of_occur {s u t : State} {k : WatchCondition} {n : Nat} {d : Word32} (h : t = u.occur k n d)
    (hm : u.monitor = s.monitor) (ho : u.ret.outbox = s.ret.outbox) : s.Occurred t k n d :=
  ⟨u, hm, ho, by rw [h], by rw [h]⟩

/-! ### A frame is forced (R102, R103) -/

/-- What the forcing of the CLOSED frame `f` at the window's head makes of a state. -/
structure ForcedHead (s t : State) (i : StreamIx) (cfg : StreamConfig) (f : FrameRec) (tail : List FrameRec) : Prop where
  rest : t = { s with
    streams := t.streams, store := s.storeForced i cfg f, monitor := t.monitor
    engine := { s.engine with
      contexts := t.engine.contexts, parked := t.engine.parked
      queue := s.engine.queue.filter fun r => !r.names i f.number }
    ret := { s.ret with
      asks := t.ret.asks, sending := t.ret.sending, flowSet := t.ret.flowSet, outbox := t.ret.outbox } }
  others : ∀ j, j ≠ i → t.stream j = { s.stream j with
    paused := (t.stream j).paused
    cadence := { (s.stream j).cadence with running := (t.stream j).cadence.running } }
  stream : ∃ g : FrameRec,
    g = { f with
      stripes := s.forcedStripes i cfg f.number f.stripes.zipIdx, unresolved := g.unresolved, state := g.state } ∧
    t.stream i = { s.stream i with
      window := g :: tail, counters := (t.stream i).counters, paused := (t.stream i).paused
      cadence := { (s.stream i).cadence with running := (t.stream i).cadence.running } }
  counters : ∀ c : Counter, (t.stream i).counters[c.ix] = (s.stream i).counters[c.ix] +
    ((if c = .repairedFallback then BitVec.ofNat 32 (s.forcedCount i cfg f.number true f.stripes.zipIdx) else 0) +
      if c = .marked then BitVec.ofNat 32 (s.forcedCount i cfg f.number false f.stripes.zipIdx) else 0) +
    if c = .forcedFrames then 1 else 0
  context : ∀ c, t.context c = (s.context c).filter fun b => !(b.job.stream == i && b.job.number == f.number)
  occurred : s.Occurred t .forced (streamId i) f.number
  flow : FlowRises s t i

/-- The stripes of a frame given up that are to be settled, in ascending index. -/
theorem unresolvedStripes_head {s : State} {i : StreamIx} {f : FrameRec} {tail : List FrameRec}
    (hw : (s.stream i).window = f :: tail) (cfg : StreamConfig) (u : State) :
    (s.unresolvedStripes i f.number).foldl
        (fun s k => s.forceStripe cfg { stream := i, number := f.number, stripe := k }) u =
      f.stripes.zipIdx.foldl (forceIfDamaged cfg i f.number) u := by
  rw [unresolvedStripes, frame_head hw]
  dsimp only
  rw [List.foldl_map, List.foldl_filter]
  rfl

theorem forceFrame_head {s : State} {i : StreamIx} {f : FrameRec} {tail : List FrameRec} (cfg : StreamConfig)
    (hw : (s.stream i).window = f :: tail) (hr : ∀ q ∈ tail, q.number ≠ f.number) :
    ForcedHead s (s.forceFrame i cfg f.number) i cfg f tail := by
  have hg := giveUp_head hw hr
  unfold forceFrame
  generalize s.giveUp i f.number = u at hg ⊢
  dsimp only
  have huw : (u.stream i).window = { f with stripes := f.stripes.map StripeRec.unforced } :: tail := by rw [hg.stream]
  have hdon : u.forcedDonor = s.forcedDonor := forcedDonor_congr (by rw [hg.rest])
  have hset := settle_stripes (cfg := cfg) hr f.stripes [] u _ huw rfl rfl
  have hfold := unresolvedStripes_head huw cfg u
  dsimp only at hfold
  rw [hfold]
  rw [List.length_nil, List.nil_append] at hset
  generalize (f.stripes.map StripeRec.unforced).zipIdx.foldl (forceIfDamaged cfg i f.number) u = v at hset ⊢
  have hstripes : u.forcedStripes = s.forcedStripes := by
    funext i cfg n l
    rw [forcedStripes, hdon, forcedStripes]
  have hcount : u.forcedCount = s.forcedCount := by
    funext i cfg n b l
    rw [forcedCount, hdon, forcedCount]
  have hdonor : u.forceDonor = s.forceDonor := by
    funext i cfg n p
    rw [forceDonor, hdon, forceDonor]
  have hcounters := hset.counters
  have hrest := hset.rest
  rw [hcount] at hcounters
  rw [hdonor] at hrest
  obtain ⟨g, hgf, hvi⟩ := hset.stream
  rw [hstripes] at hgf
  rw [hg.stream] at hvi hcounters
  have hbump := stream_bumpBy_same v i .forcedFrames 1
  have hw' : v.bump i .forcedFrames = { s with
      streams := (v.bump i .forcedFrames).streams, store := s.storeForced i cfg f
      engine := { s.engine with
        contexts := u.engine.contexts, parked := u.engine.parked
        queue := s.engine.queue.filter fun r => !r.names i f.number }
      ret := { s.ret with asks := u.ret.asks, sending := u.ret.sending } } := by
    have hb : v.bump i .forcedFrames = { v with streams := (v.bump i .forcedFrames).streams } := rfl
    rw [hb, hrest, hg.rest]
    rfl
  have hwi : (v.bump i .forcedFrames).stream i = { s.stream i with
      window := g :: tail, counters := ((v.bump i .forcedFrames).stream i).counters } := by
    refine (stream_bumpBy_same v i .forcedFrames 1).trans ?_
    rw [hvi]
    rfl
  have hwj (j : StreamIx) (hj : j ≠ i) : (v.bump i .forcedFrames).stream j = s.stream j :=
    (stream_bumpBy_other v .forcedFrames 1 hj).trans ((hset.others j hj).trans (hg.others j hj))
  have hwc (c : Counter) := counter_bumpBy v i .forcedFrames c 1
  have hS := Signals.occur (v.bump i .forcedFrames) .forced (streamId i) f.number
  have hocc := stream_occur (v.bump i .forcedFrames) .forced (streamId i) f.number
  have hflow := occur_rises (v.bump i .forcedFrames) .forced (streamId i) f.number i (.inr rfl)
  have hoccurred := Occurred.of_occur (s := s) (t := (v.bump i .forcedFrames).occur .forced (streamId i) f.number)
    (u := v.bump i .forcedFrames) rfl (by rw [hw']) (by rw [hw'])
  have hwc' (c : Counter) : ((v.bump i .forcedFrames).stream i).counters[c.ix] = _ := hwc c
  generalize (v.bump i .forcedFrames).occur .forced (streamId i) f.number = t at *
  generalize v.bump i .forcedFrames = w at *
  have hrises : FlowRises s w i := by
    refine FlowRises.of_same i (fun j => ?_) (by rw [hw']) (by rw [suspensions, hw', suspensions]) fun j => ?_
    · by_cases e : j = i
      · rw [e, hwi]
      · rw [hwj j e]
    · by_cases e : j = i
      · subst e
        exact occupancyReason_of_length (by rw [hwi]) (by rw [hwi]) (by rw [hwi, hw]; rfl)
      · rw [hwj j e]
  refine ⟨?_, fun j hj => ?_, ⟨g, hgf, ?_⟩, fun c => ?_, fun c => ?_, hoccurred, hrises.trans hflow⟩
  · rw [hS.rest, hw']
  · rw [hocc, hwj j hj]
  · rw [hocc, hwi]
  · rw [hS.counters, hwc', hcounters]
  · rw [hS.context]
    exact (congrArg (fun x : State => x.context c) hw').trans (hg.context c)

end State
end Sys2Proof.Machine

/-! PROOFS. The hand-off of a window's head to a drive (R43, R101, R104), and the insertion's dependence on the directory and
the store alone. -/

namespace Sys2Proof.Machine

namespace State

/-! ### Insertion rests on the directory and the store (R43 to R45) -/

theorem insertStripe_eq {s t : State} (hd : t.dir = s.dir) (hs : t.store = s.store) (i : StreamIx) (k : Nat)
    (n : Word32) (g : Nat) (x : Slot) : t.insertStripe i k n g x =
      { t with dir := (s.insertStripe i k n g x).dir, store := (s.insertStripe i k n g x).store } := by
  have hn : t.newEntry i k n g x = s.newEntry i k n g x := by rw [newEntry, hd, newEntry]
  have ha : t.advanceOrdinal = { t with dir := s.advanceOrdinal.dir, store := s.advanceOrdinal.store } := by
    rw [advanceOrdinal, hd]
    exact congrArg (fun w => ({ t with dir := { s.dir with nextOrdinal := s.dir.nextOrdinal + 1 }, store := w } : State)) hs
  unfold insertStripe
  rw [hd, hn, ha]
  dsimp only
  split
  · rfl
  · split <;> rfl
  · split <;> rfl
  · split
    · rfl
    · split
      · rfl
      · split <;> rfl

theorem insertFrame_eq {s t : State} (hd : t.dir = s.dir) (hs : t.store = s.store) (i : StreamIx) (n : Word32)
    (limit : Nat) (stripes : List StripeRec) : t.insertFrame i n limit stripes =
      { t with dir := (s.insertFrame i n limit stripes).dir, store := (s.insertFrame i n limit stripes).store } := by
  unfold insertFrame
  generalize stripes.zipIdx = l
  induction l generalizing s t with
  | nil => rw [List.foldl_nil, List.foldl_nil, ← hd, ← hs]
  | cons p l ih =>
    rw [List.foldl_cons, List.foldl_cons]
    split
    next g x _ =>
      have h := insertStripe_eq hd hs i p.2 n g x
      rw [ih (s := s.insertStripe i p.2 n g x) (by rw [h]) (by rw [h])]
      rw [h]
    next => exact ih hd hs

end State

/-- A drive with a frame more at the tail of its queue (R104, R120). -/
def DriveRec.appended (d : DriveRec) (g : FrameRec) : DriveRec :=
  { d with
    queue := d.queue ++ [g], committed := d.committed + g.need
    transfer := if d.queue = [] then .waitingSpace else d.transfer
    carry := if d.queue = [] then [] else d.carry }

/-- The entries of a note are those of the stripes that were damaged or are not SOUND (R107). -/
theorem FrameRec.queued_note (f : FrameRec) (kind : FrameKind) (seq : Word32) :
    (f.queued kind seq).note = some ((f.queued kind seq).noteOf kind seq) := by
  have h : noteEntries f.stripes = f.stripes.zipIdx.filterMap fun p =>
      if p.1.cause ≠ none ∨ p.1.state ≠ .sound then
        some { index := p.2, cause := p.1.cause, outcome := if p.1.state = .marked then .marked else .repaired,
               method := p.1.method, donors := p.1.donors, generation := p.1.generation }
      else none := by
    rw [noteEntries, ← List.filterMap_eq_map, List.filterMap_filter]
    refine List.filterMap_congr fun p _ => ?_
    have hp : p.1.hasEntry = true ↔ p.1.cause ≠ none ∨ p.1.state ≠ .sound := by
      simp [StripeRec.hasEntry, Option.isSome_iff_ne_none]
    exact if_congr hp rfl rfl
  unfold queued noteOf
  rw [h]

namespace State

theorem appendFrame_eq (s : State) (a : DriveIx) (g : FrameRec) :
    s.appendFrame a g = s.setDrive a ((s.drive a).appended g) := by
  simp [appendFrame, modDrive, DriveRec.appended]

/-! ### Flow states judged on the way -/

theorem FlowJudged.congr {s t u : State} {i : StreamIx} (h : s.FlowJudged t i)
    (hp : ∀ j, (u.stream j).paused = (t.stream j).paused) (hf : u.ret.flowSet = t.ret.flowSet)
    (hr : u.pauseReason i = t.pauseReason i) : s.FlowJudged u i := by
  refine ⟨fun j hj => (hp j).trans (h.1 j hj), fun hs => ?_⟩
  rw [hp, hf, hr]
  exact h.2 hs

/-- Suspensions are added, and then an occupancy reason may go: the flow state comes to fit its reasons. -/
theorem FlowRises.then_judged {s t u : State} {i : StreamIx} (h : FlowRises s t i) (g : t.FlowJudged u i)
    (hs : u.suspensions i = t.suspensions i) : s.FlowJudged u i := by
  refine h.judged.trans g ?_
  cases ht : t.pauseReason i with
  | false => exact .inl (Bool.eq_false_iff.2 fun hx => by simp [h.reason hx] at ht).symm
  | true =>
    cases hx : s.pauseReason i with
    | true => exact .inl rfl
    | false =>
      refine .inr ?_
      rw [pauseReason, Bool.or_eq_false_iff, ← h.record i] at hx
      rw [pauseReason, hx.1, Bool.false_or] at ht
      rw [pauseReason, hs, ht, Bool.or_true]

/-! ### The hand-off (R104) -/

/-- What the hand-off of the frame `f` at the window's head to drive `a` makes of a state. -/
structure HandedOff (s t : State) (i : StreamIx) (cfg : StreamConfig) (a : DriveIx) (kind : FrameKind) (f : FrameRec)
    (tail : List FrameRec) : Prop where
  rest : t = { s with
    streams := t.streams, drives := t.drives
    dir := (s.insertFrame i f.number cfg.genLimit f.stripes).dir
    store := (s.insertFrame i f.number cfg.genLimit f.stripes).store
    ret := { s.ret with flowSet := t.ret.flowSet } }
  others : ∀ j, j ≠ i → t.stream j = s.stream j
  stream : t.stream i = { s.stream i with
    window := tail, paused := (t.stream i).paused, nextSeq := (s.stream i).nextSeq + 1
    lastDispatched := some f.number }
  drive : t.drive a = (s.drive a).appended (f.queued kind (s.stream i).nextSeq)
  drives : ∀ b, b ≠ a → t.drive b = s.drive b
  judged : s.FlowJudged t i

theorem handOff_handedOff {s : State} {i : StreamIx} {f : FrameRec} {tail : List FrameRec} (cfg : StreamConfig)
    (a : DriveIx) (kind : FrameKind) (hw : (s.stream i).window = f :: tail) :
    HandedOff s (s.handOff i cfg a kind) i cfg a kind f tail := by
  unfold handOff
  rw [hw]
  dsimp only
  have hstream := stream_judgeFlow_same (s.modStream i fun r => { r with window := tail }) i
  have hother (j : StreamIx) (hj : j ≠ i) :=
    (stream_judgeFlow_other (s.modStream i fun r => { r with window := tail }) hj).trans
      (stream_modStream_other s _ hj.symm)
  have hpaused (j : StreamIx) : ((s.modStream i fun r => { r with window := tail }).stream j).paused =
      (s.stream j).paused := by
    by_cases e : j = i
    · subst e
      rw [stream_modStream_same]
    · rw [stream_modStream_other s _ (Ne.symm e)]
  have hjudged := judgeFlow_judged (s := s) i hpaused rfl
  have hrest : (s.modStream i fun r => { r with window := tail }).judgeFlow i = { s with
      streams := ((s.modStream i fun r => { r with window := tail }).judgeFlow i).streams
      ret := { s.ret with
        flowSet := ((s.modStream i fun r => { r with window := tail }).judgeFlow i).ret.flowSet } } := by
    rw [judgeFlow_eq]
    rfl
  rw [stream_modStream_same] at hstream
  generalize (s.modStream i fun r => { r with window := tail }).judgeFlow i = u at *
  have hseq : (u.stream i).nextSeq = (s.stream i).nextSeq := by rw [hstream]
  have hv : (u.takeSeq i).2.modStream i (fun r => { r with lastDispatched := some f.number }) =
      u.setStream i { u.stream i with nextSeq := (u.stream i).nextSeq + 1, lastDispatched := some f.number } := by
    rw [takeSeq, modStream, modStream, stream_setStream_same, setStream_setStream]
  rw [hv]
  rw [insertFrame_eq (s := s) (by rw [hrest]; rfl) (by rw [hrest]; rfl), appendFrame_eq, takeSeq, hseq]
  have hdrive (b : DriveIx) : u.drive b = s.drive b := by
    rw [hrest]
    rfl
  have hui : (u.setStream i { u.stream i with
      nextSeq := (s.stream i).nextSeq + 1, lastDispatched := some f.number }).stream i = { s.stream i with
        window := tail, paused := (u.stream i).paused, nextSeq := (s.stream i).nextSeq + 1
        lastDispatched := some f.number } := by
    rw [stream_setStream_same, hstream]
  refine ⟨?_, fun j hj => ?_, ?_, ?_, fun b hb => ?_, ?_⟩
  · rw [hrest]
    rfl
  · exact (stream_setStream_other u _ hj.symm).trans (hother j hj)
  · exact hui.trans (congrArg (fun p => ({ s.stream i with
      window := tail, paused := p, nextSeq := (s.stream i).nextSeq + 1, lastDispatched := some f.number } : StreamRec))
      (congrArg StreamRec.paused hui).symm)
  · exact (drive_setDrive_same _ a _).trans (congrArg (DriveRec.appended · _) (hdrive a))
  · exact (drive_setDrive_other _ _ hb.symm).trans (hdrive b)
  · have hocc : (u.setStream i { u.stream i with
        nextSeq := (s.stream i).nextSeq + 1, lastDispatched := some f.number }).pauseReason i = u.pauseReason i := by
      have := occupancyReason_of_length (r := u.stream i) (q := { u.stream i with
        nextSeq := (s.stream i).nextSeq + 1, lastDispatched := some f.number }) rfl rfl rfl
      rw [pauseReason, stream_setStream_same, this]
      rfl
    refine hjudged.congr (fun j => ?_) rfl hocc
    by_cases e : j = i
    · subst e
      exact congrArg StreamRec.paused hui |>.trans rfl
    · exact congrArg StreamRec.paused (stream_setStream_other u _ (Ne.symm e))

/-! ### The stream leaves STALLED (R99) -/

/-- A stream that may leave STALLED. -/
theorem leaveStall_left (s : State) (i : StreamIx) :
    s.leaveStall i = { s with
      streams := (s.leaveStall i).streams, ret := { s.ret with flowSet := (s.leaveStall i).ret.flowSet } } ∧
    (∀ j, j ≠ i → (s.leaveStall i).stream j = s.stream j) ∧
    (s.leaveStall i).stream i = { s.stream i with
      state := if (s.stream i).state = .stalled then .running else (s.stream i).state
      paused := ((s.leaveStall i).stream i).paused } ∧
    FlowRises s (s.leaveStall i) i := by
  unfold leaveStall
  split
  next h =>
    have hstream := stream_judgeFlow_same (s.modStream i fun r => { r with state := .running }) i
    have hother (j : StreamIx) (hj : j ≠ i) :=
      (stream_judgeFlow_other (s.modStream i fun r => { r with state := .running }) hj).trans
        (stream_modStream_other s _ hj.symm)
    have hocc : (s.modStream i fun r => { r with state := .running }).pauseReason i = s.pauseReason i := by
      rw [pauseReason, stream_modStream_same, pauseReason, StreamRec.occupancyReason, StreamRec.occupancyReason, h]
      rfl
    have hpaused (j : StreamIx) : ((s.modStream i fun r => { r with state := .running }).stream j).paused =
        (s.stream j).paused := by
      by_cases e : j = i
      · subst e
        rw [stream_modStream_same]
      · rw [stream_modStream_other s _ (Ne.symm e)]
    have hreason := (pauseReason_judgeFlow (s.modStream i fun r => { r with state := .running }) i).trans hocc
    refine ⟨?_, hother, ?_, judgeFlow_judged i hpaused rfl, fun hr => hreason.trans hr, fun j => ?_⟩
    · rw [judgeFlow_eq]
      rfl
    · rw [hstream, stream_modStream_same]
    · by_cases e : j = i
      · subst e
        rw [hstream, stream_modStream_same, StreamRec.occupancyReason, StreamRec.occupancyReason, h]
        rfl
      · rw [hother j e]
  next h => exact ⟨rfl, fun _ _ => rfl, rfl, FlowRises.refl s i⟩

/-! ### The head on its way to the drive (R101) -/

/-- What a dispatch leaves of a state before the hand-off of its head, which is `f` now, before the frames `tail`. -/
structure Readied (s t : State) (i : StreamIx) (f : FrameRec) (tail : List FrameRec) : Prop where
  drives : t.drives = s.drives
  burn : t.burn = s.burn
  plans : t.plans = s.plans
  dir : t.dir = s.dir
  others : ∀ j, j ≠ i → (t.stream j).window = (s.stream j).window ∧ (t.stream j).counters = (s.stream j).counters ∧
    (t.stream j).state = (s.stream j).state
  state : (t.stream i).state = if (s.stream i).state = .stalled then .running else (s.stream i).state
  nextSeq : (t.stream i).nextSeq = (s.stream i).nextSeq
  cadence : ∀ b, { (t.stream i).cadence with running := b } = { (s.stream i).cadence with running := b }
  window : (t.stream i).window = f :: tail
  flow : FlowRises s t i

section
variable {s t u : State} {i : StreamIx} {f g : FrameRec} {tail rest : List FrameRec}

theorem leaveStall_readied (hw : (s.stream i).window = f :: tail) : Readied s (s.leaveStall i) i f tail := by
  obtain ⟨hrest, hother, hstream, hflow⟩ := leaveStall_left s i
  generalize s.leaveStall i = t at *
  refine ⟨by rw [hrest], by rw [hrest], by rw [hrest], by rw [hrest], fun j hj => ?_, by rw [hstream], by rw [hstream],
    fun b => by rw [hstream], by rw [hstream]; exact hw, hflow⟩
  rw [hother j hj]
  exact ⟨rfl, rfl, rfl⟩

/-- The head closes (R11). -/
theorem Readied.closed (h : Readied s t i f tail) {n : Word32} {e : FrameRec} (hc : Closed t u i n e)
    (hw : (u.stream i).window = g :: rest) : Readied s u i g rest := by
  refine ⟨hc.drives.trans h.drives, hc.burn.trans h.burn, hc.plans.trans h.plans, hc.dir.trans h.dir, fun j hj => ?_,
    ?_, ?_, fun b => ?_, hw, h.flow.trans hc.flow⟩
  · rw [hc.others j hj]
    exact h.others j hj
  · rw [hc.stream]
    exact h.state
  · rw [hc.stream]
    exact h.nextSeq
  · rw [hc.stream]
    exact h.cadence b

/-- The head is forced (R102). -/
theorem Readied.forced (h : Readied s t i f tail) {cfg : StreamConfig} (hf : ForcedHead t u i cfg f tail)
    (hg : (u.stream i).window = g :: tail) : Readied s u i g tail := by
  obtain ⟨e, -, hs⟩ := hf.stream
  have hrest := hf.rest
  refine ⟨by rw [hrest]; exact h.drives, by rw [hrest]; exact h.burn, by rw [hrest]; exact h.plans,
    by rw [hrest]; exact h.dir, fun j hj => ?_, ?_, ?_, fun b => ?_, hg, h.flow.trans hf.flow⟩
  · rw [hf.others j hj]
    exact h.others j hj
  · rw [hs]
    exact h.state
  · rw [hs]
    exact h.nextSeq
  · rw [hs]
    exact h.cadence b

end

/-! ### A forced frame that is handed off (R43, R102) -/

theorem storeForced_congr {s t : State} (hd : t.dir = s.dir) (hs : t.store = s.store)
    (hc : t.engine.contexts = s.engine.contexts) (i : StreamIx) (cfg : StreamConfig) (f : FrameRec) :
    t.storeForced i cfg f = s.storeForced i cfg f := by
  have hctx (c : Fin 4) : t.context c = s.context c := by rw [context, hc, context]
  have hg : t.storeGivenUp i f.number = s.storeGivenUp i f.number := by
    simp only [storeGivenUp, hctx, hs]
  rw [storeForced, storeForced, hg, forcedDonor_congr hd]

/-- The state of stream `i` after its cadence unit has advanced (R94). -/
def advanceCadence (s : State) (i : StreamIx) : State :=
  s.setStream i { s.stream i with cadence := (s.stream i).cadence.advance }

theorem stream_advanceCadence_same (s : State) (i : StreamIx) : (s.advanceCadence i).stream i =
    { s.stream i with cadence := (s.stream i).cadence.advance } := stream_setStream_same s i _

theorem stream_advanceCadence_other (s : State) {i j : StreamIx} (h : j ≠ i) :
    (s.advanceCadence i).stream j = s.stream j := stream_setStream_other s _ h.symm

theorem pauseReason_advanceCadence (s : State) (i : StreamIx) :
    (s.advanceCadence i).pauseReason i = s.pauseReason i := by
  rw [pauseReason, stream_advanceCadence_same]
  rfl

theorem FlowJudged.advanced {s t : State} {i : StreamIx} (h : s.FlowJudged t i) :
    s.FlowJudged (t.advanceCadence i) i := by
  refine h.congr (fun j => ?_) rfl (pauseReason_advanceCadence t i)
  by_cases e : j = i
  · subst e
    rw [stream_advanceCadence_same]
  · rw [stream_advanceCadence_other t e]

section
variable {s u x t : State} {i : StreamIx} {cfg : StreamConfig} {a : DriveIx} {f g : FrameRec} {tail : List FrameRec}

/-- The forcing of a CLOSED head and its hand-off, from a state `u` with the directory, the store, the contexts and the
counters concerned of `s`. -/
theorem ForcedHead.forced (hd : u.dir = s.dir) (hs : u.store = s.store) (hc : u.engine.contexts = s.engine.contexts)
    (hcount : ∀ c : Counter, c = .forcedFrames ∨ c = .repairedFallback ∨ c = .marked →
      (u.stream i).counters[c.ix] = (s.stream i).counters[c.ix])
    (h : ForcedHead u x i cfg f tail)
    (hg : g = { f with
      stripes := u.forcedStripes i cfg f.number f.stripes.zipIdx, unresolved := g.unresolved, state := g.state })
    (ht : HandedOff x t i cfg a .forced g tail) (seq : Word32) :
    s.Forced (t.advanceCadence i) i cfg f (g.queued .forced seq) := by
  have hdon : u.forcedDonor = s.forcedDonor := forcedDonor_congr hd
  have hstore := storeForced_congr hd hs hc i cfg f
  have hti : ((t.advanceCadence i).stream i).counters = (x.stream i).counters := by
    rw [stream_advanceCadence_same, ht.stream]
  have heng : (t.advanceCadence i).engine = x.engine := by
    show t.engine = _
    rw [ht.rest]
  have hgs : g.stripes = f.stripes.zipIdx.map fun p =>
      if p.1.toForce = true then p.1.settled (s.forcedDonor i cfg f.number p.2) else p.1 := by
    rw [hg]
    show u.forcedStripes i cfg f.number f.stripes.zipIdx = _
    rw [forcedStripes, hdon]
  have hins : x.insertFrame i f.number cfg.genLimit g.stripes = { x with
      dir := ({ s with store := s.storeForced i cfg f }.insertFrame i f.number cfg.genLimit g.stripes).dir
      store := ({ s with store := s.storeForced i cfg f }.insertFrame i f.number cfg.genLimit g.stripes).store } := by
    refine insertFrame_eq (s := { s with store := s.storeForced i cfg f }) ?_ ?_ _ _ _ _
    · rw [h.rest]
      exact hd
    · rw [h.rest]
      exact hstore
  have hnum : g.number = f.number := by rw [hg]
  refine ⟨fun c b hb => ?_, fun q hq => ?_, ?_, fun k y hk => ?_, ?_, ?_, ?_, ?_, ?_⟩
  · have hcx : (t.advanceCadence i).context c = x.context c := by rw [State.context, heng, State.context]
    rw [hcx, h.context] at hb
    rintro ⟨h1, h2⟩
    simpa [h1, h2] using (Option.filter_eq_some_iff.1 hb).2
  · rw [heng, h.rest] at hq
    rintro ⟨h1, h2⟩
    simpa [QueueRef.names, h1, h2] using (List.mem_filter.1 hq).2
  · show g.stripes.length = _
    simp [hgs]
  · show g.stripes[k]? = _
    rw [hgs, List.getElem?_map, List.getElem?_zipIdx, hk]
    simp only [Option.map_some, Nat.zero_add, Option.some.injEq]
    cases s.forcedDonor i cfg f.number k <;> rfl
  · rw [hti, h.counters, hcount _ (.inl rfl)]
    simp
  · rw [hti, h.counters, hcount _ (.inr (.inl rfl)), forcedCount, hdon]
    simp
  · have hnone (o : Option Donor) : (o.isSome == false) = o.isNone := by cases o <;> rfl
    rw [hti, h.counters, hcount _ (.inr (.inr rfl))]
    simp [forcedCount, hdon, hnone]
  · show t.dir = _
    rw [ht.rest, hnum, hins]
    rfl
  · show t.store = _
    rw [ht.rest, hnum, hins]
    rfl

end

end State
end Sys2Proof.Machine

/-! PROOFS. A dispatch slot whose drive takes the frame: the head of the window (R101), or a fill frame (R108, R109). -/

namespace Sys2Proof.Machine

theorem Cadence.advance_running (c : Cadence) (b : Bool) :
    { c.advance with running := b } = ({ c with running := b } : Cadence).advance := by
  unfold advance
  cases c.pendingPattern with
  | none => rfl
  | some q => by_cases h : c.position = 7 <;> simp [h]

/-- A frame without EXPECTED and DAMAGED stripes closes without damage (R11). -/
theorem FrameRec.damageAtClose_eq_zero {f : FrameRec} :
    f.damageAtClose = 0 ↔ ∀ x ∈ f.stripes, x.state ≠ .expected ∧ x.state ≠ .damaged := by
  rw [damageAtClose, List.length_eq_zero_iff, List.filter_eq_nil_iff]
  refine forall₂_congr fun x _ => ?_
  rw [Bool.or_eq_true, not_or, beq_iff_eq, beq_iff_eq, and_comm]

theorem FrameRec.withDamageFixed_stripes {f : FrameRec} (o : Word48) (h : f.damageAtClose = 0) :
    (f.withDamageFixed o).stripes = f.stripes := by
  refine (List.map_congr_left fun x hx => ?_).trans (List.map_id f.stripes)
  rw [if_neg (damageAtClose_eq_zero.1 h x hx).1]
  rfl

theorem FrameRec.withDamageFixed_state (f : FrameRec) (o : Word48) :
    (f.withDamageFixed o).state = if f.damageAtClose = 0 then .resolved else .closed := rfl

namespace State

theorem Occurred.congr {s s' t t' : State} {k : WatchCondition} {n : Nat} {d : Word32} (h : s.Occurred t k n d)
    (hm : s.monitor = s'.monitor) (ho : s.ret.outbox = s'.ret.outbox) (hm' : t'.monitor = t.monitor)
    (ho' : t'.ret.outbox = t.ret.outbox) : s'.Occurred t' k n d :=
  let ⟨u, h1, h2, h3, h4⟩ := h
  ⟨u, h1.trans hm, h2.trans ho, hm'.trans h3, ho'.trans h4⟩

/-- No stripe of a forced frame that has closed is EXPECTED or DAMAGED. -/
theorem forcedStripes_resolved (s : State) (i : StreamIx) (cfg : StreamConfig) (n : Word32) (f : FrameRec) (o : Word48) :
    ∀ x ∈ s.forcedStripes i cfg n (f.withDamageFixed o).stripes.zipIdx, x.state ≠ .expected ∧ x.state ≠ .damaged := by
  intro x hx
  obtain ⟨⟨y, k⟩, hy, rfl⟩ := List.mem_map.1 hx
  have hy' : y ∈ (f.withDamageFixed o).stripes := List.fst_mem_of_mem_zipIdx hy
  dsimp only
  split
  next => cases s.forcedDonor i cfg n k <;> simp [StripeRec.settled]
  next hf =>
    obtain ⟨z, -, rfl⟩ := List.mem_map.1 hy'
    refine ⟨?_, fun hd => hf (by simp only [StripeRec.toForce, hd]; rfl)⟩
    split
    · simp
    · assumption

section
variable {s x t : State} {i : StreamIx} {cfg : StreamConfig} {a : DriveIx} {f g : FrameRec} {rest tail : List FrameRec}
  {kind : FrameKind} {after : Cadence}

/-- The head is handed off: what is common to every state it may be in. -/
theorem dispatched_of_handedOff (hafter : { (s.stream i).cadence.advance with running := after.running } = after)
    (hw : (s.stream i).window = f :: rest) (hR : Readied s x i g tail) (hH : HandedOff x t i cfg a kind g tail)
    (hlen : tail.length = rest.length)
    (hsame : g = { f with
      stripes := g.stripes, damaged := g.damaged, unresolved := g.unresolved, ordinal := g.ordinal, state := g.state })
    (hresolved : f.state = .resolved → kind = .normal ∧ g.stripes = f.stripes ∧ tail = rest ∧
      (x.stream i).counters = (s.stream i).counters ∧ s.Silent x ∧ x.engine = s.engine ∧ x.store = s.store)
    (hclosed : f.state = .closed → kind = .forced ∧ s.Occurred x .forced (streamId i) f.number ∧
      s.Forced (t.advanceCadence i) i cfg f (g.queued kind (x.stream i).nextSeq) ∧
      (∀ c : Counter, c ≠ .forcedFrames → c ≠ .repairedFallback → c ≠ .marked →
        (x.stream i).counters[c.ix] = (s.stream i).counters[c.ix]))
    (hopened : f.state = .opened → x.engine.closeOrdinal = s.engine.closeOrdinal + 1 ∧
      g.ordinal = some s.engine.closeOrdinal ∧
      ((∀ y ∈ f.stripes, y.state ≠ .expected ∧ y.state ≠ .damaged) →
        kind = .normal ∧ g.stripes = f.stripes ∧ x.store = s.store) ∧
      ((∃ y ∈ f.stripes, y.state = .expected ∨ y.state = .damaged) → kind = .forced ∧
        (∀ y ∈ g.stripes, y.state ≠ .expected ∧ y.state ≠ .damaged) ∧
        s.Forced (t.advanceCadence i) i cfg (f.withDamageFixed s.engine.closeOrdinal)
          (g.queued kind (x.stream i).nextSeq) ∧
        ∃ u : State, s.Occurred u .damageRate (streamId i) (BitVec.ofNat 32 f.damageAtClose) ∧
          u.Occurred x .forced (streamId i) f.number)) :
    s.Dispatched (t.advanceCadence i) i cfg a after := by
  have hti : (t.advanceCadence i).stream i = { x.stream i with
      window := tail, paused := (t.stream i).paused, nextSeq := (x.stream i).nextSeq + 1
      lastDispatched := some g.number, cadence := (x.stream i).cadence.advance } := by
    rw [stream_advanceCadence_same, hH.stream]
  have htj (j : StreamIx) (hj : j ≠ i) : (t.advanceCadence i).stream j = x.stream j :=
    (stream_advanceCadence_other t hj).trans (hH.others j hj)
  have hmon : (t.advanceCadence i).monitor = x.monitor := by
    show t.monitor = _
    rw [hH.rest]
  have hout : (t.advanceCadence i).ret.outbox = x.ret.outbox := by
    show t.ret.outbox = _
    rw [hH.rest]
  have heng : (t.advanceCadence i).engine = x.engine := by
    show t.engine = _
    rw [hH.rest]
  have hdrive (b : DriveIx) : x.drive b = s.drive b := drive_congr hR.drives b
  have hnum : g.number = f.number := by rw [hsame]
  have hins (hst : x.store = s.store) (hgs : g.stripes = f.stripes) :
      (t.advanceCadence i).dir = (s.insertFrame i f.number cfg.genLimit f.stripes).dir ∧
        (t.advanceCadence i).store = (s.insertFrame i f.number cfg.genLimit f.stripes).store := by
    have h := insertFrame_eq hR.dir hst i f.number cfg.genLimit f.stripes
    constructor
    · show t.dir = _
      rw [hH.rest, hnum, hgs, h]
    · show t.store = _
      rw [hH.rest, hnum, hgs, h]
  have hsusp : t.suspensions i = x.suspensions i := by
    rw [suspensions, hH.rest]
    rfl
  refine ⟨g.queued kind (x.stream i).nextSeq, kind, ?_, fun b hb => (hH.drives b hb).trans (hdrive b), ?_, ?_,
    fun j hj => by rw [htj j hj]; exact hR.others j hj, by rw [hti]; exact hR.state, ?_,
    (hR.flow.then_judged hH.judged hsusp).advanced, ?_, rfl, ?_, rfl, ?_, fun f' rest' hw' => ?_, fun hn => ?_⟩
  · exact (hH.drive.trans (by rw [hdrive]; rfl))
  · show t.burn = _
    rw [hH.rest]
    exact hR.burn
  · show t.plans = _
    rw [hH.rest]
    exact hR.plans
  · rw [hti]
    show { (x.stream i).cadence.advance with running := after.running } = after
    rw [Cadence.advance_running, hR.cadence, ← Cadence.advance_running]
    exact hafter
  · rw [hti, ← hR.nextSeq]
  · rw [← hR.nextSeq]
    rfl
  · rw [← hR.nextSeq]
    exact g.queued_note kind _
  · obtain ⟨rfl, rfl⟩ : f = f' ∧ rest = rest' := by simpa using hw.symm.trans hw'
    refine ⟨by rw [hti, hnum], by rw [hti]; exact hlen, hnum, by rw [hsame]; rfl, by rw [hsame]; rfl,
      by rw [hsame]; rfl, by rw [hsame]; rfl, by rw [hsame]; rfl, fun h => ?_, fun h => ?_, fun h => ?_⟩
    · obtain ⟨hk, hgs, htail, hcnt, hsil, he, hst⟩ := hresolved h
      obtain ⟨hdir, hstore⟩ := hins hst hgs
      exact ⟨hk, hgs, by rw [hti]; exact htail, by rw [hti]; exact hcnt, ⟨hmon.trans hsil.1, hout.trans hsil.2⟩,
        heng.trans he, hdir, hstore⟩
    · obtain ⟨hk, hocc, hf, hcnt⟩ := hclosed h
      exact ⟨hk, hocc.congr rfl rfl hmon hout, hf, fun c h1 h2 h3 => by rw [hti]; exact hcnt c h1 h2 h3⟩
    · obtain ⟨ho, hgo, hclean, hdamaged⟩ := hopened h
      refine ⟨by rw [heng]; exact ho, hgo, fun hx => ?_, fun hx => ?_⟩
      · obtain ⟨hk, hgs, hst⟩ := hclean hx
        exact ⟨hk, hgs, hins hst hgs⟩
      · obtain ⟨hk, hgs, hf, u, hu, huo⟩ := hdamaged hx
        exact ⟨hk, hgs, hf, u, hu, huo.congr rfl rfl hmon hout⟩
  · simp [hw] at hn

end

/-! ### The head's dispatch by its state (R101) -/

section
variable {s : State} {i : StreamIx} {f : FrameRec} {rest : List FrameRec} (cfg : StreamConfig) (a : DriveIx)
  (hw : (s.stream i).window = f :: rest)
include hw

theorem dispatchHead_normal (h1 : f.state ≠ .opened) (h2 : f.state ≠ .closed) :
    s.dispatchHead i cfg a = s.handOff i cfg a .normal := by
  unfold dispatchHead
  rw [hw, List.head?_cons]
  dsimp only
  rw [if_neg h1, frame_head hw]
  exact if_neg h2

theorem dispatchHead_closed (h : f.state = .closed) :
    s.dispatchHead i cfg a = (s.forceFrame i cfg f.number).handOff i cfg a .forced := by
  unfold dispatchHead
  rw [hw, List.head?_cons]
  dsimp only
  rw [if_neg (by simp [h]), frame_head hw]
  exact if_pos h

theorem dispatchHead_opened {g : FrameRec} (h : f.state = .opened)
    (hg : (s.closeFrame i f.number).frame i f.number = some g) :
    s.dispatchHead i cfg a = if g.state = .closed then
      ((s.closeFrame i f.number).forceFrame i cfg f.number).handOff i cfg a .forced
      else (s.closeFrame i f.number).handOff i cfg a .normal := by
  unfold dispatchHead
  rw [hw, List.head?_cons]
  dsimp only
  rw [if_pos h, hg]

end

section
variable {s : State} {i : StreamIx} {f : FrameRec} {rest : List FrameRec} {cfg : StreamConfig} {a : DriveIx}
  {after : Cadence} (hafter : { (s.stream i).cadence.advance with running := after.running } = after)
  (hw : (s.stream i).window = f :: rest)
include hafter hw

/-- A RESOLVED head, or one that neither closes nor is forced. -/
theorem dispatched_normal (h1 : f.state ≠ .opened) (h2 : f.state ≠ .closed) :
    s.Dispatched (((s.leaveStall i).dispatchHead i cfg a).advanceCadence i) i cfg a after := by
  have hR := leaveStall_readied hw
  obtain ⟨hrest, -, hstream, -⟩ := leaveStall_left s i
  generalize s.leaveStall i = x at *
  rw [dispatchHead_normal cfg a hR.window h1 h2]
  exact dispatched_of_handedOff hafter hw hR (handOff_handedOff cfg a .normal hR.window) rfl rfl
    (fun _ => ⟨rfl, rfl, rfl, by rw [hstream], ⟨by rw [hrest], by rw [hrest]⟩, by rw [hrest], by rw [hrest]⟩)
    (fun h => absurd h h2) fun h => absurd h h1

variable (hr : ∀ q ∈ rest, q.number ≠ f.number)
include hr

/-- A CLOSED head. -/
theorem dispatched_closed (h : f.state = .closed) :
    s.Dispatched (((s.leaveStall i).dispatchHead i cfg a).advanceCadence i) i cfg a after := by
  have hR := leaveStall_readied hw
  obtain ⟨hrest, -, hstream, -⟩ := leaveStall_left s i
  generalize s.leaveStall i = u at *
  have hcounters : (u.stream i).counters = (s.stream i).counters := by rw [hstream]
  rw [dispatchHead_closed cfg a hR.window h]
  have hF := forceFrame_head cfg hR.window hr
  generalize u.forceFrame i cfg f.number = x at hF ⊢
  obtain ⟨g, hg, hxs⟩ := hF.stream
  have hxw : (x.stream i).window = g :: rest := by rw [hxs]
  have hH := handOff_handedOff cfg a .forced hxw
  have hnum : g.number = f.number := by rw [hg]
  refine dispatched_of_handedOff hafter hw (hR.forced hF hxw) hH rfl ?_ (fun hn => by simp [h] at hn)
    (fun _ => ⟨rfl, ?_, ?_, fun c h1 h2 h3 => ?_⟩) fun hn => by simp [h] at hn
  · rw [hg]
  · exact hF.occurred.congr (by rw [hrest]) (by rw [hrest]) rfl rfl
  · exact ForcedHead.forced hR.dir (by rw [hrest]) (by rw [hrest]) (fun c _ => by rw [hcounters]) hF hg hH _
  · rw [hF.counters, if_neg h1, if_neg h2, if_neg h3, hcounters]
    simp

/-- An OPEN head: it closes, and is forced unless it then has no damage. -/
theorem dispatched_opened (hp : ((s.stream i).window.map (·.number)).Pairwise (· < ·)) (h : f.state = .opened) :
    s.Dispatched (((s.leaveStall i).dispatchHead i cfg a).advanceCadence i) i cfg a after := by
  have hR := leaveStall_readied hw
  obtain ⟨hrest, -, hstream, -⟩ := leaveStall_left s i
  generalize s.leaveStall i = u at *
  have hcounters : (u.stream i).counters = (s.stream i).counters := by rw [hstream]
  have hup : ((u.stream i).window.map (·.number)).Pairwise (· < ·) := by rwa [hR.window, ← hw]
  have huf := frame_head hR.window
  have hC := closeFrame_closed huf
  obtain ⟨-, hcw⟩ := closeFrame_head hup huf hR.window
  have hcf := frame_closeFrame hup huf
  rw [dispatchHead_opened cfg a hR.window h hcf]
  generalize u.closeFrame i f.number = c at hC hcw hcf ⊢
  have hord : u.engine.closeOrdinal = s.engine.closeOrdinal := by rw [hrest]
  rw [hord] at hcw hcf
  have hRc := hR.closed hC hcw
  have hco : c.engine.closeOrdinal = s.engine.closeOrdinal + 1 := by rw [hC.ordinal, hord]
  have hcs : c.store = s.store := hC.store.trans (by rw [hrest])
  rw [hord, FrameRec.withDamageFixed_state]
  by_cases hd : f.damageAtClose = 0
  · rw [if_pos hd, if_neg (by simp)]
    refine dispatched_of_handedOff hafter hw hRc (handOff_handedOff cfg a .normal hcw) rfl rfl (fun hn => by simp [h] at hn)
      (fun hn => by simp [h] at hn) fun _ => ⟨hco, rfl, fun _ => ⟨rfl, FrameRec.withDamageFixed_stripes _ hd, hcs⟩,
        fun ⟨y, hy, hyd⟩ => ?_⟩
    obtain ⟨n1, n2⟩ := FrameRec.damageAtClose_eq_zero.1 hd y hy
    exact (hyd.elim n1 n2).elim
  · rw [if_neg hd, if_pos rfl]
    have hF := forceFrame_head cfg hcw hr
    have hnum : (f.withDamageFixed s.engine.closeOrdinal).number = f.number := rfl
    rw [hnum] at hF
    generalize c.forceFrame i cfg f.number = x at hF ⊢
    obtain ⟨g, hg, hxs⟩ := hF.stream
    have hxw : (x.stream i).window = g :: rest := by rw [hxs]
    have hH := handOff_handedOff cfg a .forced hxw
    have hocc : s.Occurred c .damageRate (streamId i) (BitVec.ofNat 32 f.damageAtClose) :=
      (hC.occurred (Nat.pos_of_ne_zero hd)).congr (by rw [hrest]) (by rw [hrest]) rfl rfl
    refine dispatched_of_handedOff hafter hw (hRc.forced hF hxw) hH rfl ?_ (fun hn => by simp [h] at hn)
      (fun hn => by simp [h] at hn) fun _ => ⟨?_, ?_, fun hclean => absurd (FrameRec.damageAtClose_eq_zero.2 hclean) hd,
        fun _ => ⟨rfl, ?_, ?_, c, hocc, hF.occurred⟩⟩
    · rw [hg]
      rfl
    · rw [hF.rest]
      exact hco
    · rw [hg]
      rfl
    · rw [hg]
      exact forcedStripes_resolved c i cfg _ f _
    · refine ForcedHead.forced hRc.dir hcs ?_ (fun k hk => ?_) hF hg hH _
      · rw [hC.contexts, hrest]
      · have h0 : f.closeCount k = 0 := by
          obtain rfl | rfl | rfl := hk <;> rfl
        rw [hC.counters, h0, hcounters]
        simp

/-- The window's head is dispatched (R101). -/
theorem dispatched_head (hp : ((s.stream i).window.map (·.number)).Pairwise (· < ·)) :
    s.Dispatched (((s.leaveStall i).dispatchHead i cfg a).advanceCadence i) i cfg a after := by
  by_cases h1 : f.state = .opened
  · exact dispatched_opened hafter hw hr hp h1
  · by_cases h2 : f.state = .closed
    · exact dispatched_closed hafter hw hr h2
    · exact dispatched_normal hafter hw h1 h2

end

end State
end Sys2Proof.Machine

/-! PROOFS. Fill frames (R108, R109). -/

namespace Sys2Proof.Machine

/-- The stripe of a fill frame, with its donor or blank (R109). -/
def fillStripe : Option Donor → StripeRec
  | some d => .lent d
  | none => .blank

namespace State

/-- The donor of stripe `k` of a fill frame (R109). -/
def fillDonor (s : State) (i : StreamIx) (number : Word32) (k : Nat) : Option Donor :=
  s.dir.lookup i k (Directory.filling number)

theorem fillDonor_congr {s t : State} (h : t.dir = s.dir) : t.fillDonor = s.fillDonor := by
  funext i n k
  rw [fillDonor, h, fillDonor]

/-- How many stripes of a fill frame find a donor (`found`), or find none. -/
def fillCount (s : State) (i : StreamIx) (number : Word32) (found : Bool) (l : List Nat) : Nat :=
  (l.filter fun k => (s.fillDonor i number k).isSome == found).length

theorem fillCount_cons (s : State) (i : StreamIx) (number : Word32) (b : Bool) (k : Nat) (l : List Nat) :
    s.fillCount i number b (k :: l) =
      s.fillCount i number b l + if (s.fillDonor i number k).isSome = b then 1 else 0 := by
  unfold fillCount
  rw [List.filter_cons]
  split
  next h =>
    rw [if_pos (by simpa using h)]
    rfl
  next h =>
    rw [if_neg (by simpa using h)]
    rfl

/-- What the resolution of the stripes `l` of a fill frame makes of a state. -/
structure FilledWith (s t : State) (i : StreamIx) (number : Word32) (l : List Nat) : Prop where
  rest : t = { s with
    streams := t.streams
    store := (l.filterMap (s.fillDonor i number)).foldl (fun w d => w.claim d.slot) s.store }
  others : ∀ j, j ≠ i → t.stream j = s.stream j
  stream : t.stream i = { s.stream i with counters := (t.stream i).counters }
  counters : ∀ c : Counter, (t.stream i).counters[c.ix] = (s.stream i).counters[c.ix] +
    ((if c = .repairedFallback then BitVec.ofNat 32 (s.fillCount i number true l) else 0) +
      if c = .marked then BitVec.ofNat 32 (s.fillCount i number false l) else 0)

/-- A stripe is resolved, and then the others. -/
theorem FilledWith.cons {s u t : State} {i : StreamIx} {number : Word32} {k : Nat} {l : List Nat} {d : Option Donor}
    (hd : s.fillDonor i number k = d)
    (hu : u = ({ s with store := d.elim s.store fun x => s.store.claim x.slot } : State).bump i (settledCounter d))
    (h : FilledWith u t i number l) : FilledWith s t i number (k :: l) := by
  have hdon : u.fillDonor = s.fillDonor := fillDonor_congr (by rw [hu]; rfl)
  have hcount (b : Bool) : u.fillCount i number b l = s.fillCount i number b l := by
    rw [fillCount, hdon, fillCount]
  have hui : u.stream i = { s.stream i with counters := (u.stream i).counters } := by
    rw [hu]
    exact stream_bumpBy_same { s with store := d.elim s.store fun x => s.store.claim x.slot } i (settledCounter d) 1
  have huj (j : StreamIx) (hj : j ≠ i) : u.stream j = s.stream j := by
    rw [hu]
    exact stream_bumpBy_other { s with store := d.elim s.store fun x => s.store.claim x.slot } (settledCounter d) 1 hj
  have huc (c : Counter) : (u.stream i).counters[c.ix] =
      (s.stream i).counters[c.ix] + if c = settledCounter d then 1 else 0 := by
    rw [hu]
    exact counter_bumpBy { s with store := d.elim s.store fun x => s.store.claim x.slot } i (settledCounter d) c 1
  refine ⟨?_, fun j hj => (h.others j hj).trans (huj j hj), ?_, fun c => ?_⟩
  · rw [h.rest, hdon, hu]
    cases d with
    | some d =>
      rw [List.filterMap_cons_some hd]
      rfl
    | none =>
      rw [List.filterMap_cons_none hd]
      rfl
  · rw [h.stream, hui]
  · rw [h.counters, huc, hcount, hcount, fillCount_cons, fillCount_cons, hd]
    cases d with
    | some d =>
      by_cases hc : c = .repairedFallback
      · subst hc
        simp only [settledCounter, Option.isSome_some, if_true, reduceCtorEq, if_false, BitVec.ofNat_add]
        bv_omega
      · simp [settledCounter, hc]
    | none =>
      by_cases hc : c = .marked
      · subst hc
        simp only [settledCounter, Option.isSome_none, if_true, reduceCtorEq, if_false, BitVec.ofNat_add]
        bv_omega
      · simp [settledCounter, hc]

theorem fillStripes_filled (i : StreamIx) (number : Word32) : ∀ (n k : Nat) (s : State),
    FilledWith s (fillStripes i number n k s).2 i number (List.range' k n) ∧
      (fillStripes i number n k s).1 = (List.range' k n).map fun k => fillStripe (s.fillDonor i number k)
  | 0, k, s => ⟨⟨rfl, fun _ _ => rfl, rfl, fun c => by simp [fillCount, fillStripes]⟩, rfl⟩
  | n + 1, k, s => by
    rw [List.range'_succ]
    have hstep (d : Option Donor) (hd : s.fillDonor i number k = d) (u : State)
        (hu : u = ({ s with store := d.elim s.store fun x => s.store.claim x.slot } : State).bump i (settledCounter d)) :
        FilledWith s (fillStripes i number n (k + 1) u).2 i number (k :: List.range' (k + 1) n) ∧
          fillStripe d :: (fillStripes i number n (k + 1) u).1 =
            (k :: List.range' (k + 1) n).map fun k => fillStripe (s.fillDonor i number k) := by
      obtain ⟨h1, h2⟩ := fillStripes_filled i number n (k + 1) u
      refine ⟨.cons hd hu h1, ?_⟩
      rw [h2, List.map_cons, hd, fillDonor_congr (s := s) (by rw [hu]; rfl)]
    unfold fillStripes
    cases hd : s.dir.lookup i k (Directory.filling number) with
    | some d => exact hstep (some d) hd _ rfl
    | none => exact hstep none hd _ rfl

/-! ### The fill frame is handed off (R108) -/

/-- The fill frame of a stream, with its output sequence. -/
def fillRecord (s : State) (i : StreamIx) (cfg : StreamConfig) (number : Word32) : FrameRec :=
  (FrameRec.fill cfg i number ((List.range cfg.stripes).map fun k => fillStripe (s.fillDonor i number k))).queued .fill
    (s.stream i).nextSeq

/-- What the making of a fill frame and its hand-off to drive `a` make of a state, before FILL occurs. -/
structure FillAppended (s t : State) (i : StreamIx) (cfg : StreamConfig) (a : DriveIx) (number : Word32) : Prop where
  rest : t = { s with
    streams := t.streams, drives := t.drives
    store := ((List.range cfg.stripes).filterMap (s.fillDonor i number)).foldl (fun w d => w.claim d.slot) s.store }
  others : ∀ j, j ≠ i → t.stream j = s.stream j
  stream : t.stream i = { s.stream i with
    nextSeq := (s.stream i).nextSeq + 1, counters := (t.stream i).counters }
  counters : ∀ c : Counter, (t.stream i).counters[c.ix] = (s.stream i).counters[c.ix] +
    ((if c = .repairedFallback then BitVec.ofNat 32 (s.fillCount i number true (List.range cfg.stripes)) else 0) +
      if c = .marked then BitVec.ofNat 32 (s.fillCount i number false (List.range cfg.stripes)) else 0) +
    if c = .fillFrames then 1 else 0
  drive : t.drive a = (s.drive a).appended (s.fillRecord i cfg number)
  drives : ∀ b, b ≠ a → t.drive b = s.drive b

theorem fillFrame_appended (s : State) (i : StreamIx) (cfg : StreamConfig) (a : DriveIx) : ∃ t : State,
    FillAppended s t i cfg a ((s.stream i).lastDispatched.getD 0) ∧
      s.fillFrame i cfg a = t.occur .fill (streamId i) ((s.stream i).lastDispatched.getD 0) := by
  refine ⟨_, ?_, rfl⟩
  generalize (s.stream i).lastDispatched.getD 0 = number
  obtain ⟨hf, hl⟩ := fillStripes_filled i number cfg.stripes 0 s
  rw [← List.range_eq_range'] at hf hl
  rw [hl]
  generalize (fillStripes i number cfg.stripes 0 s).2 = u at hf
  have hseq : (u.stream i).nextSeq = (s.stream i).nextSeq := by rw [hf.stream]
  rw [appendFrame_eq]
  have hv : (u.takeSeq i).2 = u.setStream i { u.stream i with nextSeq := (u.stream i).nextSeq + 1 } := rfl
  have hrec : (FrameRec.fill cfg i number ((List.range cfg.stripes).map fun k => fillStripe (s.fillDonor i number k))).queued
      .fill (u.takeSeq i).1 = s.fillRecord i cfg number := by
    rw [fillRecord, ← hseq]
    rfl
  rw [hrec, hv]
  generalize hd : ((u.setStream i { u.stream i with nextSeq := (u.stream i).nextSeq + 1 }).drive a).appended
    (s.fillRecord i cfg number) = d
  have hus : (u.setStream i { u.stream i with nextSeq := (u.stream i).nextSeq + 1 }).stream i =
      { u.stream i with nextSeq := (u.stream i).nextSeq + 1 } := stream_setStream_same u i _
  have huj (j : StreamIx) (hj : j ≠ i) := stream_setStream_other u
    { u.stream i with nextSeq := (u.stream i).nextSeq + 1 } hj.symm
  have hrest : u.setStream i { u.stream i with nextSeq := (u.stream i).nextSeq + 1 } = { s with
      streams := (u.setStream i { u.stream i with nextSeq := (u.stream i).nextSeq + 1 }).streams
      store := ((List.range cfg.stripes).filterMap (s.fillDonor i number)).foldl (fun w d => w.claim d.slot) s.store } := by
    rw [hf.rest]
    rfl
  generalize u.setStream i { u.stream i with nextSeq := (u.stream i).nextSeq + 1 } = v at *
  have hvd (b : DriveIx) : v.drive b = s.drive b := by
    rw [hrest]
    rfl
  refine ⟨?_, fun j hj => ?_, ?_, fun c => ?_, ?_, fun b hb => ?_⟩
  · rw [hrest]
    rfl
  · exact (stream_bumpBy_other (v.setDrive a d) .fillFrames 1 hj).trans ((huj j hj).trans (hf.others j hj))
  · refine (stream_bumpBy_same (v.setDrive a d) i .fillFrames 1).trans ?_
    have : (v.setDrive a d).stream i = v.stream i := rfl
    rw [this, hus, hf.stream]
    rfl
  · have h := counter_bumpBy (v.setDrive a d) i .fillFrames c 1
    have : (v.setDrive a d).stream i = v.stream i := rfl
    rw [this, hus] at h
    refine h.trans ?_
    rw [← hf.counters]
  · refine (drive_setDrive_same v a d).trans ?_
    rw [← hd, hvd]
  · exact (drive_setDrive_other v d hb.symm).trans (hvd b)

/-- What the making and the hand-off of a fill frame make of a state that may leave STALLED for it. -/
structure FillHandedOff (s t : State) (i : StreamIx) (cfg : StreamConfig) (a : DriveIx) (number : Word32) : Prop where
  drive : t.drive a = (s.drive a).appended (s.fillRecord i cfg number)
  drives : ∀ b, b ≠ a → t.drive b = s.drive b
  burn : t.burn = s.burn
  plans : t.plans = s.plans
  dir : t.dir = s.dir
  engine : t.engine = s.engine
  store : t.store =
    ((List.range cfg.stripes).filterMap (s.fillDonor i number)).foldl (fun w d => w.claim d.slot) s.store
  others : ∀ j, j ≠ i → (t.stream j).window = (s.stream j).window ∧ (t.stream j).counters = (s.stream j).counters ∧
    (t.stream j).state = (s.stream j).state
  stream : t.stream i = { s.stream i with
    state := if (s.stream i).state = .stalled then .running else (s.stream i).state
    nextSeq := (s.stream i).nextSeq + 1, counters := (t.stream i).counters, paused := (t.stream i).paused
    cadence := { (s.stream i).cadence with running := (t.stream i).cadence.running } }
  counters : ∀ c : Counter, (t.stream i).counters[c.ix] = (s.stream i).counters[c.ix] +
    ((if c = .repairedFallback then BitVec.ofNat 32 (s.fillCount i number true (List.range cfg.stripes)) else 0) +
      if c = .marked then BitVec.ofNat 32 (s.fillCount i number false (List.range cfg.stripes)) else 0) +
    if c = .fillFrames then 1 else 0
  occurred : s.Occurred t .fill (streamId i) number
  flow : FlowRises s t i

/-- The making of a fill frame leaves the flow states and their reasons. -/
theorem FillAppended.rises {s t : State} {i : StreamIx} {cfg : StreamConfig} {a : DriveIx} {number : Word32}
    (h : FillAppended s t i cfg a number) : FlowRises s t i := by
  refine FlowRises.of_same i (fun j => ?_) (by rw [h.rest]) (by rw [suspensions, h.rest, suspensions]) fun j => ?_
  · by_cases e : j = i
    · rw [e, h.stream]
    · rw [h.others j e]
  · by_cases e : j = i
    · subst e
      exact occupancyReason_of_length (by rw [h.stream]) (by rw [h.stream]) (by rw [h.stream])
    · rw [h.others j e]

theorem leaveStall_fillFrame (s : State) (i : StreamIx) (cfg : StreamConfig) (a : DriveIx) :
    FillHandedOff s ((s.leaveStall i).fillFrame i cfg a) i cfg a ((s.stream i).lastDispatched.getD 0) := by
  obtain ⟨hrest, hother, hstream, hflow⟩ := leaveStall_left s i
  generalize s.leaveStall i = x at *
  have hlast : (x.stream i).lastDispatched = (s.stream i).lastDispatched := by rw [hstream]
  obtain ⟨t, ht, he⟩ := fillFrame_appended x i cfg a
  rw [he]
  rw [hlast] at ht ⊢
  generalize (s.stream i).lastDispatched.getD 0 = number at ht ⊢
  have hS := Signals.occur t .fill (streamId i) number
  have hocc := stream_occur t .fill (streamId i) number
  have hrises := occur_rises t .fill (streamId i) number i (.inr rfl)
  have hoccurred : s.Occurred (t.occur .fill (streamId i) number) .fill (streamId i) number :=
    .of_occur rfl (by rw [ht.rest, hrest]) (by rw [ht.rest, hrest])
  generalize t.occur .fill (streamId i) number = y at *
  have hxd (b : DriveIx) : x.drive b = s.drive b := by
    rw [hrest]
    rfl
  have hdon : x.fillDonor = s.fillDonor := fillDonor_congr (by rw [hrest])
  have hcount : x.fillCount = s.fillCount := by
    funext i n b l
    rw [fillCount, hdon, fillCount]
  have hxseq : (x.stream i).nextSeq = (s.stream i).nextSeq := by rw [hstream]
  have hxc : (x.stream i).counters = (s.stream i).counters := by rw [hstream]
  have hrec : x.fillRecord i cfg number = s.fillRecord i cfg number := by
    rw [fillRecord, hdon, hxseq, fillRecord]
  refine ⟨?_, fun b hb => ?_, ?_, ?_, ?_, ?_, ?_, fun j hj => ?_, ?_, fun c => ?_, hoccurred,
    (hflow.trans ht.rises).trans hrises⟩
  · rw [hS.drive, ht.drive, hxd, hrec]
  · rw [hS.drive, ht.drives b hb, hxd]
  · rw [hS.burn, ht.rest, hrest]
  · rw [hS.plans, ht.rest, hrest]
  · rw [hS.dir, ht.rest, hrest]
  · rw [hS.engine, ht.rest, hrest]
  · rw [hS.store, ht.rest, hdon, hrest]
  · rw [hocc, ht.others j hj, hother j hj]
    exact ⟨rfl, rfl, rfl⟩
  · rw [hocc, ht.stream, hstream]
  · have := ht.counters c
    rw [hcount, hxc] at this
    rw [hS.counters, this]

/-- The stripes of a fill frame (R109). -/
theorem fillRecord_stripe (s : State) (i : StreamIx) (cfg : StreamConfig) (number : Word32) {k : Nat}
    (hk : k < cfg.stripes) : (s.fillRecord i cfg number).stripes[k]? = some
      (match s.dir.lookup i k (Directory.filling number) with
       | some d => { state := .repaired, cause := none, slot := some d.slot, generation := some d.generation,
                     method := some .fallback, donors := [d.number], resume := 0 }
       | none => { state := .marked, cause := none, slot := none, generation := none, method := some .mark,
                   donors := [], resume := 0 }) := by
  show ((List.range cfg.stripes).map _)[k]? = _
  rw [List.getElem?_map, List.getElem?_range hk, Option.map_some, fillDonor]
  cases s.dir.lookup i k (Directory.filling number) <;> rfl

/-- A fill frame is dispatched (R108). -/
theorem dispatched_fill {s : State} {i : StreamIx} {cfg : StreamConfig} {a : DriveIx} {after : Cadence}
    (hafter : { (s.stream i).cadence.advance with running := after.running } = after)
    (hw : (s.stream i).window = []) :
    s.Dispatched (((s.leaveStall i).fillFrame i cfg a).advanceCadence i) i cfg a after := by
  have h := leaveStall_fillFrame s i cfg a
  generalize (s.leaveStall i).fillFrame i cfg a = t at h
  generalize hnum : (s.stream i).lastDispatched.getD 0 = number at h
  have hti : (t.advanceCadence i).stream i = { s.stream i with
      state := if (s.stream i).state = .stalled then .running else (s.stream i).state
      nextSeq := (s.stream i).nextSeq + 1, counters := (t.stream i).counters, paused := (t.stream i).paused
      cadence := { (s.stream i).cadence with running := (t.stream i).cadence.running }.advance } := by
    rw [stream_advanceCadence_same, h.stream]
  have hcount : ((t.advanceCadence i).stream i).counters = (t.stream i).counters := by rw [hti]
  have hnone (o : Option Donor) : (o.isSome == false) = o.isNone := by cases o <;> rfl
  have hgn : (s.fillRecord i cfg number).number = number := rfl
  refine ⟨s.fillRecord i cfg number, .fill, h.drive, h.drives, h.burn, h.plans, fun j hj => ?_, by rw [hti], ?_,
    h.flow.judged.advanced, by rw [hti], rfl, rfl, rfl, FrameRec.queued_note _ _ _, fun f rest hw' => ?_, fun _ => ?_⟩
  · rw [stream_advanceCadence_other t hj]
    exact h.others j hj
  · rw [hti, ← hafter]
    exact (Cadence.advance_running _ _).trans (Cadence.advance_running (s.stream i).cadence _).symm
  · simp [hw] at hw'
  · rw [hcount]
    refine ⟨rfl, by rw [hti]; exact hw, hnum.symm, by rw [hti], rfl, rfl, rfl, rfl, rfl, ?_,
      fun k => fillRecord_stripe s i cfg number, ?_, ?_, ?_, fun c h1 h2 h3 => ?_, h.store, h.dir, h.engine, h.occurred.congr rfl rfl rfl rfl⟩
    · show ((List.range cfg.stripes).map _).length = _
      simp
    · rw [h.counters]
      simp
    · rw [h.counters]
      simp [fillCount, fillDonor, hgn]
    · rw [h.counters]
      simp [fillCount, fillDonor, hgn, hnone]
    · rw [h.counters]
      simp [h1, h2, h3]

end State
end Sys2Proof.Machine

/-! PROOFS. The target drive of a dispatch slot (R144, R145), the answer NONE (R99), slips (R100), and the expiry (R94). -/

namespace Sys2Proof.Machine.State

/-! ### A drive's room (R144) -/

theorem readyFor_iff (s : State) (a : DriveIx) {need : Nat} (h : 0 < need) : s.readyFor a need = true ↔
    (s.drive a).condition = .ready ∧ ∃ q : Word32,
      (s.drive a).remaining = some q ∧ need + (s.drive a).committed ≤ q.toNat := by
  rw [readyFor, Bool.and_eq_true, beq_iff_eq, decide_eq_true_iff, DriveRec.uncommitted]
  refine and_congr_right fun _ => ?_
  cases (s.drive a).remaining with
  | none =>
    constructor
    · intro hn
      dsimp only at hn
      omega
    · rintro ⟨q, hq, -⟩
      cases hq
  | some q =>
    dsimp only
    constructor
    · exact fun hq => ⟨q, rfl, by omega⟩
    · rintro ⟨p, hp, hq⟩
      cases hp
      omega

theorem active_binding {s : State} {i : StreamIx} {a : DriveIx} (h : s.activeOf i = some a) :
    (s.drive a).binding = .active i := by
  simpa using List.find?_some h

/-! ### A capacity failure (R140, R144, R145) -/

theorem setCondition_full (s : State) (a : DriveIx) (h : (s.drive a).condition = .ready) :
    s.setCondition a .full = (s.setDrive a { s.drive a with condition := .full }).occur .mediaNeeded (driveAddress a)
      ((s.drive a).remaining.getD 0) := by
  simp [setCondition, h, leftHeld, enteredFull, renewsAsk, Condition.stopsTransfer, Condition.outOfService, modDrive]

/-- What a capacity failure of drive `a` makes of a state. -/
structure FailedOn (s t : State) (a : DriveIx) : Prop where
  rest : t = { s with
    streams := t.streams, drives := t.drives, monitor := t.monitor
    ret := { s.ret with flowSet := t.ret.flowSet, outbox := t.ret.outbox } }
  stream : ∀ j, t.stream j = { s.stream j with
    paused := (t.stream j).paused
    cadence := { (s.stream j).cadence with running := (t.stream j).cadence.running } }
  drive : t.drive a = { s.drive a with
    condition := if (s.drive a).condition = .ready then .full else (s.drive a).condition }
  drives : ∀ b, b ≠ a → t.drive b = s.drive b
  occurred : (s.drive a).condition = .ready →
    s.Occurred t .mediaNeeded (driveAddress a) ((s.drive a).remaining.getD 0)
  silent : (s.drive a).condition ≠ .ready → s.Silent t
  flow : ∀ i, FlowRises s t i

theorem capacityFailed_failedOn (s : State) (a : DriveIx) :
    FailedOn s (s.capacityFailed a (s.drive a).condition) a := by
  unfold capacityFailed
  split
  next h =>
    rw [setCondition_full s a h]
    have hS := Signals.occur (s.setDrive a { s.drive a with condition := .full }) .mediaNeeded (driveAddress a)
      ((s.drive a).remaining.getD 0)
    have hocc := stream_occur (s.setDrive a { s.drive a with condition := .full }) .mediaNeeded (driveAddress a)
      ((s.drive a).remaining.getD 0)
    have hrises (i : StreamIx) := occur_rises (s.setDrive a { s.drive a with condition := .full }) .mediaNeeded
      (driveAddress a) ((s.drive a).remaining.getD 0) i (.inl rfl)
    have hoccurred : s.Occurred ((s.setDrive a { s.drive a with condition := .full }).occur .mediaNeeded (driveAddress a)
      ((s.drive a).remaining.getD 0)) .mediaNeeded (driveAddress a) ((s.drive a).remaining.getD 0) :=
      .of_occur rfl rfl rfl
    generalize (s.setDrive a { s.drive a with condition := .full }).occur .mediaNeeded (driveAddress a)
      ((s.drive a).remaining.getD 0) = t at *
    have hset (i : StreamIx) : FlowRises s (s.setDrive a { s.drive a with condition := .full }) i :=
      .of_same i (fun _ => rfl) rfl rfl fun _ => rfl
    refine ⟨?_, hocc, ?_, fun b hb => ?_, fun _ => hoccurred, fun hn => absurd h hn, fun i => (hset i).trans (hrises i)⟩
    · rw [hS.rest]
      rfl
    · rw [hS.drive, drive_setDrive_same, if_pos h]
    · rw [hS.drive, drive_setDrive_other s _ hb.symm]
  next h =>
    exact ⟨rfl, fun _ => rfl, by rw [if_neg h], fun _ _ => rfl, fun hr => absurd hr h, fun _ => ⟨rfl, rfl⟩, .refl s⟩

/-! ### A span at dispatch (R145) -/

/-- What a span of stream `i` from drive `a` to drive `b` makes of a state, `v` standing before SPAN occurs. -/
structure SpannedTo (s v t : State) (i : StreamIx) (a b : DriveIx) : Prop where
  rest : t = { s with
    streams := t.streams, drives := t.drives, monitor := t.monitor
    ret := { s.ret with flowSet := t.ret.flowSet, outbox := t.ret.outbox } }
  stream : ∀ j, t.stream j = { s.stream j with
    paused := (t.stream j).paused
    cadence := { (s.stream j).cadence with running := (t.stream j).cadence.running } }
  old : t.drive a = { s.drive a with
    binding := .standby i
    condition := if (s.drive a).condition = .ready then .full else (s.drive a).condition }
  new : t.drive b = { s.drive b with binding := .active i }
  drives : ∀ x, x ≠ a → x ≠ b → t.drive x = s.drive x
  failed : (s.drive a).condition = .ready →
    s.Occurred v .mediaNeeded (driveAddress a) ((s.drive a).remaining.getD 0)
  silent : (s.drive a).condition ≠ .ready → s.Silent v
  occurred : v.Occurred t .span (streamId i) (BitVec.ofNat 32 (driveAddress b))
  flow : FlowRises s t i

theorem swapRoles_eq (s : State) (i : StreamIx) (a b : DriveIx) (h : b ≠ a) : s.swapRoles i a b =
    (s.setDrive b { s.drive b with binding := .active i }).setDrive a { s.drive a with binding := .standby i } := by
  unfold swapRoles modDrive
  rw [drive_setDrive_other s _ h]

theorem spanned_spannedTo (s : State) (i : StreamIx) (a b : DriveIx) (hne : b ≠ a) :
    SpannedTo s ((s.swapRoles i a b).capacityFailed a (s.drive a).condition)
      (s.spanned i a b (s.drive a).condition) i a b := by
  have hrest : s.swapRoles i a b = { s with drives := (s.swapRoles i a b).drives } := rfl
  have ha : (s.swapRoles i a b).drive a = { s.drive a with binding := .standby i } := by
    rw [swapRoles_eq s i a b hne, drive_setDrive_same]
  have hb : (s.swapRoles i a b).drive b = { s.drive b with binding := .active i } := by
    rw [swapRoles_eq s i a b hne, drive_setDrive_other _ _ hne.symm, drive_setDrive_same]
  have hx (x : DriveIx) (h1 : x ≠ a) (h2 : x ≠ b) : (s.swapRoles i a b).drive x = s.drive x := by
    rw [swapRoles_eq s i a b hne, drive_setDrive_other _ _ h1.symm, drive_setDrive_other _ _ h2.symm]
  have hstream (j : StreamIx) : (s.swapRoles i a b).stream j = s.stream j := rfl
  have hflow : FlowRises s (s.swapRoles i a b) i := .of_same i (fun _ => rfl) rfl rfl fun _ => rfl
  unfold spanned
  generalize s.swapRoles i a b = w at *
  have hF := capacityFailed_failedOn w a
  have hc : (w.drive a).condition = (s.drive a).condition := by rw [ha]
  have hq : (w.drive a).remaining = (s.drive a).remaining := by rw [ha]
  have hocc := hF.occurred
  have hsil := hF.silent
  have hdrive := hF.drive
  rw [hc, hq] at hocc
  rw [hc] at hsil hF
  rw [hc, ha] at hdrive
  generalize w.capacityFailed a (s.drive a).condition = v at *
  have hS := Signals.occur v .span (streamId i) (BitVec.ofNat 32 (driveAddress b))
  have hst := stream_occur v .span (streamId i) (BitVec.ofNat 32 (driveAddress b))
  have hrises := occur_rises v .span (streamId i) (BitVec.ofNat 32 (driveAddress b)) i (.inr rfl)
  refine ⟨?_, fun j => ?_, ?_, ?_, fun x h1 h2 => ?_, fun h => (hocc h).congr ?_ ?_ rfl rfl, fun h => ?_,
    .of_occur rfl rfl rfl, (hflow.trans (hF.flow i)).trans hrises⟩
  · rw [hS.rest, hF.rest, hrest]
  · rw [hst, hF.stream, hstream]
  · rw [hS.drive, hdrive]
  · rw [hS.drive, hF.drives b hne, hb]
  · rw [hS.drive, hF.drives x h1, hx x h1 h2]
  · rw [hrest]
  · rw [hrest]
  · obtain ⟨h1, h2⟩ := hsil h
    exact ⟨h1.trans (by rw [hrest]), h2.trans (by rw [hrest])⟩

/-! ### The answer NONE (R99) -/

/-- What the answer NONE makes of a state. -/
structure StalledOn (s t : State) (i : StreamIx) : Prop where
  rest : t = { s with
    streams := t.streams, monitor := t.monitor
    ret := { s.ret with flowSet := t.ret.flowSet, outbox := t.ret.outbox } }
  others : ∀ j, j ≠ i → t.stream j = { s.stream j with
    paused := (t.stream j).paused
    cadence := { (s.stream j).cadence with running := (t.stream j).cadence.running } }
  stream : t.stream i = { s.stream i with
    state := if (s.stream i).state = .running then .stalled else (s.stream i).state
    paused := (t.stream i).paused
    cadence := { (s.stream i).cadence with running := (t.stream i).cadence.running } }
  occurred : (s.stream i).state = .running →
    s.Occurred t .stall (streamId i) (((s.stream i).window.head?.map (·.number)).getD 0)
  silent : (s.stream i).state ≠ .running → s.Silent t
  flow : FlowRises s t i

theorem enterStall_idle (s : State) (i : StreamIx) (h : (s.stream i).state ≠ .running) : s.enterStall i = s := if_neg h

theorem enterStall_stalledOn (s : State) (i : StreamIx) : StalledOn s (s.enterStall i) i := by
  by_cases h : (s.stream i).state = .running
  · unfold enterStall
    rw [if_pos h]
    generalize hn : ((s.stream i).window.head?.map (·.number)).getD 0 = n
    have hpaused (j : StreamIx) : ((s.modStream i fun r => { r with state := .stalled }).stream j).paused =
        (s.stream j).paused := by
      by_cases e : j = i
      · subst e
        rw [stream_modStream_same]
      · rw [stream_modStream_other s _ (Ne.symm e)]
    have hocc : ((s.modStream i fun r => { r with state := .stalled }).stream i).occupancyReason =
        (s.stream i).occupancyReason := by
      rw [stream_modStream_same, StreamRec.occupancyReason, StreamRec.occupancyReason, h]
      rfl
    have hreason : (s.modStream i fun r => { r with state := .stalled }).pauseReason i = s.pauseReason i := by
      rw [pauseReason, hocc]
      rfl
    have hj := judgeFlow_judged (s := s) i hpaused rfl
    have hji := stream_judgeFlow_same (s.modStream i fun r => { r with state := .stalled }) i
    rw [stream_modStream_same] at hji
    have hjo (j : StreamIx) (hj : j ≠ i) :=
      (stream_judgeFlow_other (s.modStream i fun r => { r with state := .stalled }) hj).trans
        (stream_modStream_other s _ hj.symm)
    have hjr := (pauseReason_judgeFlow (s.modStream i fun r => { r with state := .stalled }) i).trans hreason
    have hrest : (s.modStream i fun r => { r with state := .stalled }).judgeFlow i = { s with
        streams := ((s.modStream i fun r => { r with state := .stalled }).judgeFlow i).streams
        ret := { s.ret with
          flowSet := ((s.modStream i fun r => { r with state := .stalled }).judgeFlow i).ret.flowSet } } := by
      rw [judgeFlow_eq]
      rfl
    generalize (s.modStream i fun r => { r with state := .stalled }).judgeFlow i = u at *
    have hflow : FlowRises s u i := by
      refine ⟨hj, fun hx => hjr.trans hx, fun j => ?_⟩
      by_cases e : j = i
      · subst e
        rw [hji, StreamRec.occupancyReason, StreamRec.occupancyReason, h]
        rfl
      · rw [hjo j e]
    have hS := Signals.occur u .stall (streamId i) n
    have hst := stream_occur u .stall (streamId i) n
    refine ⟨?_, fun j hj => ?_, ?_, fun _ => ?_, fun hn => absurd h hn,
      hflow.trans (occur_rises u .stall (streamId i) n i (.inr rfl))⟩
    · rw [hS.rest, hrest]
    · rw [hst, hjo j hj]
    · rw [hst, hji, if_pos h]
    · rw [hn]
      exact .of_occur rfl (by rw [hrest]) (by rw [hrest])
  · rw [enterStall_idle s i h]
    exact ⟨rfl, fun _ _ => rfl, by rw [if_neg h], fun hr => absurd hr h, fun _ => ⟨rfl, rfl⟩, .refl s i⟩

end Sys2Proof.Machine.State

/-! PROOFS. The cadence expiry (R94): no slot, a slip, the end of a drain, and a dispatch slot by the answer of its drive
(R97 to R100, R110, R144, R145). -/

namespace Sys2Proof.Machine.State

/-! ### The dispatch decision by the drive's answer (R98, R99) -/

/-- A dispatch slot whose drive takes the frame (R99). -/
def takeSlot (s : State) (i : StreamIx) (cfg : StreamConfig) (a : DriveIx) : State :=
  if ((s.leaveStall i).stream i).window.isEmpty then (s.leaveStall i).fillFrame i cfg a
  else (s.leaveStall i).dispatchHead i cfg a

section
variable {s : State} {i : StreamIx} {cfg : StreamConfig} {a b : DriveIx}

theorem decideByDrive_ready (ha : s.activeOf i = some a)
    (hr : s.readyFor a (sectorNeed cfg.stripes cfg.stripeSize) = true) :
    s.decideByDrive i cfg = if (s.drive a).queue.length < 4 then s.takeSlot i cfg a else s.slip i := by
  unfold decideByDrive askDrive
  rw [ha]
  dsimp only
  rw [if_pos hr, takeOrWait]
  by_cases h : (s.drive a).queue.length < 4
  · rw [if_pos h, if_pos h]
    rfl
  · rw [if_neg h, if_neg h]

theorem decideByDrive_span (ha : s.activeOf i = some a)
    (hr : s.readyFor a (sectorNeed cfg.stripes cfg.stripeSize) = false) (hb : s.standbyOf i = some b)
    (hrb : s.readyFor b (sectorNeed cfg.stripes cfg.stripeSize) = true) {u : State}
    (hu : s.spanned i a b (s.drive a).condition = u) :
    s.decideByDrive i cfg = if (u.drive b).queue.length < 4 then u.takeSlot i cfg b else u.slip i := by
  unfold decideByDrive askDrive
  rw [ha]
  dsimp only
  rw [if_neg (by simp [hr]), hb]
  dsimp only
  rw [if_pos hrb, hu, takeOrWait]
  by_cases h : (u.drive b).queue.length < 4
  · rw [if_pos h, if_pos h]
    rfl
  · rw [if_neg h, if_neg h]

theorem decideByDrive_none (ha : s.activeOf i = some a)
    (hr : s.readyFor a (sectorNeed cfg.stripes cfg.stripeSize) = false)
    (hb : ∀ b, s.standbyOf i = some b → s.readyFor b (sectorNeed cfg.stripes cfg.stripeSize) = false) :
    s.decideByDrive i cfg = ((s.capacityFailed a (s.drive a).condition).enterStall i).slip i := by
  unfold decideByDrive askDrive
  rw [ha]
  dsimp only
  rw [if_neg (by simp [hr])]
  cases hs : s.standbyOf i with
  | none => rfl
  | some b =>
    dsimp only
    rw [if_neg (by simp [hb b hs])]

theorem decideByDrive_unbound (ha : s.activeOf i = none) : s.decideByDrive i cfg = (s.enterStall i).slip i := by
  unfold decideByDrive askDrive
  rw [ha]

end

/-- A slot whose drive takes the frame dispatches one (R101, R108). -/
theorem dispatched_takeSlot {s : State} {i : StreamIx} {cfg : StreamConfig} {a : DriveIx} {after : Cadence}
    (hafter : { (s.stream i).cadence.advance with running := after.running } = after)
    (hp : ((s.stream i).window.map (·.number)).Pairwise (· < ·)) :
    s.Dispatched ((s.takeSlot i cfg a).advanceCadence i) i cfg a after := by
  obtain ⟨-, -, hstream, -⟩ := leaveStall_left s i
  have hwin : ((s.leaveStall i).stream i).window = (s.stream i).window := by rw [hstream]
  unfold takeSlot
  rw [hwin]
  cases hw : (s.stream i).window with
  | nil => exact dispatched_fill hafter hw
  | cons f rest =>
    have hr : ∀ q ∈ rest, q.number ≠ f.number := by
      have := hw ▸ hp
      exact (number_ne_of_append (before := []) this).2
    exact dispatched_head hafter hw hr hp

/-! ### The expiry (R94) -/

/-- The record of a stream whose slot slips (R94, R100). -/
theorem slip_advanceCadence (s : State) (i : StreamIx) : (s.slip i).advanceCadence i = s.setStream i { s.stream i with
    cadence := (s.stream i).cadence.advance
    counters := (s.stream i).counters.set Counter.slips.ix ((s.stream i).counters[Counter.slips.ix] + 1) } := by
  have h : s.slip i = s.setStream i { s.stream i with
      counters := (s.stream i).counters.set Counter.slips.ix ((s.stream i).counters[Counter.slips.ix] + 1) } := rfl
  rw [h, advanceCadence, stream_setStream_same, setStream_setStream]

section
variable {s : State} {i : StreamIx} {p : BitVec 8} (hrun : (s.stream i).cadence.running = true)
  (hpat : (s.stream i).cadence.pattern = some p)
include hrun

theorem exec_cadenceExpiry : exec (.cadenceExpiry i) s = .next (s.cadenceExpired i).takeWork.kick := by
  have : exec (.cadenceExpiry i) s = .next (s.cadenceEvent i) := rfl
  rw [this, cadenceEvent, if_pos hrun]

include hpat

theorem cadenceExpired_off (h : p.getLsbD (s.stream i).cadence.position.val = false) :
    s.cadenceExpired i = s.advanceCadence i := by
  have ha : (s.stream i).cadence.atSlot = false := by rw [Cadence.atSlot, hpat]; exact h
  simp only [cadenceExpired, hrun, ha]
  rfl

variable (hslot : p.getLsbD (s.stream i).cadence.position.val = true)
include hslot

theorem cadenceExpired_drained (h1 : (s.stream i).state = .draining) (h2 : (s.stream i).window = []) :
    s.cadenceExpired i = s.dispatchSlot i := by
  have ha : (s.stream i).cadence.atSlot = true := by rw [Cadence.atSlot, hpat]; exact hslot
  simp [cadenceExpired, hrun, ha, h1, h2]

theorem cadenceExpired_slot (h : (s.stream i).state ≠ .draining ∨ (s.stream i).window ≠ []) :
    s.cadenceExpired i = (s.dispatchSlot i).advanceCadence i := by
  have ha : (s.stream i).cadence.atSlot = true := by rw [Cadence.atSlot, hpat]; exact hslot
  have hn : ¬((s.stream i).state = .draining ∧ (s.stream i).window = []) := fun e => h.elim (· e.1) (· e.2)
  simp only [cadenceExpired, hrun, ha, if_true, if_neg hn]
  rfl

end

theorem dispatchSlot_drive {s : State} {i : StreamIx} {cfg : StreamConfig} (hc : (s.stream i).config = some cfg)
    (h : (s.stream i).window ≠ [] ∨
      ((s.stream i).state ≠ .draining ∧ cfg.fillAllowed = true ∧ s.recordFree = true)) :
    s.dispatchSlot i = s.decideByDrive i cfg := by
  unfold dispatchSlot
  rw [hc]
  dsimp only
  cases hw : (s.stream i).window with
  | nil =>
    obtain ⟨h1, h2, h3⟩ := h.resolve_left fun hn => hn hw
    simp [h1, h2, h3]
  | cons f rest => rfl

theorem dispatchSlot_slip {s : State} {i : StreamIx} {cfg : StreamConfig} (hc : (s.stream i).config = some cfg)
    (hw : (s.stream i).window = []) (h1 : (s.stream i).state ≠ .draining)
    (h2 : cfg.fillAllowed = false ∨ s.recordFree = false) : s.dispatchSlot i = s.slip i := by
  unfold dispatchSlot
  rw [hc]
  dsimp only
  rw [hw]
  obtain h2 | h2 := h2 <;> simp [h1, h2]

theorem dispatchSlot_drained {s : State} {i : StreamIx} {cfg : StreamConfig} (hc : (s.stream i).config = some cfg)
    (hw : (s.stream i).window = []) (h1 : (s.stream i).state = .draining) :
    s.dispatchSlot i = s.completeDrain i := by
  unfold dispatchSlot
  rw [hc]
  dsimp only
  rw [hw]
  simp [h1]

end Sys2Proof.Machine.State

/-! PROOFS. What a cadence expiry makes of a state, by the answer of the target drive (R94 to R110, R144, R145). -/

namespace Sys2Proof.Streams

open Machine Machine.State

section
variable {s : State} {i : StreamIx} {cfg : StreamConfig} {p : BitVec 8}
  (hrun : (s.stream i).cadence.running = true) (hpat : (s.stream i).cadence.pattern = some p)
  (hcfg : (s.stream i).config = some cfg) (hslot : p.getLsbD (s.stream i).cadence.position.val = true)
include hrun hpat hcfg hslot

/-- The slot that completes a drain (R16, R95, R110). -/
theorem drain_completed {tag : Word16} (hw : (s.stream i).window = []) (hd : (s.stream i).state = .draining)
    (htag : (s.stream i).stopTag = some tag) :
    ∃ t : State, exec (.cadenceExpiry i) s = .next t.takeWork.kick ∧ (t.stream i).state = .configured ∧
      (t.stream i).stopTag = none ∧ (t.stream i).cadence = { (s.stream i).cadence with
        running := false, position := 0, pattern := some cfg.pattern, pendingPattern := none } ∧
      (t.stream i).counters = (s.stream i).counters ∧ t.ret.replies = s.ret.replies ++
        [{ immediate := false, reply := { tag := tag, answer := .done .empty } }] ∧
      (∀ a, (t.drive a).binding.stream ≠ some i) ∧
      (∀ w b, t.watch w = some b → b.suspension ≠ some i) ∧ (t.stream i).paused = false ∧
      t.ret.flowSet = (if (s.stream i).paused = true then
        (s.ret.flowSet.filter fun f => f.stream != i) ++ [{ stream := i, pause := false }] else s.ret.flowSet) ∧
      (∀ j, j ≠ i → t.stream j = s.stream j) ∧ t.store = s.store ∧ t.dir = s.dir ∧ t.burn = s.burn := by
  have he := endSession_ended s i
  have ht : s.cadenceExpired i = (s.endSession i).answerStop i (.done .empty) := by
    rw [cadenceExpired_drained hrun hpat hslot hd hw, dispatchSlot_drained hcfg hw hd, completeDrain]
  rw [exec_cadenceExpiry hrun, ht]
  have ha := answerStop_eq (s.endSession i) i (.done .empty)
  generalize s.endSession i = u at he ha
  have hstop : (u.stream i).stopTag = some tag := by
    rw [he.stream]
    exact htag
  rw [hstop] at ha
  refine ⟨_, rfl, ?_⟩
  generalize u.answerStop i (.done .empty) = t at ha
  have hst : t.stream i = { (s.stream i).ended with paused := false, stopTag := none } := by
    rw [ha]
    refine (stream_setStream_same u i _).trans ?_
    rw [he.stream]
  have hdrive (a : DriveIx) : t.drive a = u.drive a := by
    rw [ha]
    rfl
  have hwatch (w : Fin 16) : t.watch w = u.watch w := by
    rw [ha]
    rfl
  have hother (j : StreamIx) (hj : j ≠ i) : t.stream j = s.stream j := by
    rw [ha]
    exact (stream_setStream_other u _ hj.symm).trans (he.others j hj)
  rw [hst]
  refine ⟨rfl, rfl, ?_, rfl, ?_, fun a => ?_, fun w b hb => ?_, rfl, ?_, hother, ?_, ?_, ?_⟩
  · simp only [StreamRec.ended, hcfg, Option.map_some]
  · rw [ha, he.rest]
  · rw [hdrive]
    exact he.unbound a
  · rw [hwatch] at hb
    exact he.unsuspended w b hb
  · rw [ha, he.rest]
  · rw [ha, he.rest]
    rfl
  · rw [ha, he.rest]
    rfl
  · rw [ha, he.rest]
    rfl

/-- A slot without a frame to dispatch, where none is to be made (R97, R100). -/
theorem slot_slips (hw : (s.stream i).window = []) (hd : (s.stream i).state ≠ .draining)
    (h : cfg.fillAllowed = false ∨ s.recordFree = false) :
    exec (.cadenceExpiry i) s = .next (s.setStream i { s.stream i with
      cadence := (s.stream i).cadence.advance
      counters := (s.stream i).counters.set Counter.slips.ix
        ((s.stream i).counters[Counter.slips.ix] + 1) }).takeWork.kick := by
  rw [exec_cadenceExpiry hrun, cadenceExpired_slot hrun hpat hslot (.inl hd), dispatchSlot_slip hcfg hw hd h,
    slip_advanceCadence]

section
variable (hgo : (s.stream i).window ≠ [] ∨
  ((s.stream i).state ≠ .draining ∧ cfg.fillAllowed = true ∧ s.recordFree = true))
include hgo

/-- A slot that asks its drive (R97, R98). -/
theorem slot_decides : exec (.cadenceExpiry i) s =
    .next ((s.decideByDrive i cfg).advanceCadence i).takeWork.kick := by
  have h : (s.stream i).state ≠ .draining ∨ (s.stream i).window ≠ [] := hgo.symm.imp_left fun h => h.1
  rw [exec_cadenceExpiry hrun, cadenceExpired_slot hrun hpat hslot h, dispatchSlot_drive hcfg hgo]

/-- The ACTIVE drive answers (R99, R144). -/
theorem slot_active {a : DriveIx} (ha : s.activeOf i = some a)
    (hr : s.readyFor a (sectorNeed cfg.stripes cfg.stripeSize) = true)
    (hp : ((s.stream i).window.map (·.number)).Pairwise (· < ·)) :
    (4 ≤ (s.drive a).queue.length → exec (.cadenceExpiry i) s = .next (s.setStream i { s.stream i with
      cadence := (s.stream i).cadence.advance
      counters := (s.stream i).counters.set Counter.slips.ix
        ((s.stream i).counters[Counter.slips.ix] + 1) }).takeWork.kick) ∧
    ((s.drive a).queue.length < 4 → ∃ t : State, exec (.cadenceExpiry i) s = .next t.takeWork.kick ∧
      s.Dispatched t i cfg a (s.stream i).cadence.advance) := by
  rw [slot_decides hrun hpat hcfg hslot hgo, decideByDrive_ready ha hr]
  refine ⟨fun hq => ?_, fun hq => ⟨_, rfl, ?_⟩⟩
  · rw [if_neg (Nat.not_lt.2 hq), slip_advanceCadence]
  · rw [if_pos hq]
    exact dispatched_takeSlot rfl hp

/-- The STANDBY drive takes over and answers (R145). -/
theorem slot_standby {a b : DriveIx} (ha : s.activeOf i = some a)
    (hr : s.readyFor a (sectorNeed cfg.stripes cfg.stripeSize) = false) (hb : s.standbyOf i = some b)
    (hrb : s.readyFor b (sectorNeed cfg.stripes cfg.stripeSize) = true)
    (hp : ((s.stream i).window.map (·.number)).Pairwise (· < ·)) : ∃ u v : State,
      SpannedTo s v u i a b ∧
      (4 ≤ (s.drive b).queue.length → exec (.cadenceExpiry i) s = .next (u.setStream i { u.stream i with
        cadence := { (s.stream i).cadence.advance with running := (u.stream i).cadence.running }
        counters := (s.stream i).counters.set Counter.slips.ix
          ((s.stream i).counters[Counter.slips.ix] + 1) }).takeWork.kick) ∧
      ((s.drive b).queue.length < 4 → ∃ t : State, exec (.cadenceExpiry i) s = .next t.takeWork.kick ∧
        u.Dispatched t i cfg b (s.stream i).cadence.advance) := by
  have hne : b ≠ a := by
    rintro rfl
    have := (active_binding ha).symm.trans (standby_binding hb)
    cases this
  have hS := spanned_spannedTo s i a b hne
  have hdec := slot_decides hrun hpat hcfg hslot hgo
  rw [decideByDrive_span ha hr hb hrb rfl] at hdec
  generalize s.spanned i a b (s.drive a).condition = u at hS hdec
  have hq : (u.drive b).queue = (s.drive b).queue := by rw [hS.new]
  have hsame : (u.stream i).cadence =
      { (s.stream i).cadence with running := (u.stream i).cadence.running } := by rw [hS.stream]
  have hcad (x : Bool) : { (u.stream i).cadence.advance with running := x } =
      { (s.stream i).cadence.advance with running := x } :=
    calc { (u.stream i).cadence.advance with running := x }
      _ = ({ (u.stream i).cadence with running := x } : Cadence).advance := Cadence.advance_running _ x
      _ = ({ (s.stream i).cadence with running := x } : Cadence).advance :=
        (congrArg (fun c : Cadence => ({ c with running := x } : Cadence).advance) hsame).trans rfl
      _ = { (s.stream i).cadence.advance with running := x } := (Cadence.advance_running _ x).symm
  have hcnt : (u.stream i).counters = (s.stream i).counters := by rw [hS.stream]
  have hwin : (u.stream i).window = (s.stream i).window := by rw [hS.stream]
  rw [hq] at hdec
  refine ⟨u, _, hS, fun h => ?_, fun h => ?_⟩
  · have hadv : (u.stream i).cadence.advance =
        { (s.stream i).cadence.advance with running := (u.stream i).cadence.running } :=
      (congrArg Cadence.advance hsame).trans (Cadence.advance_running _ _).symm
    rw [hdec, if_neg (Nat.not_lt.2 h), slip_advanceCadence, hadv, hcnt]
  · rw [if_pos h] at hdec
    exact ⟨_, hdec, dispatched_takeSlot (hcad _) (by rwa [hwin])⟩

/-- No drive takes the frame: the ACTIVE drive lacks room or is not READY, and no STANDBY drive takes over (R99, R144). -/
theorem slot_none {a : DriveIx} (ha : s.activeOf i = some a)
    (hr : s.readyFor a (sectorNeed cfg.stripes cfg.stripeSize) = false)
    (hb : ∀ b, s.standbyOf i = some b → s.readyFor b (sectorNeed cfg.stripes cfg.stripeSize) = false) :
    ∃ v w : State, exec (.cadenceExpiry i) s = .next ((w.slip i).advanceCadence i).takeWork.kick ∧ FailedOn s v a ∧
      StalledOn v w i := by
  have hdec := slot_decides hrun hpat hcfg hslot hgo
  rw [decideByDrive_none ha hr hb] at hdec
  exact ⟨_, _, hdec, capacityFailed_failedOn s a, enterStall_stalledOn _ i⟩

/-- The stream has no ACTIVE drive (R99). -/
theorem slot_unbound (ha : s.activeOf i = none) :
    ∃ w : State, exec (.cadenceExpiry i) s = .next ((w.slip i).advanceCadence i).takeWork.kick ∧ StalledOn s w i ∧
      ((s.stream i).state ≠ .running → w = s) := by
  have hdec := slot_decides hrun hpat hcfg hslot hgo
  rw [decideByDrive_unbound ha] at hdec
  exact ⟨_, hdec, enterStall_stalledOn s i, enterStall_idle s i⟩

end

end

/-- A state in which the slot has slipped and the cadence unit has advanced. -/
structure Slipped (s t : State) (i : StreamIx) : Prop where
  rest : t = { s with streams := t.streams }
  others : ∀ j, j ≠ i → t.stream j = s.stream j
  stream : t.stream i = { s.stream i with
    cadence := (s.stream i).cadence.advance
    counters := (s.stream i).counters.set Counter.slips.ix ((s.stream i).counters[Counter.slips.ix] + 1) }
  judged : ∀ r : State, r.FlowJudged s i → r.FlowJudged t i

theorem slip_slipped (s : State) (i : StreamIx) : Slipped s ((s.slip i).advanceCadence i) i := by
  refine ⟨rfl, fun j hj => ?_, ?_, fun r h => ?_⟩
  · rw [slip_advanceCadence, stream_setStream_other s _ hj.symm]
  · rw [slip_advanceCadence, stream_setStream_same]
  · refine FlowJudged.advanced (h.congr (fun j => ?_) rfl ?_)
    · by_cases e : j = i
      · subst e
        exact (congrArg StreamRec.paused (stream_bumpBy_same s j .slips 1)).trans rfl
      · exact congrArg StreamRec.paused (stream_bumpBy_other s .slips 1 e)
    · have hocc := occupancyReason_of_length (r := s.stream i) (q := (s.slip i).stream i)
        (by rw [slip, bump, stream_bumpBy_same]) (by rw [slip, bump, stream_bumpBy_same])
        (by rw [slip, bump, stream_bumpBy_same])
      rw [pauseReason, hocc]
      rfl

end Sys2Proof.Streams

/-! PROOFS. CADENCE_EXPIRY, assembled (R94 to R110). -/

namespace Sys2Proof.Streams

open Machine Machine.State

/-- An expiry outside a slot (R94). -/
theorem expiry_off {s : State} {i : StreamIx} {p : BitVec 8} (hrun : (s.stream i).cadence.running = true)
    (hpat : (s.stream i).cadence.pattern = some p)
    (h : p.getLsbD (s.stream i).cadence.position.val = false) : exec (.cadenceExpiry i) s =
      .next (s.setStream i { s.stream i with cadence := (s.stream i).cadence.advance }).takeWork.kick := by
  rw [exec_cadenceExpiry hrun, cadenceExpired_off hrun hpat h]
  rfl

/-- The slot no drive takes (R99, R100, R140): what stands in the state `t` then, `v` being the state after the drive's
capacity failure. -/
theorem slot_none_spec {s v w t : State} {i : StreamIx} {a : DriveIx} (hF : FailedOn s v a) (hW : StalledOn v w i)
    (hL : Slipped w t i) :
    ((s.stream i).state = .running →
      v.Occurred t .stall (streamId i) (((s.stream i).window.head?.map (·.number)).getD 0)) ∧
    ((s.stream i).state ≠ .running → v.Silent t) ∧
    (t.stream i).state = (if (s.stream i).state = .running then .stalled else (s.stream i).state) ∧
    s.FlowJudged t i ∧ (t.stream i).window = (s.stream i).window ∧
    { (t.stream i).cadence with running := (s.stream i).cadence.advance.running } = (s.stream i).cadence.advance ∧
    (t.stream i).counters =
      (s.stream i).counters.set Counter.slips.ix ((s.stream i).counters[Counter.slips.ix] + 1) ∧
    t.drive a = { s.drive a with
      condition := if (s.drive a).condition = .ready then .full else (s.drive a).condition } ∧
    (∀ b, b ≠ a → t.drive b = s.drive b) ∧ t.store = s.store ∧ t.dir = s.dir ∧ t.engine = s.engine ∧
    t.burn = s.burn := by
  have hvs : (v.stream i).state = (s.stream i).state := by rw [hF.stream]
  have hvw : (v.stream i).window = (s.stream i).window := by rw [hF.stream]
  have hmon : t.monitor = w.monitor := by rw [hL.rest]
  have hout : t.ret.outbox = w.ret.outbox := by rw [hL.rest]
  have hdrive (b : DriveIx) : t.drive b = v.drive b := by
    rw [hL.rest, hW.rest]
    rfl
  have hcad : (w.stream i).cadence = { (s.stream i).cadence with running := (w.stream i).cadence.running } := by
    rw [hW.stream, hF.stream]
  have hcnt : (w.stream i).counters = (s.stream i).counters := by rw [hW.stream, hF.stream]
  have hocc := hW.occurred
  have hsil := hW.silent
  rw [hvs, hvw] at hocc
  rw [hvs] at hsil
  refine ⟨fun h => (hocc h).congr rfl rfl hmon hout, fun h => ?_, ?_, hL.judged s ((hF.flow i).trans hW.flow).judged, ?_, ?_,
    ?_, ?_, fun b hb => ?_, ?_, ?_, ?_, ?_⟩
  · obtain ⟨h1, h2⟩ := hsil h
    exact ⟨hmon.trans h1, hout.trans h2⟩
  · rw [hL.stream, ← hvs]
    exact congrArg StreamRec.state hW.stream
  · rw [hL.stream, ← hvw]
    exact (congrArg StreamRec.window hW.stream).trans rfl
  · rw [hL.stream]
    exact (Cadence.advance_running _ _).trans
      ((congrArg (fun c : Cadence => ({ c with running := _ } : Cadence).advance) hcad).trans
        (Cadence.advance_running (s.stream i).cadence _).symm)
  · rw [hL.stream, ← hcnt]
  · rw [hdrive, hF.drive]
  · rw [hdrive, hF.drives b hb]
  · rw [hL.rest, hW.rest, hF.rest]
  · rw [hL.rest, hW.rest, hF.rest]
  · rw [hL.rest, hW.rest, hF.rest]
  · rw [hL.rest, hW.rest, hF.rest]

/-- The slot of a RUNNING stream without an ACTIVE drive (R99, R100). -/
theorem slot_unbound_spec {s w t : State} {i : StreamIx} (hr : (s.stream i).state = .running) (hW : StalledOn s w i)
    (hL : Slipped w t i) : (t.stream i).state = .stalled ∧ s.FlowJudged t i ∧
      (t.stream i).window = (s.stream i).window ∧
      (t.stream i).counters[Counter.slips.ix] = (s.stream i).counters[Counter.slips.ix] + 1 ∧ t.drives = s.drives := by
  have hcnt : (w.stream i).counters = (s.stream i).counters := by rw [hW.stream]
  refine ⟨?_, hL.judged s hW.flow.judged, ?_, ?_, ?_⟩
  · rw [hL.stream]
    exact (congrArg StreamRec.state hW.stream).trans (if_pos hr)
  · rw [hL.stream]
    exact (congrArg StreamRec.window hW.stream).trans rfl
  · rw [hL.stream, hcnt]
    simp
  · rw [hL.rest, hW.rest]

/-- Settles O53: a `slot_…` theorem for each answer to the dispatch slot, and `drain_completed` for the end of a drain. -/
theorem cadenceExpiryDispatches : Obligations.CadenceExpiryDispatches := by
  intro s i r cfg p after need hr hrun hpat hcfg hneed hafter
  subst hr
  obtain rfl : after = (s.stream i).cadence.advance := hafter
  subst hneed
  refine ⟨expiry_off hrun hpat, fun hslot => ⟨slot_slips hrun hpat hcfg hslot, fun tag => drain_completed hrun hpat hcfg hslot,
    fun hgo hp => ⟨fun a ha hra => slot_active hrun hpat hcfg hslot hgo ha hra hp, fun a b ha hra hb hrb => ?_,
      fun a ha hra hb => ?_⟩, fun ha hw hst => ?_, fun ha hw hst => ?_⟩, fun a => active_binding, fun a => standby_binding,
    fun a => readyFor_iff s a (Nat.succ_pos _)⟩
  · obtain ⟨u, v, hS, hwait, htake⟩ := slot_standby hrun hpat hcfg hslot hgo ha hra hb hrb hp
    refine ⟨u, v, hS.failed, hS.silent, hS.occurred, hS.flow.judged, hS.old, hS.new, hS.drives, ?_, ?_, ?_, ?_, ?_,
      fun j => ?_, hwait, htake⟩
    · rw [hS.rest]
    · rw [hS.rest]
    · rw [hS.rest]
    · rw [hS.rest]
    · rw [hS.rest]
    · rw [hS.stream j]
      exact ⟨rfl, rfl, rfl, rfl, rfl, rfl⟩
  · obtain ⟨v, w, hexec, hF, hW⟩ := slot_none hrun hpat hcfg hslot hgo ha hra hb
    exact ⟨_, v, hexec, hF.occurred, hF.silent, slot_none_spec hF hW (slip_slipped w i)⟩
  · obtain ⟨w, hexec, hW, -⟩ := slot_unbound hrun hpat hcfg hslot (.inl hw) ha
    exact ⟨_, hexec, slot_unbound_spec hst hW (slip_slipped w i)⟩
  · obtain ⟨w, hexec, -, hsame⟩ := slot_unbound hrun hpat hcfg hslot (.inl hw) ha
    rw [hexec, hsame hst, slip_advanceCadence]

end Sys2Proof.Streams

/-! PROOFS. What every command and every step keeps, and the end of the sweep (R23, R26, R34). -/

namespace Sys2Proof.Machine

/-- Every command keeps the bounds of the queues, the canonical form of the store and the committed capacities. -/
theorem exec_arrived (c : Instr) (s : State) : ∃ t, exec c s = .next t ∧ Arrived s t := by
  cases c with
  | powerOn => exact ⟨_, rfl, .poweredOn s⟩
  | sweepCompletion => exact ⟨_, rfl, .of_sound (.sweepDone s)⟩
  | linkDown => exact ⟨_, rfl, .of_sound (.linkLost s)⟩
  | linkUp => exact ⟨_, rfl, .of_sound (.linkReturned s)⟩
  | frameOpen | stripe | stripeResend | frameClose | control => exact ⟨_, rfl, .receive s _ _⟩
  | unknownUnitKind => exact ⟨_, rfl, .receiveBytes s _⟩
  | unknownCommand | configureStream | startStream | stopStream | abortStream | streamStatus | setStore
  | storeStatus | purgeDirectory | readDirectory | loadPlan | readPlan | engineStatus | setSlotPattern | setLink
  | survey | driveStatus | holdDrive | releaseDrive | passToDrive | bookWatch | cancelWatch | rearmWatch
  | releaseWatch | readFaults | clearFaults | setFaultActions | identify | resetPart =>
    exact ⟨_, rfl, .arriveControl _ s⟩
  | cadenceExpiry i => exact ⟨_, rfl, .of_sound (.cadenceEvent s i)⟩
  | composeCompletion c flips => exact ⟨_, rfl, .of_sound (.composeCompleted s c flips)⟩
  | verifyCompletion c flips => exact ⟨_, rfl, .of_sound (.verifyCompleted s c flips)⟩
  | refetchTimerExpiry c => exact ⟨_, rfl, .of_sound (.refetchTimerEnded s c)⟩
  | returnUnitEnd => exact ⟨_, rfl, .of_sound (.returnUnitEnded s)⟩
  | pollTimerExpiry => exact ⟨_, rfl, .of_sound (.pollExpired s)⟩
  | turnBoundary => exact ⟨_, rfl, .of_sound (.turnBoundary s)⟩
  | burnUnitEnd => exact ⟨_, rfl, .of_sound (.burnUnitSent s)⟩
  | burnReadCompletion k flips => exact ⟨_, rfl, .of_sound (.burnReadDone s k.toNat flips)⟩
  | presenceAnswer u => exact ⟨_, rfl, .of_sound (.answerNews s _ _ u _ fun _ _ => (Keeps.refl s).takePresence _ _)⟩
  | statusAnswer u => exact ⟨_, rfl, .of_sound (.answerNews s _ _ u _ fun _ _ => (Keeps.refl s).takeStatus _ _)⟩
  | spaceOk u => exact ⟨_, rfl, .of_sound (.answerNews s _ _ u _ fun _ _ => (Keeps.refl s).takeSpaceOk _ _)⟩
  | spaceNo u => exact ⟨_, rfl, .of_sound (.answerNews s _ _ u _ fun _ _ => (Keeps.refl s).takeSpaceNo _ _)⟩
  | writeDone u => exact ⟨_, rfl, .of_sound (.answerDone s u)⟩
  | writeFail u => exact ⟨_, rfl, .of_sound (.answerNews s _ _ u _ fun _ _ => (Keeps.refl s).takeWriteFail _ _)⟩
  | driveAnswer u => exact ⟨_, rfl, .of_sound (.answerRelay s u)⟩
  | missedAnswer => exact ⟨_, rfl, .of_sound (.windowMissed s)⟩
  | relayWindowExpiry a => exact ⟨_, rfl, .of_sound (.relayExpired s a)⟩

/-- What a step can do: idle on an empty queue, or take the front command and keep what `Arrived` says. -/
theorem step_cases {s t : State} (h : step s = .next t) : (s.pending = [] ∧ t = s) ∨
    ∃ c rest, s.pending = c :: rest ∧ exec c { s with pending := rest } = .next t ∧
      Arrived { s with pending := rest } t := by
  unfold step at h
  split at h
  next hp =>
    cases h
    exact .inl ⟨hp, rfl⟩
  next c rest hp =>
    obtain ⟨u, hu, ha⟩ := exec_arrived c { s with pending := rest }
    obtain rfl : u = t := by simpa using hu.symm.trans h
    exact .inr ⟨c, rest, hp, hu, ha⟩

/-- The slots, from a count of the naturals (R23). -/
theorem allSlots_map_val : allSlots.map Fin.val = List.range 16384 := by
  have hmod : ∀ n ∈ List.range' 0 16384, (Fin.val ∘ Fin.ofNat 16384) n = n := fun n hn =>
    Nat.mod_eq_of_lt (by have := List.mem_range'_1.1 hn; omega)
  rw [allSlots, List.map_map, List.map_congr_left hmod, List.map_id', List.range_eq_range']

end Sys2Proof.Machine

namespace Sys2Proof.StripeStore

open Machine Machine.State

/-- Settles O5: a step idles, or runs a command, which keeps the tables canonical. -/
theorem stepKeepsStoreCanonical : Obligations.StepKeepsStoreCanonical := by
  intro s t hs h
  obtain ⟨-, rfl⟩ | ⟨c, rest, -, -, ha⟩ := step_cases h
  · exact hs
  · exact ha.store hs

/-- Settles O10. -/
theorem sweepCompletionFreesEverySlot : Obligations.SweepCompletionFreesEverySlot := by
  refine ⟨fun s hs => ?_, allSlots_map_val⟩
  have hdone : s.sweepDone = _ := if_pos hs
  exact congrArg Host.Outcome.next hdone

end Sys2Proof.StripeStore

/-! PROOFS. The common checks on a command row (R34, R156, R158), SET_STORE and SET_LINK (R30, R117), PURGE_DIRECTORY (R48). -/

namespace Sys2Proof.Machine

/-! ### The common checks (R156) -/

/-- The row of a command is judged at once when the interpreter is free (R155, R156; log 4). -/
theorem exec_commandRow_judged (tag : Word16) (c : Command) {s : State} (h : s.TakesUnits)
    (hf : commandForm c = .command c) :
    exec (commandRow tag c) s = .next (State.judgeUnit { tag := tag, form := .command c } s).kick := by
  have hc : exec (commandRow tag c) s = .next (s.command tag c) := by cases c <;> rfl
  rw [hc, State.command, State.arriveControl_taken _ _ h, hf]

/-- The commands taken in HALTED (R158). -/
theorem takenInHalted_iff (c : Command) : takenInHalted c = true ↔
    c = .identify ∨ c = .readFaults ∨ (∃ p x, c = .storeStatus p x) ∨ c = .resetPart := by
  cases c <;> simp [takenInHalted]

namespace State

/-- During the sweep a command is refused (R34). -/
theorem judgeUnit_sweeping {s : State} (h : s.store.sweeping = true) (tag : Word16) (c : Command) :
    judgeUnit { tag := tag, form := .command c } s = s.refuse tag .starting := if_pos h

/-- In HALTED a command is refused or goes to its owning rule (R158). -/
theorem judgeUnit_halted {s : State} (hs : s.store.sweeping = false) (hh : s.monitor.halted = true) (tag : Word16)
    (c : Command) : judgeUnit { tag := tag, form := .command c } s =
      if takenInHalted c then owner tag c s else s.refuse tag .halted := by
  cases ht : takenInHalted c <;> simp [judgeUnit, hs, hh, ht]

end State

/-! ### Settings (R30, R117) -/

theorem readFlag_flag (on : Bool) : readFlag (if on then 1 else 0) = some on := readFlag_eq_some.2 rfl

theorem readFlag_eq_none {b : Byte} (h : 1 < b.toNat) : readFlag b = none := by
  by_contra hn
  have hle := readFlag_isSome.1 (Option.ne_none_iff_exists'.1 hn)
  omega

theorem readFactor_toNat (f : RateFactor) : readFactor (BitVec.ofNat 8 f.toNat) = some f := by
  cases f <;> rfl

theorem readFactor_eq_none {b : Byte} (h : b.toNat ≠ 1 ∧ b.toNat ≠ 2 ∧ b.toNat ≠ 4 ∧ b.toNat ≠ 8) :
    readFactor b = none := by
  obtain ⟨h1, h2, h4, h8⟩ := h
  unfold readFactor
  split
  next e => exact absurd e h1
  next e => exact absurd e h2
  next e => exact absurd e h4
  next e => exact absurd e h8
  next => rfl

namespace State

/-- The link is at rest for SET_LINK (R117 check 2). -/
theorem linkIdle_iff (s : State) : s.linkIdle = true ↔
    (∀ i, (s.stream i).state.started = false) ∧ ∀ a, (s.drive a).queue = [] := by
  simp [linkIdle, mem_allStreams, mem_allDrives]

/-- SET_LINK with a code that is none (R117 check 1). -/
theorem ownSetLink_bad {factor mode : Byte} (h : readFactor factor = none ∨ readFlag mode = none) (tag : Word16)
    (s : State) : ownSetLink tag factor mode s = s.refuse tag .badParameter := by
  unfold ownSetLink
  rcases h with h | h <;> rw [h]
  cases readFactor factor <;> rfl

/-- SET_LINK with known codes (R117 check 2). -/
theorem ownSetLink_read {factor mode : Byte} {f : RateFactor} {block : Bool} (hf : readFactor factor = some f)
    (hm : readFlag mode = some block) (tag : Word16) (s : State) : ownSetLink tag factor mode s =
      if s.linkIdle then { s with burn := { s.burn with
        factor := f, mode := if block then .block else .frame } }.done tag (.setLink s.burn.factor s.burn.mode)
      else s.refuse tag .wrongState := by
  unfold ownSetLink
  rw [hf, hm]
  rfl

/-! ### PURGE_DIRECTORY (R48) -/

/-- Dropping entries leaves the store's log and setting, and the streams. -/
theorem Dropped.keepsLog {s t : State} {r : Fin 256 → DirSet} {g : Slot → Nat} (h : Dropped s t r g) :
    t.store.lastEvent = s.store.lastEvent ∧ t.store.correction = s.store.correction ∧
      t.store.corrected = s.store.corrected ∧ t.store.flawed = s.store.flawed ∧ t.streams = s.streams := by
  rw [h.rest]
  exact ⟨rfl, rfl, rfl, rfl, rfl⟩

/-- The entries a PURGE_DIRECTORY names: those of one stream, or all for id 0. -/
theorem ownPurgeDirectory_named {id : Byte} {gone : DirEntry → Bool}
    (h : (id = 0 ∧ gone = fun _ => true) ∨ (∃ i, streamOf id = some i ∧ gone = fun e => e.stream == i)) (tag : Word16)
    (s : State) : ownPurgeDirectory tag id s = (s.invalidate gone).done tag (.purged (s.dir.matching gone)) := by
  unfold ownPurgeDirectory
  obtain ⟨rfl, rfl⟩ | ⟨i, hi, rfl⟩ := h
  · rw [if_pos rfl]
  · rw [if_neg (ne_zero_of_streamOf hi), hi]

theorem ownPurgeDirectory_bad {id : Byte} (h : 12 < id.toNat) (tag : Word16) (s : State) :
    ownPurgeDirectory tag id s = s.refuse tag .badParameter := by
  have h0 : id ≠ 0 := by
    rintro rfl
    contradiction
  rw [ownPurgeDirectory, if_neg h0, streamOf_eq_none h]

end State

end Sys2Proof.Machine

namespace Sys2Proof.StripeStore

open Machine Machine.State

/-- Settles O29. -/
theorem sweepAndHaltFilterCommands : Obligations.SweepAndHaltFilterCommands := by
  intro tag c s ht hf
  rw [exec_commandRow_judged tag c ht hf]
  refine ⟨fun hs => by rw [judgeUnit_sweeping hs], fun hs hh => ?_⟩
  rw [judgeUnit_halted hs hh]
  refine ⟨fun hc => by rw [if_pos ((takenInHalted_iff c).2 hc)], fun h1 h2 h3 h4 => ?_⟩
  have hc : ¬ takenInHalted c = true := fun e => by
    obtain e | e | ⟨p, x, e⟩ | e := (takenInHalted_iff c).1 e
    exacts [h1 e, h2 e, h3 p x e, h4 e]
  rw [if_neg hc]

/-- Settles O38: the codes, then the check that the link is at rest. -/
theorem settingsAreTaken : Obligations.SettingsAreTaken := by
  intro tag s ht
  have hstore (v : Byte) : exec (.setStore tag v) s = .next (ownSetStore tag v s).kick :=
    exec_commandRow tag (.setStore v) ht rfl
  have hlink (f m : Byte) : exec (.setLink tag f m) s = .next (ownSetLink tag f m s).kick :=
    exec_commandRow tag (.setLink f m) ht rfl
  refine ⟨fun on => ?_, fun v hv => ?_, fun f m h => ?_, fun f block => ⟨fun h => ?_, fun hi ha => ?_⟩⟩
  · rw [hstore, ownSetStore, readFlag_flag]
    rfl
  · rw [hstore, ownSetStore, readFlag_eq_none hv]
  · rw [hlink, ownSetLink_bad (h.imp readFactor_eq_none readFlag_eq_none)]
  · have hbusy : ¬ s.linkIdle = true := fun e => by
      obtain ⟨hi, ha⟩ := (linkIdle_iff s).1 e
      obtain ⟨i, h⟩ | ⟨a, h⟩ := h
      · exact Bool.false_ne_true ((hi i).symm.trans h)
      · exact h (ha a)
    rw [hlink, ownSetLink_read (readFactor_toNat f) (readFlag_flag block), if_neg hbusy]
  · rw [hlink, ownSetLink_read (readFactor_toNat f) (readFlag_flag block), if_pos ((linkIdle_iff s).2 ⟨hi, ha⟩)]

/-- Settles O39: `invalidate_dropped` for the entries named. -/
theorem purgeDirectoryInvalidates : Obligations.PurgeDirectoryInvalidates := by
  intro tag id s ht hs
  have hrow : exec (.purgeDirectory tag id) s = .next (ownPurgeDirectory tag id s).kick :=
    exec_commandRow tag (.purgeDirectory id) ht rfl
  refine ⟨fun h => by rw [hrow, ownPurgeDirectory_bad h], fun gone h => ?_⟩
  rw [hrow, ownPurgeDirectory_named h]
  have hd := invalidate_dropped s gone
  generalize s.invalidate gone = t at hd
  obtain ⟨hdram, hflips, hord, hev, hfl, hpl, heng, hdr, hburn, hret, hmon⟩ := hd.keeps
  obtain ⟨hlast, hcorr, hn, hm, hstr⟩ := hd.keepsLog
  exact ⟨t, rfl, hd.row, hord, hev, hfl, fun x => hd.count hs x, hdram, hflips, hlast, hcorr, hn, hm, hstr, hpl, heng, hdr,
    hburn, hret, hmon⟩

end Sys2Proof.StripeStore

/-! PROOFS. Store reads: the verdict, the data delivered, the log, and the report of a FLAWED one (R27, R28, R29, R49). -/

namespace Sys2Proof.Machine

theorem wordVerdict_single {mask : Word64} (h : popCount mask = 1) (w : Word64) : wordVerdict w mask = .single := by
  simp only [wordVerdict, h]

theorem wordVerdict_detected {mask : Word64} (h : popCount mask = 2) (w : Word64) : wordVerdict w mask = .detected := by
  simp only [wordVerdict, h]

namespace Store

variable {st : Store} {x : Slot} {size : Nat}

theorem judge_clean (h : st.flipsIn x size = []) : st.judge x size = .clean := by
  simp [judge, h]

/-- One flipped bit in each of one or more words (R27). -/
theorem judge_singles (hne : st.flipsIn x size ≠ [])
    (h : ∀ w mask, (w, mask) ∈ st.flipsIn x size → popCount mask = 1) :
    st.judge x size = if st.correction then .corrected else .flawed := by
  have hv : ∀ q ∈ st.flipsIn x size, wordVerdict (st.word q.1) q.2 = .single := fun q hq =>
    wordVerdict_single (h q.1 q.2 hq) _
  obtain ⟨q, hq⟩ := List.exists_mem_of_ne_nil _ hne
  have hdetected : ((st.flipsIn x size).map fun q => wordVerdict (st.word q.1) q.2).any (· == .detected) = false := by
    rw [List.any_map, List.any_eq_false]
    intro q hq
    simp [hv q hq]
  have hsingle : ((st.flipsIn x size).map fun q => wordVerdict (st.word q.1) q.2).any (· == .single) = true := by
    rw [List.any_map, List.any_eq_true]
    exact ⟨q, hq, by simp [hv q hq]⟩
  simp only [judge, hdetected, hsingle, if_true, Bool.false_eq_true, if_false]

/-- Two flipped bits in one word (R27). -/
theorem judge_detected {w : Nat} {mask : Word64} (hq : (w, mask) ∈ st.flipsIn x size) (h : popCount mask = 2) :
    st.judge x size = .flawed := by
  have hdetected : ((st.flipsIn x size).map fun q => wordVerdict (st.word q.1) q.2).any (· == .detected) = true := by
    rw [List.any_map, List.any_eq_true]
    exact ⟨_, hq, by simp [wordVerdict_detected h]⟩
  simp only [judge, hdetected, if_true]

/-- Only a CORRECTED read differs from the data as stored (R27). -/
theorem deliver_as_stored (h : st.judge x size ≠ .corrected) :
    st.deliver x size = Memory.readBytes st.dram (slotBase x) size := if_neg h

/-- A CORRECTED read delivers each word with one flipped bit as it was written (R27). -/
theorem deliver_corrected (hj : st.judge x size = .corrected)
    (h : ∀ w mask, (w, mask) ∈ st.flipsIn x size → popCount mask = 1) :
    st.deliver x size = (st.flipsIn x size).foldl (fun data q =>
      patchWord data (q.1 - slotWord x) (st.word q.1 ^^^ q.2)) (Memory.readBytes st.dram (slotBase x) size) := by
  refine (if_pos hj).trans (List.foldl_ext _ _ _ fun data q hq => ?_)
  have h1 := h q.1 q.2 hq
  rw [if_pos (wordVerdict_single h1 _), correctedWord, if_pos h1]

end Store

namespace State

variable {s : State} {p : ReadPurpose} {x : Slot} {size : Nat}

theorem readSlot_clean (h : s.store.judge x size = .clean) :
    s.readSlot p x size = (false, Memory.readBytes s.store.dram (slotBase x) size, s) := by
  rw [readSlot, h, Store.deliver_as_stored (by simp [h])]
  rfl

theorem readSlot_corrected (h : s.store.judge x size = .corrected) :
    s.readSlot p x size = (false, s.store.deliver x size, { s with store := { s.store with
      lastEvent := some { slot := x, purpose := p, result := .corrected },
      corrected := if s.store.corrected = 65535#16 then 65535#16 else s.store.corrected + 1 } }.raise
        .storeCorrected 0 (BitVec.ofNat 32 x.val)) := by
  rw [readSlot, h, ← State.bumpCount_eq]
  rfl

theorem readSlot_flawed_iff : (s.readSlot p x size).1 = true ↔ s.store.judge x size = .flawed := beq_iff_eq

/-- A read whose words have one flipped bit each (R27, R29). -/
theorem readSlot_singles (p : ReadPurpose) (hne : s.store.flipsIn x size ≠ [])
    (h : ∀ w mask, (w, mask) ∈ s.store.flipsIn x size → popCount mask = 1) :
    (s.store.correction = true →
      (s.readSlot p x size).1 = false ∧
      (s.readSlot p x size).2.1 = (s.store.flipsIn x size).foldl (fun data q =>
        patchWord data (q.1 - slotWord x) (s.store.word q.1 ^^^ q.2))
          (Memory.readBytes s.store.dram (slotBase x) size) ∧
      (s.readSlot p x size).2.2 = { s with store := { s.store with
        lastEvent := some { slot := x, purpose := p, result := .corrected },
        corrected := if s.store.corrected = 65535#16 then 65535#16 else s.store.corrected + 1 } }.raise
          .storeCorrected 0 (BitVec.ofNat 32 x.val)) ∧
    (s.store.correction = false → (s.readSlot p x size).1 = true) := by
  have hj := Store.judge_singles hne h
  refine ⟨fun hc => ?_, fun hc => readSlot_flawed_iff.2 (by simpa [hc] using hj)⟩
  rw [hc, if_pos rfl] at hj
  rw [readSlot_corrected hj, Store.deliver_corrected hj h]
  exact ⟨rfl, rfl, rfl⟩

/-- A FLAWED read is logged and raised, and the entries naming its slot are dropped and counted (R28, R29, R49). -/
theorem readSlot_flawed (h : (s.readSlot p x size).1 = true) :
    ∃ u t, Signals (s.modStore (·.log x p .flawed)) u ∧ (u.fault .storeUncorrectable).pending = true ∧
      Dropped u t (fun k => (s.dir.row k).without fun e => e.slot == x)
        (fun y => u.dir.matching fun e => e.slot == x && e.slot == y) ∧
      (s.readSlot p x size).2.2 = t.countFlaws (s.dir.matching fun e => e.slot == x) := by
  have S := Signals.raise (s.modStore (·.log x p .flawed)) .storeUncorrectable 0 (BitVec.ofNat 32 x.val)
  have hf := fault_raise_same (s.modStore (·.log x p .flawed)) .storeUncorrectable 0 (BitVec.ofNat 32 x.val) (by decide)
  have hr : (s.readSlot p x size).2.2 = ((s.modStore (·.log x p .flawed)).raise .storeUncorrectable 0
      (BitVec.ofNat 32 x.val)).reportFlaw x := by
    rw [readSlot, readSlot_flawed_iff.1 h]
    rfl
  rw [hr]
  generalize (s.modStore (·.log x p .flawed)).raise .storeUncorrectable 0 (BitVec.ofNat 32 x.val) = u at S hf
  have hdir : u.dir = s.dir := S.dir
  have hd := invalidate_dropped u fun e => e.slot == x
  rw [reportFlaw, hdir]
  rw [hdir] at hd
  exact ⟨u, _, S, by rw [hf], by rw [hdir]; exact hd, rfl⟩

/-- After a FLAWED read no entry names its slot (R49). -/
theorem readSlot_flawed_unnamed (h : (s.readSlot p x size).1 = true) {k : Fin 256} {e : DirEntry}
    (he : ((s.readSlot p x size).2.2.dir.row k).way0 = some e ∨ ((s.readSlot p x size).2.2.dir.row k).way1 = some e) :
    e.slot ≠ x := by
  obtain ⟨u, t, -, -, hd, hr⟩ := readSlot_flawed h
  have hrow (n : Nat) : (t.countFlaws n).dir.row k = (s.dir.row k).without fun e => e.slot == x := hd.row k
  rw [hr, hrow] at he
  simpa using he.elim (fun h => (Option.filter_eq_some_iff.1 h).2) fun h => (Option.filter_eq_some_iff.1 h).2

end State

end Sys2Proof.Machine

namespace Sys2Proof.StripeStore

open Machine Machine.State

/-- Settles O50: the verdict by the flips in the slot, and `readSlot_flawed` for what a FLAWED read leaves. -/
theorem storeReadsAreJudged : Obligations.StoreReadsAreJudged := by
  intro s p x size
  refine ⟨fun h => readSlot_clean (Store.judge_clean h), fun w mask hq h1 => ?_, readSlot_singles p,
    fun w mask hq h2 => readSlot_flawed_iff.2 (Store.judge_detected hq h2), fun h => ?_, fun h => ⟨_, rfl, ?_⟩⟩
  · have hs := readSlot_singles (s := s) (x := x) (size := size) p (by simp [hq]) (by simp [hq, h1])
    rw [hq] at hs
    exact hs
  · exact Store.deliver_as_stored (by simp [readSlot_flawed_iff.1 h])
  · have hentry := fun k e => readSlot_flawed_unnamed h (k := k) (e := e)
    obtain ⟨u, t, S, hfault, hd, hr⟩ := readSlot_flawed h
    obtain ⟨hdram, hflips, hord, hev, hfl, -, -, -, -, -, hmon⟩ := hd.keeps
    obtain ⟨hlast, -, hcorr, hflaw, -⟩ := hd.keepsLog
    rw [S.store] at hdram hflips hlast hcorr hflaw
    rw [S.dir] at hord hev hfl
    rw [hr] at hentry ⊢
    generalize s.dir.matching (fun e => e.slot == x) = n at hentry ⊢
    refine ⟨hlast, hflaw.trans (State.bumpCount_eq _), hcorr, hdram, hflips, ?_, hentry, ?_, hev, hord⟩
    · exact (congrArg (fun m : Monitor => m.faults[FaultKind.storeUncorrectable.ix].pending) hmon).trans hfault
    · exact congrArg (· + _) hfl

end Sys2Proof.StripeStore

/-! PROOFS. Compose and verify completions: the repair, or the failure of the step on a FLAWED read (R59, R62, R64, R66, R76). -/

namespace Sys2Proof.Machine

/-- Signals do not touch the store and the directory, whatever these are. -/
theorem Signals.withStore {s t : State} (h : Signals s t) (d : Directory) (w : Store) :
    Signals { s with dir := d, store := w } { t with dir := d, store := w } :=
  ⟨congrArg (fun u : State => { u with dir := d, store := w }) h.rest, h.stream⟩

namespace State

/-- Beside the store and the directory the reads of a compose only raise. -/
theorem readSlots_signals (p : ReadPurpose) (size : Nat) : ∀ (xs : List Slot) (s : State),
    Signals { s with dir := (readSlots p size xs s).2.2.dir, store := (readSlots p size xs s).2.2.store }
      (readSlots p size xs s).2.2
  | [], s => Signals.refl s
  | x :: xs, s =>
    ((readSlot_signals s p x size).withStore _ _).trans (readSlots_signals p size xs (s.readSlot p x size).2.2)

/-- The stripe size a completion reads with is its frame's. -/
theorem jobSize_eq {s : State} {j : Job} {f : FrameRec} (h : s.frame j.stream j.number = some f) :
    s.jobSize j = f.stripeSize := by
  rw [jobSize, h]
  rfl

/-- How a compose ends, `r` being the state after its reads (R62, R66, R76). -/
theorem composeDone_ends {s r : State} {b : Busy} {f : FrameRec} {st : StripeRec} {flawed : Bool}
    {data : List (List Byte)} {inputs : List Slot} {result : Slot} (c : Fin 4) (donors : List Word32) (gen : Nat)
    (hf : s.frame b.job.stream b.job.number = some f) (hs : f.stripeAt b.job.stripe = some st)
    (hr : readSlots .compose f.stripeSize inputs s = (flawed, data, r))
    (hh : b.op.holds = result :: inputs) :
    (flawed = false → Repaired (r.modStore (·.write result (composeData data)))
      (s.composeDone c b result inputs donors gen) c b.job result b.op.method donors gen f st
      (inputs.foldl Store.release (match st.slot with
        | some y => (r.store.write result (composeData data)).release y
        | none => r.store.write result (composeData data)))) ∧
    (flawed = true → { r with store := (result :: inputs).foldl Store.release r.store }.StepFails
      (s.composeDone c b result inputs donors gen) c b f st) := by
  have S := readSlots_signals .compose f.stripeSize inputs s
  rw [hr] at S
  have hfr : r.frame b.job.stream b.job.number = some f := (S.frame _ _).trans hf
  rw [composeDone, jobSize_eq hf, hr]
  refine ⟨?_, ?_⟩
  · rintro rfl
    exact completeRepair_repaired (r.modStore (·.write result (composeData data))) c b.job result false b.op.method
      donors gen inputs f st hfr hs
  · rintro rfl
    rw [releaseHolds_eq, hh]
    exact stepFailed_stepFails _ c b f st hfr hs

/-- How a verify ends (R64, R76). -/
theorem verifyDone_ends {s : State} {b : Busy} {f : FrameRec} {st : StripeRec} {d : Donor}
    {r : Bool × List Byte × State} (c : Fin 4) (hf : s.frame b.job.stream b.job.number = some f)
    (hs : f.stripeAt b.job.stripe = some st) (hr : r = s.readSlot .verify d.slot f.stripeSize)
    (hop : b.op = .verify d) :
    (r.1 = false → Repaired r.2.2 (s.verifyDone c b d) c b.job d.slot .previous [d.number] d.generation f st
      (Store.release (match st.slot with
        | some y => (r.2.2.store.claim d.slot).release y
        | none => r.2.2.store.claim d.slot) d.slot)) ∧
    (r.1 = true → { r.2.2 with store := r.2.2.store.release d.slot }.StepFails (s.verifyDone c b d) c b f st) := by
  have S := readSlot_signals s .verify d.slot f.stripeSize
  rw [← hr] at S
  have hfr : r.2.2.frame b.job.stream b.job.number = some f := (S.frame _ _).trans hf
  rw [verifyDone, jobSize_eq hf, ← hr]
  refine ⟨fun h => ?_, fun h => ?_⟩
  · rw [h]
    exact completeRepair_repaired r.2.2 c b.job d.slot true .previous [d.number] d.generation [d.slot] f st hfr hs
  · rw [h, releaseHolds_eq, hop]
    exact stepFailed_stepFails _ c b f st hfr hs

/-- A compose of NEIGHBOUR completes (R62, R76; log 8). -/
theorem exec_compose_neighbour {s : State} {c : Fin 4} {b : Busy} {inputs : List Slot} {result : Slot} {gen : Nat}
    (flips : List Flip) (hc : s.context c = some b) (hop : b.op = .neighbour inputs result gen) :
    exec (.composeCompletion c flips) s =
      .next ((s.modStore (·.strikeAll flips)).composeDone c b result inputs [] gen).takeWork.kick :=
  congrArg Host.Outcome.next (by simp only [composeCompleted, hc, hop])

/-- A compose of BLEND completes (R66, R76; log 8). -/
theorem exec_compose_blend {s : State} {c : Fin 4} {b : Busy} {d : Donor} {m : Word32} {y result : Slot}
    (flips : List Flip) (hc : s.context c = some b) (hop : b.op = .blend d m y result) :
    exec (.composeCompletion c flips) s = .next ((s.modStore (·.strikeAll flips)).composeDone c b result [d.slot, y]
      [d.number, m] d.generation).takeWork.kick :=
  congrArg Host.Outcome.next (by simp only [composeCompleted, hc, hop])

/-- A verify completes (R64, R76; log 8). -/
theorem exec_verify {s : State} {c : Fin 4} {b : Busy} {d : Donor} (flips : List Flip) (hc : s.context c = some b)
    (hop : b.op = .verify d) : exec (.verifyCompletion c flips) s =
      .next ((s.modStore (·.strikeAll flips)).verifyDone c b d).takeWork.kick :=
  congrArg Host.Outcome.next (by simp only [verifyCompleted, hc, hop])

/-- A repair after store reads, told from the state `s` before them: bits that flip (log 8) and reads touch the store, the
directory and what signals change, so that counters and drives are those of `s`. -/
theorem Repaired.of_signals {s r t : State} {d : Directory} {v w w' : Store} {c : Fin 4} {j : Job} {x : Slot} {m : Method}
    {donors : List Word32} {gen : Nat} {f : FrameRec} {st : StripeRec}
    (h : Repaired { r with store := w } t c j x m donors gen f st w')
    (S : Signals { s with dir := d, store := v } r) :
    t.context c = none ∧
      t.frame j.stream j.number = some (f.withResolved j.stripe { st with
        state := .repaired, slot := some x, method := some m, donors := donors, generation := some gen }) ∧
      (t.stream j.stream).counters[m.counter.ix] = (s.stream j.stream).counters[m.counter.ix] + 1 ∧
      t.store = w' ∧ t.dir = r.dir ∧ t.drives = s.drives ∧ t.ret = r.ret ∧ t.monitor = r.monitor := by
  have hcounters : (r.stream j.stream).counters = (s.stream j.stream).counters := S.counters _
  refine ⟨h.context, h.frame, ?_, h.store, h.dir, h.drives.trans S.drives, h.ret, h.monitor⟩
  rw [← hcounters]
  exact h.counters

end State

end Sys2Proof.Machine

namespace Sys2Proof.StripeStore

open Machine Machine.State

/-- Settles O51: each completion ends as `composeDone_ends` or `verifyDone_ends` says. -/
theorem completionsRepairTheStripe : Obligations.CompletionsRepairTheStripe := by
  intro s s0 c flips b f st hc hf hs hs0
  have hf0 : s0.frame b.job.stream b.job.number = some f := by
    rw [hs0]
    exact hf
  refine ⟨fun inputs result gen flawed data r hop hr => ?_, fun d m y result p q hop hp hq => ?_,
    fun d p hop hp => ?_, fun p x u h k e he => readSlot_flawed_unnamed h he⟩
  · obtain ⟨ds, hds, hreads⟩ : ∃ ds, composeData ds = data ∧
        readSlots .compose f.stripeSize inputs s0 = (flawed, ds, r) := by
      obtain ⟨x, rfl, hr⟩ | ⟨x, y, p, q, rfl, rfl, rfl, rfl, rfl, rfl⟩ := hr
      · exact ⟨[data], rfl, by simp [readSlots, ← hr]⟩
      · exact ⟨[_, _], rfl, by simp [readSlots]⟩
    have hexec := exec_compose_neighbour flips hc hop
    have S := readSlots_signals .compose f.stripeSize inputs s0
    obtain ⟨hok, hbad⟩ := composeDone_ends c [] gen hf0 hs hreads (by rw [hop]; rfl)
    rw [hreads, hs0] at S
    rw [hds, hop] at hok
    exact ⟨_, hs0 ▸ hexec, fun h => (hok h).of_signals S, hbad⟩
  · have hreads : readSlots .compose f.stripeSize [d.slot, y] s0 = (p.1 || q.1, [p.2.1, q.2.1], q.2.2) := by
      simp [readSlots, hp, hq]
    have hexec := exec_compose_blend flips hc hop
    have S := readSlots_signals .compose f.stripeSize [d.slot, y] s0
    obtain ⟨hok, hbad⟩ := composeDone_ends c [d.number, m] d.generation hf0 hs hreads (by rw [hop]; rfl)
    rw [hreads, hs0] at S
    rw [hop] at hok
    exact ⟨_, hs0 ▸ hexec, fun h1 h2 => (hok (by simp [h1, h2])).of_signals S, fun h => hbad (by simpa using h)⟩
  · have hexec := exec_verify flips hc hop
    have S := readSlot_signals s0 .verify d.slot f.stripeSize
    obtain ⟨hok, hbad⟩ := verifyDone_ends c hf0 hs hp hop
    rw [← hp, hs0] at S
    exact ⟨_, hs0 ▸ hexec, fun h => (hok h).of_signals S, hbad⟩

end Sys2Proof.StripeStore

/-! PROOFS. RESET_PART (R35, R92, R136, R161): the return path, and the units it owes the burn link. -/

namespace Sys2Proof.Machine

/-- The return path keeps a unit being sent through a RESET_PART, and a reply as it is (R161). -/
theorem ReturnPath.sending_afterReset (r : ReturnPath) : (r.afterReset.sending = none ↔ r.sending = none) ∧
    ∀ q, r.sending = some (.reply q) → r.afterReset.sending = some (.reply q) := by
  obtain ⟨sending, _, _, _, _⟩ := r
  cases sending with
  | none => simp [afterReset]
  | some u => cases u <;> simp [afterReset]

namespace State

/-! ### The units owed (R136) -/

/-- The ABANDON a RESET_PART owes drive `a`, in the words of R136 step 2. -/
def owedAbandon (s : State) (a : DriveIx) : Option Closing :=
  if (s.drive a).present = true ∧ ((s.drive a).abandonOwed = true ∨ (s.drive a).transfer ≠ .waitingSpace) ∧
      ¬((s.burn.exchange.map fun e => (e.drive, e.purpose)) = some (a, .abandon)) then
    (s.drive a).queue.head?.map fun f => ({ drive := a, factor := s.burn.factor,
                                            unit := .abandon f.stream f.seq } : Closing)
  else none

/-- Every unit a RESET_PART owes: those of an earlier one first, then the ABANDONs in ascending address. -/
def owedUnits (s : State) : List Closing := s.burn.closing ++ allDrives.filterMap s.owedAbandon

/-- When a drive with a head frame is sent an ABANDON (R136 step 2). -/
theorem closesDrive_iff {s : State} {a : DriveIx} (hq : (s.drive a).queue ≠ []) : s.closesDrive a = true ↔
    (s.drive a).present = true ∧ ((s.drive a).abandonOwed = true ∨ (s.drive a).transfer ≠ .waitingSpace) ∧
      ¬((s.burn.exchange.map fun e => (e.drive, e.purpose)) = some (a, .abandon)) := by
  unfold closesDrive
  cases s.burn.exchange <;> simp [hq, and_assoc, imp_iff_not_or]

theorem closingUnit_eq (s : State) (a : DriveIx) : s.closingUnit a = (s.owedAbandon a).toList := by
  unfold closingUnit owedAbandon
  cases hq : (s.drive a).queue with
  | nil => simp
  | cons f rest =>
    rw [if_congr (closesDrive_iff (by simp [hq])) rfl rfl]
    split <;> rfl

theorem owedUnits_eq (s : State) : s.burn.closing ++ allDrives.flatMap s.closingUnit = s.owedUnits := by
  rw [owedUnits, List.filterMap_eq_flatMap_toList, funext s.closingUnit_eq]

/-- The unit being sent is finished at its own factor, and the units owed follow it (R136 step 1). -/
theorem resetBurn_sending {s : State} {e : Exchange} {u : BurnUnit} (he : s.burn.exchange = some e)
    (hu : e.phase = .sending u) : s.resetBurn = { Burn.reset with
      exchange := some { drive := e.drive, purpose := .closing, factor := e.factor, phase := .sending u }
      closing := s.owedUnits } := by
  have hf : s.finishingUnit =
      some { drive := e.drive, purpose := .closing, factor := e.factor, phase := .sending u } := by
    simp only [finishingUnit, he, hu]
  simp only [resetBurn, hf, owedUnits_eq]

/-- With no unit being sent the first of the units owed begins (R136 step 2). -/
theorem resetBurn_silent {s : State} (h : ∀ e u, s.burn.exchange = some e → e.phase ≠ .sending u) :
    s.resetBurn = { Burn.reset with
      exchange := s.owedUnits.head?.map fun c =>
        { drive := c.drive, purpose := .closing, factor := c.factor, phase := .sending c.unit }
      closing := s.owedUnits.tail } := by
  have hf : s.finishingUnit = none := by
    unfold finishingUnit
    split
    next e he =>
      split
      next u hu => exact absurd hu (h e u he)
      all_goals rfl
    next => rfl
  simp only [resetBurn, hf, owedUnits_eq]
  cases s.owedUnits <;> rfl

/-- The controller takes its reset values but for the units still to be sent (R136). -/
theorem resetBurn_rest (s : State) : { s.resetBurn with exchange := none, closing := [] } = State.reset.burn := by
  by_cases h : ∃ e u, s.burn.exchange = some e ∧ e.phase = .sending u
  · obtain ⟨e, u, he, hu⟩ := h
    rw [resetBurn_sending he hu]
    rfl
  · rw [resetBurn_silent fun e u he hu => h ⟨e, u, he, hu⟩]
    rfl

/-- The reply of the command itself leaves the units owed. -/
theorem resetBurn_done (s : State) (tag : Word16) (r : Results) : (s.done tag r).resetBurn = s.resetBurn := rfl

/-- A RESET_PART is taken, OPERATING or HALTED (R156, R158). -/
theorem exec_resetPart {s : State} (h : s.TakesUnits) (hs : s.store.sweeping = false) (tag : Word16) :
    exec (.resetPart tag) s = .next (ownResetPart tag s).kick := by
  have hj : judgeUnit { tag := tag, form := .command .resetPart } s = ownResetPart tag s := by
    simp [judgeUnit, hs, takenInHalted, owner]
  rw [show exec (.resetPart tag) s = _ from exec_commandRow_judged tag .resetPart h rfl, hj]

end State

end Sys2Proof.Machine

namespace Sys2Proof.StripeStore

open Machine Machine.State

/-- Settles O47: what the burn link still owes is `owedUnits`. -/
theorem resetPartResetsTheBlocks : Obligations.ResetPartResetsTheBlocks := by
  intro tag s ht hs
  have hsend := ReturnPath.sending_afterReset (s.done tag (.resetPart s.monitor.halted)).ret
  have hburn : (ownResetPart tag s).burn = s.resetBurn := resetBurn_done s tag _
  refine ⟨ownResetPart tag s, exec_resetPart ht hs tag, rfl, rfl, rfl, rfl, rfl, rfl, rfl, rfl, rfl, rfl, rfl, rfl,
    hsend.1, hsend.2, ?_, fun owed howed => ?_⟩
  · rw [hburn]
    exact resetBurn_rest s
  · obtain rfl : owed = s.owedUnits := howed
    rw [hburn]
    refine ⟨fun e u he hu => ?_, fun h => ?_⟩
    · rw [resetBurn_sending he hu]
      exact ⟨rfl, rfl⟩
    · rw [resetBurn_silent h]
      exact ⟨rfl, rfl⟩

end Sys2Proof.StripeStore

/-! PROOFS. The bounded test (R39), how a step begins at its immediate check (R57, R60 to R68), and taking work (R70, R72). -/

namespace Sys2Proof.Machine

namespace Directory

/-- The bounded test on frame numbers as naturals (R39). -/
theorem bounded_iff (n : Word32) (maxAge : Nat) (e : DirEntry) : bounded n maxAge e = true ↔
    e.number.toNat < n.toNat ∧ n.toNat - e.number.toNat ≤ maxAge := by
  rw [bounded, Bool.and_eq_true, decide_eq_true_iff, decide_eq_true_iff, BitVec.lt_def]
  refine and_congr_right fun h => ?_
  rw [BitVec.toNat_sub_of_le (BitVec.le_def.2 h.le)]

/-- A lookup finds the key's entry when it passes the reader's test with a generation below 3 (R38). -/
theorem lookup_eq_some {d : Directory} {i : StreamIx} {k : Nat} {test : DirEntry → Bool} {x : Donor} :
    d.lookup i k test = some x ↔ ∃ e, d.find i k = some e ∧ test e = true ∧ e.generation ≤ 2 ∧
      x = { number := e.number, slot := e.slot, generation := e.generation + 1 } := by
  unfold lookup
  cases d.find i k with
  | none => simp
  | some e =>
    simp only [Option.ite_none_right_eq_some, Bool.and_eq_true, decide_eq_true_iff, Option.some.injEq, exists_eq_left',
      and_assoc, eq_comm (a := x)]

end Directory

namespace State

variable {s : State} {j : Job} {maxAge : Nat}

/-- Without a donor PREVIOUS and BLEND fail at their checks (R63, R65). -/
theorem begin_without_donor (c : Fin 4) (ix : Nat)
    (h : s.dir.lookup j.stream j.stripe (Directory.bounded j.number maxAge) = none) :
    s.beginPrevious c j ix maxAge = (.failed, s) ∧ s.beginBlend c j ix maxAge = (.failed, s) := by
  simp only [beginPrevious, beginBlend, h, and_self]

/-- A PREVIOUS with a donor begins (R63). -/
theorem beginPrevious_donor {x : Donor} (c : Fin 4) (ix : Nat)
    (h : s.dir.lookup j.stream j.stripe (Directory.bounded j.number maxAge) = some x) :
    s.beginPrevious c j ix maxAge =
      (.begun, (s.claim x.slot).setContext c (some { job := j, step := ix, op := .verify x })) := by
  simp only [beginPrevious, h]

/-- A BLEND that begins records its donor, the successor, and its slots (R65, R71). -/
theorem beginBlend_begun {x : Donor} {c : Fin 4} {ix : Nat} {t : State}
    (h : s.dir.lookup j.stream j.stripe (Directory.bounded j.number maxAge) = some x)
    (ht : s.beginBlend c j ix maxAge = (.begun, t)) :
    ∃ m y r, t.context c = some { job := j, step := ix, op := .blend x m y r } := by
  simp only [beginBlend, h] at ht
  split at ht
  next => split at ht <;> simp at ht
  next g _ =>
    split at ht
    next => split at ht <;> simp at ht
    next =>
      split at ht
      next => simp at ht
      next y _ =>
        split at ht
        next => simp at ht
        next r _ _ =>
          obtain rfl : _ = t := congrArg Prod.snd ht
          exact ⟨g.number, y, r, by simp⟩

theorem takesFrames_of_open {x : StreamState} (h : x = .priming ∨ x = .running ∨ x = .stalled) :
    x.takesFrames = true := by
  obtain rfl | rfl | rfl := h <;> rfl

/-- The check of BLEND behind its lookup, by the stream's state (R65, R77). -/
theorem beginBlend_unsucceeded {d : Donor} {before after : List FrameRec} {f : FrameRec} (c : Fin 4) (ix : Nat)
    (hd : s.dir.lookup j.stream j.stripe (Directory.bounded j.number maxAge) = some d)
    (hw : (s.stream j.stream).window = before ++ f :: after) (hn : f.number = j.number)
    (hb : ∀ q ∈ before, q.number ≠ j.number)
    (ha : after = [] ∨ ∃ g rest, after = g :: rest ∧ g.state = .opened) :
    ((s.stream j.stream).state = .priming ∨ (s.stream j.stream).state = .running ∨
        (s.stream j.stream).state = .stalled →
      s.beginBlend c j ix maxAge = (.parked, ({ s.modStripe j fun x => { x with state := .parked } with
        engine := { s.engine with parked := s.engine.parked + 1 } } : State).setContext c none)) ∧
    ((s.stream j.stream).state = .draining → s.beginBlend c j ix maxAge = (.failed, s)) := by
  obtain ⟨hpark, hfail⟩ := (beginBlend_eq c ix hd hw hn hb).1 ha
  exact ⟨fun h => hpark (takesFrames_of_open h), fun h => hfail (by rw [h]; rfl)⟩

end State

end Sys2Proof.Machine

namespace Sys2Proof.StripeStore

open Machine Machine.State

/-- Settles O48: a lemma of this file or of Laws/Work.lean for each check and for taking work. -/
theorem boundedTestJudgesNumberAgeGeneration : Obligations.BoundedTestJudgesNumberAgeGeneration := by
  refine ⟨fun d i k maxAge n x => ?_, fun s c j ix maxAge h => begin_without_donor c ix h,
    fun s c j ix maxAge x h => ⟨beginPrevious_donor c ix h, fun t => beginBlend_begun h⟩,
    fun s c j ix maxAge => ⟨rfl, rfl⟩,
    fun s c j ix edge f hf _ => ⟨beginNeighbour_edge c ix hf, fun ks hk => beginNeighbour_eq c ix hf hk⟩,
    fun s c j ix maxAge d before after f hd hw hn hb =>
      ⟨beginBlend_unsucceeded c ix hd hw hn hb, (beginBlend_eq c ix hd hw hn hb).2⟩,
    fun s c j ix tries wait => rfl, fun s c j ix f st hf hs => ⟨_, rfl, marked_marked s c j .mark f st hf hs⟩,
    fun s j cfg x cause p steps hc hx hcause hp hs => ?_, takeWork_workTaken, takeWork_rests⟩
  · rw [Directory.lookup_eq_some]
    refine exists_congr fun e => and_congr_right fun _ => ?_
    have hgen : e.generation ≤ 2 ↔ e.generation = 0 ∨ e.generation = 1 ∨ e.generation = 2 := by omega
    rw [Directory.bounded_iff, hgen, and_assoc]
  · have hplan : p = cfg.planFor cause := hp.trans (by cases cause <;> rfl)
    exact jobSteps_eq hc hx hcause (hplan ▸ hs)

end Sys2Proof.StripeStore

/-! PROOFS. One placement of an insertion (R43 to R45): the home set of a key (R37), the way an entry takes, and the stripes
a dispatched frame offers. -/

namespace Sys2Proof.Machine

theorem homeSet_val (i : StreamIx) (k : Nat) : (homeSet i k).val = (k + 21 * streamId i) % 256 := rfl

theorem DirEntry.hasKey_iff (e : DirEntry) (i : StreamIx) (k : Nat) :
    e.hasKey i k = true ↔ e.stream = i ∧ e.stripe = k := by
  rw [hasKey, Bool.and_eq_true, beq_iff_eq, beq_iff_eq]

/-- A set with an entry written into way 1 (`second`) or way 0. -/
def DirSet.withWay (y : DirSet) (second : Bool) (e : DirEntry) : DirSet :=
  if second then { y with way1 := some e } else { y with way0 := some e }

namespace State

/-! ### What a placement makes of a state -/

/-- The next state of a placement: set `h` reads `y`, the eviction count `ev` and the store `w`, and the ordinal counter has
advanced (R43). -/
def placed (s : State) (h : Fin 256) (y : DirSet) (ev : Word32) (w : Store) : State :=
  { s with dir := { s.dir.put h y with nextOrdinal := s.dir.nextOrdinal + 1, evictions := ev }, store := w }

section Placed

variable (s : State) (h : Fin 256) (y : DirSet) (ev : Word32) (w : Store)

theorem placed_row_same : (s.placed h y ev w).dir.row h = y := s.dir.row_put_same h y

theorem placed_row_other {m : Fin 256} (hm : m ≠ h) : (s.placed h y ev w).dir.row m = s.dir.row m :=
  s.dir.row_put_other y hm

variable (second : Bool) (e old : DirEntry)

theorem overwriteWay_placed : s.advanceOrdinal.overwriteWay h second e old =
    s.placed h ((s.dir.row h).withWay second e) s.dir.evictions ((s.store.claim e.slot).release old.slot) := rfl

theorem fillWay_placed : s.advanceOrdinal.fillWay h second e =
    s.placed h ((s.dir.row h).withWay second e) s.dir.evictions (s.store.claim e.slot) := rfl

theorem evictWay_placed : s.advanceOrdinal.evictWay h second e old =
    s.placed h ((s.dir.row h).withWay second e) (s.dir.evictions + 1) ((s.store.release old.slot).claim e.slot) := rfl

end Placed

/-! ### The way an insertion takes (R44, R45) -/

/-- Every insertion is a placement into the home set. -/
theorem insertStripe_placed (s : State) (i : StreamIx) (k : Nat) (n : Word32) (gen : Nat) (x : Slot) :
    ∃ y ev w, s.insertStripe i k n gen x = s.placed (homeSet i k) y ev w := by
  unfold insertStripe
  dsimp only
  split
  case h_1 => exact ⟨_, _, _, fillWay_placed ..⟩
  case h_2 =>
    split
    · exact ⟨_, _, _, overwriteWay_placed ..⟩
    · exact ⟨_, _, _, fillWay_placed ..⟩
  case h_3 =>
    split
    · exact ⟨_, _, _, overwriteWay_placed ..⟩
    · exact ⟨_, _, _, fillWay_placed ..⟩
  case h_4 =>
    split_ifs
    · exact ⟨_, _, _, overwriteWay_placed ..⟩
    · exact ⟨_, _, _, overwriteWay_placed ..⟩
    · exact ⟨_, _, _, evictWay_placed ..⟩
    · exact ⟨_, _, _, evictWay_placed ..⟩

section Ways

variable {s : State} {i : StreamIx} {k : Nat} {o q : DirEntry} (n : Word32) (gen : Nat) (x : Slot)

/-- The key's own way, way 0, is overwritten, whatever way 1 holds (R44). -/
theorem insertStripe_own0 (h0 : (s.dir.row (homeSet i k)).way0 = some o) (ho : o.hasKey i k = true) :
    s.insertStripe i k n gen x = s.placed (homeSet i k)
      ((s.dir.row (homeSet i k)).withWay false (s.newEntry i k n gen x)) s.dir.evictions
      ((s.store.claim x).release o.slot) := by
  unfold insertStripe
  cases h1 : (s.dir.row (homeSet i k)).way1 with
  | none => simp only [h0, h1, if_pos ho]; exact overwriteWay_placed ..
  | some p => simp only [h0, h1, if_pos ho]; exact overwriteWay_placed ..

/-- The key's own way, way 1, is overwritten (R44). -/
theorem insertStripe_own1 (h0 : wayHasKey (s.dir.row (homeSet i k)).way0 i k = false)
    (h1 : (s.dir.row (homeSet i k)).way1 = some o) (ho : o.hasKey i k = true) :
    s.insertStripe i k n gen x = s.placed (homeSet i k)
      ((s.dir.row (homeSet i k)).withWay true (s.newEntry i k n gen x)) s.dir.evictions
      ((s.store.claim x).release o.slot) := by
  unfold insertStripe
  cases hw : (s.dir.row (homeSet i k)).way0 with
  | none => simp only [hw, h1, if_pos ho]; exact overwriteWay_placed ..
  | some p =>
    have hp : p.hasKey i k ≠ true := Bool.eq_false_iff.1 (hw ▸ h0 : wayHasKey (some p) i k = false)
    simp only [hw, h1, if_neg hp, if_pos ho]
    exact overwriteWay_placed ..

/-- An invalid way 0 is used when way 1 does not hold the key (R45). -/
theorem insertStripe_free0 (h0 : (s.dir.row (homeSet i k)).way0 = none)
    (h1 : wayHasKey (s.dir.row (homeSet i k)).way1 i k = false) :
    s.insertStripe i k n gen x = s.placed (homeSet i k)
      ((s.dir.row (homeSet i k)).withWay false (s.newEntry i k n gen x)) s.dir.evictions (s.store.claim x) := by
  unfold insertStripe
  cases hw : (s.dir.row (homeSet i k)).way1 with
  | none => simp only [h0, hw]; exact fillWay_placed ..
  | some p =>
    have hp : p.hasKey i k ≠ true := Bool.eq_false_iff.1 (hw ▸ h1 : wayHasKey (some p) i k = false)
    simp only [h0, hw, if_neg hp]
    exact fillWay_placed ..

/-- An invalid way 1 is used beside another key's entry (R45). -/
theorem insertStripe_free1 (h0 : (s.dir.row (homeSet i k)).way0 = some o) (ho : o.hasKey i k ≠ true)
    (h1 : (s.dir.row (homeSet i k)).way1 = none) :
    s.insertStripe i k n gen x = s.placed (homeSet i k)
      ((s.dir.row (homeSet i k)).withWay true (s.newEntry i k n gen x)) s.dir.evictions (s.store.claim x) := by
  unfold insertStripe
  simp only [h0, h1, if_neg ho]
  exact fillWay_placed ..

/-- With both ways at other keys the entry with the smaller ordinal is evicted (R45). -/
theorem insertStripe_evict (h0 : (s.dir.row (homeSet i k)).way0 = some o) (h1 : (s.dir.row (homeSet i k)).way1 = some q)
    (ho : o.hasKey i k ≠ true) (hq : q.hasKey i k ≠ true) :
    s.insertStripe i k n gen x =
      if o.ordinal < q.ordinal then
        s.placed (homeSet i k) ((s.dir.row (homeSet i k)).withWay false (s.newEntry i k n gen x))
          (s.dir.evictions + 1) ((s.store.release o.slot).claim x)
      else
        s.placed (homeSet i k) ((s.dir.row (homeSet i k)).withWay true (s.newEntry i k n gen x))
          (s.dir.evictions + 1) ((s.store.release q.slot).claim x) := by
  unfold insertStripe
  simp only [h0, h1, if_neg ho, if_neg hq, evictWay_placed]
  rfl

end Ways

/-! ### What a dispatched frame offers (R43) -/

/-- A stripe with a generation and a slot is offered when it is SOUND or REPAIRED and within the limit. -/
theorem offered_some {st : StripeRec} {g : Nat} {x : Slot} (hg : st.generation = some g) (hx : st.slot = some x)
    (limit : Nat) : offered st limit =
      if (st.state = .sound ∨ st.state = .repaired) ∧ g ≤ limit then some (g, x) else none := by
  unfold offered
  cases h : st.state <;> simp [hg, hx]

theorem offered_none {st : StripeRec} (h : st.generation = none ∨ st.slot = none) (limit : Nat) :
    offered st limit = none := by
  unfold offered
  split
  next hg hx => simp [hg, hx] at h
  next hg hx => simp [hg, hx] at h
  next => rfl

end State

end Sys2Proof.Machine

namespace Sys2Proof.StripeStore

open Machine Machine.State

/-- Settles O49: a placement by the contents of the two ways of the home set. -/
theorem insertionPlacesOneEntry : Obligations.InsertionPlacesOneEntry := by
  refine ⟨homeSet_val, fun s i n limit stripes => ?_, fun s i k gen n x h e t hh he ht => ?_⟩
  · unfold insertFrame
    refine congrArg (fun f => stripes.zipIdx.foldl f s) (funext fun u => funext fun p => ?_)
    cases hg : p.1.generation with
    | none => rw [offered_none (.inl hg)]
    | some g =>
      cases hx : p.1.slot with
      | none => rw [offered_none (.inr hx)]
      | some x =>
        rw [offered_some hg hx]
        by_cases hoff : (p.1.state = .sound ∨ p.1.state = .repaired) ∧ g ≤ limit
        · rw [if_pos hoff]; exact (if_pos hoff).symm
        · rw [if_neg hoff]; exact (if_neg hoff).symm
  · obtain rfl : e = s.newEntry i k n gen x := he
    subst hh ht
    obtain ⟨y, ev, w, hplaced⟩ := insertStripe_placed s i k n gen x
    refine ⟨?_, ?_, fun m hm => ?_, fun o h0 hi hk => ?_, fun o h0 h1 hi hk => ?_, fun h0 h1 => ?_, fun o h0 ho h1 => ?_,
      fun o q h0 h1 ho hq => ?_, ?_⟩
    · rw [hplaced]; rfl
    · rw [hplaced]; rfl
    · rw [hplaced]; exact placed_row_other _ _ _ _ _ hm
    · rw [insertStripe_own0 n gen x h0 ((o.hasKey_iff i k).2 ⟨hi, hk⟩)]
      exact ⟨placed_row_same .., rfl, rfl⟩
    · rw [insertStripe_own1 n gen x h0 h1 ((o.hasKey_iff i k).2 ⟨hi, hk⟩)]
      exact ⟨placed_row_same .., rfl, rfl⟩
    · rw [insertStripe_free0 n gen x h0 h1]
      exact ⟨placed_row_same .., rfl, rfl⟩
    · rw [insertStripe_free1 n gen x h0 (Bool.eq_false_iff.1 ho) h1, ← h0]
      exact ⟨placed_row_same .., rfl, rfl⟩
    · rw [insertStripe_evict n gen x h0 h1 (Bool.eq_false_iff.1 ho) (Bool.eq_false_iff.1 hq), ← h0, ← h1]
      refine ⟨?_, fun hlt => ?_, fun hlt => ?_⟩
      · split <;> rfl
      · rw [if_pos hlt]
        exact ⟨placed_row_same .., rfl⟩
      · rw [if_neg (BitVec.not_lt.2 (BitVec.le_of_lt hlt))]
        exact ⟨placed_row_same .., rfl⟩
    · rw [hplaced]
      exact ⟨rfl, rfl, rfl, rfl, rfl, rfl, rfl⟩

end Sys2Proof.StripeStore

/-! PROOFS. The end of a refetch timer and the matched resend: a try that fails, a stripe repaired by REFETCH (R59, R67,
R80 to R83). -/

namespace Sys2Proof.Machine

/-- The store with a payload on slot `x` of the free list, `rest` being left free (R24, R26). -/
def Store.stored (w : Store) (x : Slot) (rest : List Slot) (payload : List Byte) : Store :=
  Store.write { w with freeList := rest, holders := Table.set 0 x.val 1 w.holders } x payload

namespace State

/-! ### A try that fails (R82, R83) -/

/-- A running refetch timer ends (R82), and contexts then take work. -/
theorem exec_refetchTimerExpiry {s : State} {c : Fin 4} {b : Busy} {n left wait : Nat} {sent : Bool}
    (hc : s.context c = some b) (ho : b.op = .refetch n left wait sent true) :
    exec (.refetchTimerExpiry c) s = .next (s.refetchExpired c b n left wait).takeWork.kick := by
  show Host.Outcome.next (s.refetchTimerEnded c) = _
  rw [refetchTimerEnded, hc]
  dsimp only
  rw [ho]

/-- A try that fails once its ask is withdrawn. -/
theorem withdrawAsk_tryFails {s : State} {b : Busy} {f : FrameRec} {st : StripeRec} (c : Fin 4) (n left wait : Nat)
    (hf : s.frame b.job.stream b.job.number = some f) (hs : f.stripeAt b.job.stripe = some st) :
    s.TryFails ((s.withdrawAsk c).tryFailed c b n left wait) c b n left wait f st :=
  tryFailed_tryFails s (s.withdrawAsk c) c b n left wait f st hf hs rfl rfl rfl rfl

/-! ### A matched resend (R80, R81) -/

/-- A resend that a REFETCH context awaits is assessed (R80). -/
theorem takeResend_awaited {s : State} {i : StreamIx} {b : StripeBody} {c : Fin 4} {busy : Busy} {n left wait : Nat}
    {sent timer : Bool} (h : (s.stream i).state ≠ .stopped)
    (hw : s.awaiting { stream := i, number := b.number, stripe := b.index } = some (c, busy))
    (ho : busy.op = .refetch n left wait sent timer) :
    s.takeResend i b = s.assessResend c busy n left wait b.payload (judgePayload b).isNone := by
  rw [takeResend, if_neg h, hw]
  dsimp only
  rw [ho]

theorem judgePayload_isNone (b : StripeBody) : (judgePayload b).isNone = true ↔
    crc16 b.payload = b.paycheck ∧ b.dropout = false := by
  unfold judgePayload
  split_ifs <;> simp_all

section
variable {s : State} {b : Busy} {f : FrameRec} {st : StripeRec} {payload : List Byte}
  (c : Fin 4) (n left wait : Nat) (sound : Bool)

/-- A resend of a wrong length fails the try (R81). -/
theorem assessResend_wrongLength (hf : s.frame b.job.stream b.job.number = some f)
    (hl : payload.length ≠ f.stripeSize) :
    s.assessResend c b n left wait payload sound = (s.withdrawAsk c).tryFailed c b n left wait := by
  have hz : (s.withdrawAsk c).jobSize b.job = f.stripeSize := jobSize_eq hf
  rw [assessResend, hz]
  exact if_pos hl

/-- A resend of the right length for which no slot is free fails the try (R81). -/
theorem assessResend_noSlot {u : State} (hf : s.frame b.job.stream b.job.number = some f)
    (hl : payload.length = f.stripeSize) (ha : (s.withdrawAsk c).askSlot b.job.stream = (none, u)) :
    s.assessResend c b n left wait payload sound = u.tryFailed c b n left wait := by
  have hz : (s.withdrawAsk c).jobSize b.job = f.stripeSize := jobSize_eq hf
  rw [assessResend, hz, if_neg (not_not.2 hl), ha]

/-- A resend of the right length is written to the slot it is given, and kept there when it is SOUND (R81). -/
theorem assessResend_slot {u : State} {x : Slot} (hf : s.frame b.job.stream b.job.number = some f)
    (hl : payload.length = f.stripeSize) (ha : (s.withdrawAsk c).askSlot b.job.stream = (some x, u)) :
    s.assessResend c b n left wait payload sound =
      if sound then (u.modStore (·.write x payload)).completeRepair c b.job x false .refetch [] 0 []
      else ((u.modStore (·.write x payload)).release x).tryFailed c b n left wait := by
  have hz : (s.withdrawAsk c).jobSize b.job = f.stripeSize := jobSize_eq hf
  rw [assessResend, hz, if_neg (not_not.2 hl), ha]

end

/-- The stripe that a repair has changed, as its context's job names it. -/
theorem Repaired.stripe {s t : State} {c : Fin 4} {j : Job} {x : Slot} {m : Method} {donors : List Word32} {gen : Nat}
    {f : FrameRec} {st : StripeRec} {w : Store} (h : Repaired s t c j x m donors gen f st w)
    (hs : f.stripeAt j.stripe = some st) : t.stripe j = some { st with
      state := .repaired, slot := some x, method := some m, donors := donors, generation := some gen } := by
  have hl : j.stripe < f.stripes.length := (List.getElem?_eq_some_iff.1 hs).1
  rw [State.stripe, h.frame]
  simp [FrameRec.stripeAt, FrameRec.withResolved, hl]

/-- A SOUND resend repairs the stripe, its payload on the slot at the head of the free list (R59, R81). -/
theorem assessResend_repaired {s : State} {b : Busy} {f : FrameRec} {st : StripeRec} {payload : List Byte} {x : Slot}
    {rest : List Slot} (c : Fin 4) (n left wait : Nat) (hf : s.frame b.job.stream b.job.number = some f)
    (hs : f.stripeAt b.job.stripe = some st) (hl : payload.length = f.stripeSize)
    (hx : s.store.freeList = x :: rest) :
    Repaired (s.withdrawAsk c) (s.assessResend c b n left wait payload true) c b.job x .refetch [] 0 f st
      (st.slot.elim (s.store.stored x rest payload) (s.store.stored x rest payload).release) := by
  rw [assessResend_slot c n left wait true hf hl (askSlot_some (s := s.withdrawAsk c) hx _), if_pos rfl]
  have hR := completeRepair_repaired { s.withdrawAsk c with store := s.store.stored x rest payload } c b.job x false
    .refetch [] 0 [] f st hf hs
  exact ⟨hR.context, hR.frame, hR.counters, hR.store.trans (by cases st.slot <;> rfl), hR.dir, hR.drives, hR.ret,
    hR.monitor⟩

end State

end Sys2Proof.Machine

namespace Sys2Proof.RepairPlans

open Machine Machine.State

/-- Settles O52: the ask is withdrawn, and then the try fails as `tryFailed_tryFails` says. -/
theorem refetchTimerEndFailsTheTry : Obligations.RefetchTimerEndFailsTheTry := by
  intro s c b n left wait sent f st hc ho hf hs
  exact ⟨s.refetchExpired c b n left wait, exec_refetchTimerExpiry hc ho, withdrawAsk_tryFails c n left wait hf hs⟩

/-- Settles O22: the checks of R81 in their order; a resend that fails one fails the try as a timer's end does. -/
theorem matchedResendRepairs : Obligations.MatchedResendRepairs := by
  intro s i u b c busy f st n left wait sent timer ht ha hi hb hr hns haw hop hf hs
  obtain ⟨-, hj⟩ := context_of_awaiting haw
  have hfj : s.frame busy.job.stream busy.job.number = some f := by rw [hj]; exact hf
  have hsj : f.stripeAt busy.job.stripe = some st := by rw [hj]; exact hs
  rw [exec_stripeResend ht ha hi hb hr, takeResend_awaited hns haw hop]
  refine ⟨fun x rest hl hcrc hdrop hx => ?_, fun hl => ?_, fun hl hx => ?_, fun x rest hl hbad hx => ?_⟩
  · have hR := assessResend_repaired c n left wait hfj hsj hl hx
    have hstripe := hR.stripe hsj
    rw [(judgePayload_isNone b).2 ⟨hcrc, hdrop⟩]
    rw [hj] at hR hstripe
    refine ⟨_, rfl, hR.context, hstripe, hR.frame, hR.counters, hR.store.trans ?_, fun a hmem => ?_, hR.dir,
      hR.drives, hR.monitor⟩
    · cases st.slot <;> rfl
    · rw [hR.ret] at hmem
      exact bne_iff_ne.1 (List.mem_filter.1 hmem).2
  · rw [assessResend_wrongLength c n left wait _ hfj hl]
    exact ⟨_, rfl, withdrawAsk_tryFails c n left wait hfj hsj⟩
  · have hask := askSlot_none (s := s.withdrawAsk c) hx busy.job.stream
    have hji : busy.job.stream = i := congrArg Job.stream hj
    have hS := Signals.raise (s.withdrawAsk c) .storeFull 0 (BitVec.ofNat 32 (streamId i))
    rw [assessResend_noSlot c n left wait _ hfj hl hask, hji]
    refine ⟨_, rfl, tryFailed_tryFails _ _ c _ n left wait f st ((hS.frame _ _).trans hfj) hsj ?_ rfl rfl rfl⟩
    rw [hS.asks]
    exact (List.filter_eq_self.2 fun a hmem => (List.mem_filter.1 hmem).2).symm
  · have hask := askSlot_some (s := s.withdrawAsk c) hx busy.job.stream
    have hunsound : ¬ (judgePayload b).isNone = true := fun h =>
      hbad.elim (fun hne => hne ((judgePayload_isNone b).1 h).1) (by simp [((judgePayload_isNone b).1 h).2])
    rw [assessResend_slot c n left wait _ hfj hl hask, if_neg hunsound]
    exact ⟨_, rfl, withdrawAsk_tryFails (s := { s with store := (s.store.stored x rest b.payload).release x }) c n
      left wait hfj hsj⟩

end Sys2Proof.RepairPlans

/-! PROOFS. The plan table: how the steps of a plan are read, who uses a plan, LOAD_PLAN (R53 to R55). -/

namespace Sys2Proof.Machine

/-! ### Plan steps (R53) -/

/-- A plan is read when each of its steps is. -/
theorem readPlan_eq_some_iff (steps : List StepFields) (plan : List PlanStep) :
    readPlan steps = some plan ↔ steps.map readPlanStep = plan.map some := by
  induction steps generalizing plan with
  | nil => cases plan <;> simp [readPlan]
  | cons f fs ih =>
    cases plan with
    | nil =>
      rw [readPlan]
      split <;> simp
    | cons p ps =>
      rw [readPlan, List.map_cons, List.map_cons, List.cons.injEq, ← ih]
      split
      next st rest h1 h2 => simp [h1, h2]
      next hno => exact iff_of_false nofun fun h => hno p ps h.1 h.2

theorem PlanStep.mk_eq_iff {m : PlanMethod} {o : OnFail} {st : PlanStep} :
    { method := m, onFail := o } = st ↔ st.onFail = o ∧ st.method = m := by
  cases st
  simp [and_comm, eq_comm]

theorem readFlag_eq_ite (b : Byte) : readFlag b = if b.toNat ≤ 1 then some (b == 1) else none := by
  split
  next h =>
    obtain ⟨v, hv⟩ := readFlag_isSome.2 h
    rw [hv, readFlag_eq_some.1 hv]
    cases v <;> rfl
  next h => exact readFlag_eq_none (by omega)

/-- The method codes of R53, with the range of each one's parameters. -/
theorem readPlanStep_eq_some_iff (f : StepFields) (st : PlanStep) : readPlanStep f = some st ↔
    f.onFail.toNat ≤ 1 ∧ st.onFail = (if f.onFail = 1 then .endPlan else .next) ∧
    ((f.method = 1 ∧ f.first.toNat ≤ 1 ∧ st.method = .neighbour (f.first == 1)) ∨
     (f.method = 2 ∧ 1 ≤ f.first.toNat ∧ st.method = .previous f.first.toNat) ∨
     (f.method = 3 ∧ 1 ≤ f.first.toNat ∧ st.method = .blend f.first.toNat) ∨
     (f.method = 4 ∧ 1 ≤ f.first.toNat ∧ f.first.toNat ≤ 7 ∧ 1 ≤ f.second.toNat ∧
       st.method = .refetch f.first.toNat f.second.toNat) ∨
     (f.method = 6 ∧ f.onFail = 1 ∧ st.method = .mark)) := by
  unfold readPlanStep
  rw [readFlag_eq_ite f.onFail]
  by_cases hle : f.onFail.toNat ≤ 1
  · simp only [if_pos hle, beq_iff_eq]
    split
    next h => simp [BitVec.eq_of_toNat_eq (y := 1#8) h, hle, readFlag_eq_ite, PlanStep.mk_eq_iff, and_left_comm]
    next h => simp [BitVec.eq_of_toNat_eq (y := 2#8) h, hle, PlanStep.mk_eq_iff, and_left_comm]
    next h => simp [BitVec.eq_of_toNat_eq (y := 3#8) h, hle, PlanStep.mk_eq_iff, and_left_comm]
    next h => simp [BitVec.eq_of_toNat_eq (y := 4#8) h, hle, PlanStep.mk_eq_iff, and_assoc, and_left_comm]
    next h =>
      by_cases hend : f.onFail = 1#8 <;> simp [BitVec.eq_of_toNat_eq (y := 6#8) h, hle, hend, PlanStep.mk_eq_iff]
    next h1 h2 h3 h4 h6 =>
      refine iff_of_false nofun ?_
      rintro ⟨-, -, ⟨h, -⟩ | ⟨h, -⟩ | ⟨h, -⟩ | ⟨h, -⟩ | ⟨h, -⟩⟩
      · exact h1 (congrArg BitVec.toNat h)
      · exact h2 (congrArg BitVec.toNat h)
      · exact h3 (congrArg BitVec.toNat h)
      · exact h4 (congrArg BitVec.toNat h)
      · exact h6 (congrArg BitVec.toNat h)
  · rw [if_neg hle]
    exact iff_of_false nofun fun h => hle h.1

namespace State

/-! ### The users of a plan (R55, R56) -/

theorem causesNaming_eq_nil_iff (cfg : StreamConfig) (p : Fin 16) :
    causesNaming cfg p = [] ↔ ∀ c, cfg.planFor c ≠ p := by
  refine ⟨fun h c => ?_, fun h => ?_⟩
  · have hc := List.filter_eq_nil_iff.1 h c (by cases c <;> simp)
    simpa using hc
  · exact List.filter_eq_nil_iff.2 fun c _ => by simpa using h c

theorem planCauses_eq_nil_iff (s : State) (p : Fin 16) (i : StreamIx) : s.planCauses p i = [] ↔
    ∀ cfg c, (s.stream i).state.started = true → (s.stream i).config = some cfg → cfg.planFor c ≠ p := by
  unfold planCauses
  split
  next cfg hs hc =>
    rw [causesNaming_eq_nil_iff]
    refine ⟨fun h cfg' c _ hc' => ?_, fun h c => h cfg c hs hc⟩
    rw [← Option.some.inj (hc.symm.trans hc')]
    exact h c
  next hno => exact iff_of_true rfl fun cfg _ hs hc => absurd hc (hno cfg hs)

/-- No started stream names the plan (R55). -/
theorem planUsers_eq_nil_iff (s : State) (p : Fin 16) : s.planUsers p = [] ↔
    ∀ i cfg c, (s.stream i).state.started = true → (s.stream i).config = some cfg → cfg.planFor c ≠ p := by
  simp only [← planCauses_eq_nil_iff]
  refine ⟨fun h i => ?_, fun h => List.eq_nil_iff_forall_not_mem.2 fun u hu => ?_⟩
  · by_contra hne
    have hu := (mem_planUsers s p { stream := i, causes := s.planCauses p i }).2 ⟨hne, rfl⟩
    simp [h] at hu
  · obtain ⟨hne, he⟩ := (mem_planUsers s p u).1 hu
    exact hne (he.trans (h _))

/-! ### LOAD_PLAN (R54, R55) -/

section
variable {id count : Byte} {steps : List StepFields} (tag : Word16) (s : State)

theorem ownLoadPlan_bad (h : 15 < id.toNat ∨ steps.length ≠ count.toNat ∨ readPlan steps = none) :
    ownLoadPlan tag id count steps s = s.refuse tag .badParameter := by
  unfold ownLoadPlan
  split
  next => rfl
  next p hp =>
    have hlt := finOf_isSome.1 ⟨p, hp⟩
    split
    next hcount =>
      obtain ⟨-, -, hlen⟩ := hcount
      rw [(h.resolve_left (by omega)).resolve_left (not_not.2 hlen)]
    next => rfl

theorem ownLoadPlan_read {p : Fin 16} {plan : List PlanStep} (hp : id.toNat = p.val) (h1 : 1 ≤ steps.length)
    (h8 : steps.length ≤ 8) (hc : steps.length = count.toNat) (hr : readPlan steps = some plan) :
    ownLoadPlan tag id count steps s =
      if s.planUsers p = [] then
        { s with plans := s.plans.set p (some plan) }.done tag (.loadPlan s.plans[p].isSome)
      else s.refuse tag .planInUse := by
  rw [ownLoadPlan, finOf_eq_some.2 hp.symm]
  dsimp only
  rw [if_pos ⟨hc ▸ h1, hc ▸ h8, hc⟩, hr]
  rfl

end

end State

end Sys2Proof.Machine

namespace Sys2Proof.RepairPlans

open Machine Machine.State

/-- Settles O40: the checks of R54 and R55 in their order, and the codes of the steps. -/
theorem loadPlanReplacesThePlan : Obligations.LoadPlanReplacesThePlan := by
  refine ⟨fun tag id count steps s ht h1 h8 => ?_, readPlan_eq_some_iff, readPlanStep_eq_some_iff⟩
  have hexec : exec (.loadPlan tag id count steps) s = .next (ownLoadPlan tag id count steps s).kick :=
    exec_commandRow tag (.loadPlan id count steps) ht (by simp [commandForm, itemsFit, h1, h8])
  rw [hexec]
  refine ⟨fun hbad => ?_, fun p plan hp hc hr => ?_⟩
  · rw [ownLoadPlan_bad tag s hbad]
  · rw [ownLoadPlan_read tag s hp h1 h8 hc hr]
    refine ⟨fun ⟨i, cfg, c, hs, hcfg, hplan⟩ => ?_, fun hfree => ?_⟩
    · rw [if_neg fun h => (planUsers_eq_nil_iff s p).1 h i cfg c hs hcfg hplan]
    · rw [if_pos ((planUsers_eq_nil_iff s p).2 hfree)]

end Sys2Proof.RepairPlans

/-! PROOFS. ENGINE_STATUS: the report of each context, and of the queue's first frame (R91). -/

namespace Sys2Proof.Machine

/-- What a REFETCH step adds to the report of its context (R91), with the free value `fresh` for a running timer. -/
def Operation.refetchReport (fresh : Nat) : Operation → Option RefetchReport
  | .refetch tryNo left wait sent timer =>
    some { tryNo := tryNo, triesLeft := left, sent := sent
           timeLeft := if timer then some (State.drawTimeLeft fresh wait) else none }
  | .neighbour _ _ _ | .blend _ _ _ _ | .verify _ => none

namespace State

/-! ### The time left on a refetch timer (log 3) -/

theorem one_le_drawTimeLeft (fresh wait : Nat) : 1 ≤ drawTimeLeft fresh wait := Nat.le_add_right 1 _

theorem drawTimeLeft_le (fresh : Nat) {wait : Nat} (h : 1 ≤ wait) : drawTimeLeft fresh wait ≤ wait := by
  rw [drawTimeLeft, Nat.add_comm]
  exact Nat.mod_lt _ h

/-! ### The contexts -/

/-- The plan a stripe walks is the one its cause names (R57). -/
theorem jobPlan_eq {s : State} {j : Job} {cfg : StreamConfig} {x : StripeRec} {cause : Cause}
    (hcfg : (s.stream j.stream).config = some cfg) (hx : s.stripe j = some x) (hcause : x.cause = some cause) :
    s.jobPlan j = some (cfg.planFor cause) := by
  simp [jobPlan, hcfg, hx, hcause]

theorem contextReport_free {s : State} {c : Fin 4} (fresh : Nat) (h : s.context c = none) :
    s.contextReport fresh c = none := by
  rw [contextReport, h, Option.map_none]

theorem contextReport_busy {s : State} {c : Fin 4} {b : Busy} (fresh : Nat) (h : s.context c = some b) :
    s.contextReport fresh c = some
      { composing := b.op.composing, job := b.job, plan := ((s.jobPlan b.job).map (·.val)).getD 0, step := b.step
        method := b.op.method, slots := b.op.inputs ++ b.op.result.toList
        refetch := b.op.refetchReport (fresh + c.val) } := by
  rw [contextReport, h, Option.map_some]
  cases b.op <;> rfl

/-- The report gives the contexts in order (R91). -/
theorem engineReport_contexts_getElem? (s : State) (c : Fin 4) :
    s.engineReport.contexts[c.val]? = some (s.contextReport s.freshIndex c) := by
  have hc : allContexts[c.val]? = some c := by
    revert c
    decide
  rw [engineReport, List.getElem?_map, hc, Option.map_some]

/-! ### The queue's first frame -/

theorem engineReport_first_empty {s : State} (h : s.engine.queue = []) : s.engineReport.first = none := by
  rw [engineReport, h, List.head?_nil, Option.map_none]

theorem engineReport_first_cons {s : State} {q : QueueRef} {rest : List QueueRef} {f : FrameRec}
    (h : s.engine.queue = q :: rest) (hf : s.frame q.stream q.number = some f) :
    s.engineReport.first =
      some { stream := q.stream, number := q.number, ordinal := q.ordinal, damaged := f.damagedNow } := by
  rw [engineReport, h, List.head?_cons, Option.map_some, hf, Option.map_some, Option.getD_some]

end State

end Sys2Proof.Machine

namespace Sys2Proof.RepairEngine

open Machine Machine.State

/-- Settles O32: the reply is `State.engineReport`, and a busy context's report goes by its operation. -/
theorem engineStatusReports : Obligations.EngineStatusReports := by
  intro tag s ht
  refine ⟨s.engineReport, exec_commandRow tag .engineStatus ht rfl, rfl, rfl, rfl, engineReport_first_empty,
    fun q rest f => engineReport_first_cons, rfl, rfl, fun c hc => ?free, fun c b hb => ?busy⟩
  case free => rw [engineReport_contexts_getElem?, contextReport_free _ hc]
  case busy =>
    obtain ⟨job, step, op⟩ := b
    refine ⟨_, (engineReport_contexts_getElem? s c).trans (congrArg some (contextReport_busy _ hb)), rfl, rfl,
      fun cfg st cause hcfg hst hcause => ?plan, ?neighbour, ?blend, ?verify, ?refetch⟩
    case plan =>
      dsimp only
      rw [jobPlan_eq hcfg hst hcause, Option.map_some, Option.getD_some]
    case neighbour =>
      rintro inputs x g rfl
      exact ⟨rfl, rfl, rfl, rfl⟩
    case blend =>
      rintro d m y x rfl
      exact ⟨rfl, rfl, rfl, rfl⟩
    case verify =>
      rintro d rfl
      exact ⟨rfl, rfl, rfl, rfl⟩
    case refetch =>
      rintro n left wait sent timer rfl
      refine ⟨rfl, rfl, rfl, ?_, ?_⟩
      · rintro rfl
        rfl
      · rintro rfl hwait
        exact ⟨_, rfl, one_le_drawTimeLeft _ _, drawTimeLeft_le _ hwait⟩

end Sys2Proof.RepairEngine

/-! PROOFS. SET_SLOT_PATTERN: its checks in their order, and the pattern taken at once or left pending (R96). -/

namespace Sys2Proof.Machine.State

variable {id pattern : Byte}

theorem ownSetSlotPattern_bad (h : streamOf id = none ∨ pattern = 0) (tag : Word16) (s : State) :
    ownSetSlotPattern tag id pattern s = s.refuse tag .badParameter := by
  unfold ownSetSlotPattern
  split
  next => rfl
  next i hi => exact if_pos (h.resolve_left (by simp [hi]))

theorem ownSetSlotPattern_valid {i : StreamIx} (hi : streamOf id = some i) (hp : pattern ≠ 0) (tag : Word16) (s : State) :
    ownSetSlotPattern tag id pattern s =
      if (s.stream i).state = .unconfigured then s.refuse tag .wrongState
      else (s.setStream i (changePattern (s.stream i) pattern)).done tag
        (.slotPattern (cadenceReport (s.stream i).cadence)) := by
  rw [ownSetSlotPattern, hi]
  exact if_neg hp

theorem changePattern_configured {r : StreamRec} (h : r.state = .configured) (p : BitVec 8) :
    changePattern r p =
      { r with
        config := r.config.map fun cfg => { cfg with pattern := p }
        cadence := { r.cadence with pattern := some p } } := if_pos h

theorem changePattern_started {r : StreamRec} (h : r.state.started = true) (p : BitVec 8) :
    changePattern r p = { r with cadence := { r.cadence with pendingPattern := some p } } := by
  refine if_neg fun hc => ?_
  rw [hc] at h
  contradiction

end Sys2Proof.Machine.State

namespace Sys2Proof.CadenceAndDispatch

open Machine Machine.State

/-- Settles O41: the checks of R96 in their order, then the change by the stream's state. -/
theorem setSlotPatternTakesEffect : Obligations.SetSlotPatternTakesEffect := by
  intro tag id pattern s ht
  have hrow : exec (.setSlotPattern tag id pattern) s = .next (ownSetSlotPattern tag id pattern s).kick :=
    exec_commandRow tag (.setSlotPattern id pattern) ht rfl
  rw [hrow]
  refine ⟨fun hbad => by rw [ownSetSlotPattern_bad hbad], fun i r hi hp hr => ?_⟩
  subst hr
  rw [ownSetSlotPattern_valid hi hp]
  refine ⟨fun hu => by rw [if_pos hu], fun hc => ?_, fun hs => ?_⟩
  · have hu : (s.stream i).state ≠ .unconfigured := by simp [hc]
    rw [if_neg hu, changePattern_configured hc]
    rfl
  · have hu : (s.stream i).state ≠ .unconfigured := fun e => by
      rw [e] at hs
      contradiction
    rw [if_neg hu, changePattern_started hs]
    rfl

end Sys2Proof.CadenceAndDispatch

/-! PROOFS. SURVEY, HOLD_DRIVE, RELEASE_DRIVE and PASS_TO_DRIVE (R131, R148, R149, R151). -/

namespace Sys2Proof.Machine.State

/-- A drive's record is changed where it is known. -/
theorem modDrive_eq {s : State} {a : DriveIx} {d : DriveRec} (h : s.drive a = d) (g : DriveRec → DriveRec) :
    s.modDrive a g = s.setDrive a (g d) := by
  rw [modDrive, h]

/-- HELD is entered with the head back in WAITING_SPACE, and nothing else follows (R120, R134, R141, R148). -/
theorem setCondition_held (s : State) (a : DriveIx) :
    s.setCondition a .held = s.setDrive a { s.drive a with condition := .held, transfer := .waitingSpace, carry := [] } := by
  simp [setCondition, leftHeld, enteredFull, renewsAsk, Condition.stopsTransfer, Condition.outOfService, headWaiting,
    modDrive, setDrive_setDrive]

theorem hold_eq (s : State) (a : DriveIx) : s.hold a = s.setDrive a { s.drive a with
    condition := .held, releasePending := false, statusRequested := false, transfer := .waitingSpace, carry := [] } := by
  simp [hold, setCondition_held, modDrive, setDrive_setDrive]

theorem boundActive_iff (s : State) (a : DriveIx) : s.boundActive a = true ↔ ∃ i, (s.drive a).binding = .active i := by
  unfold boundActive
  cases (s.drive a).binding <;> simp

section
variable {id : Byte} {a : DriveIx}

/-- The checks of HOLD_DRIVE in their order, and its effect (R148). -/
theorem ownHoldDrive_valid (h : driveOf id = some a) (tag : Word16) (s : State) : ownHoldDrive tag id s =
    if (s.drive a).condition = .absent then s.refuse tag .noDrive
    else if (∃ i, (s.drive a).binding = .active i) ∨ (s.drive a).queue ≠ [] then s.refuse tag .inUse
    else (s.hold a).done tag (.holdDrive ((s.drive a).condition == .held) (s.drive a).condition) := by
  simp [ownHoldDrive, h, boundActive_iff]

/-- The checks of RELEASE_DRIVE in their order, and its effect (R149). -/
theorem ownReleaseDrive_valid (h : driveOf id = some a) (tag : Word16) (s : State) : ownReleaseDrive tag id s =
    if (s.drive a).condition ≠ .held then s.refuse tag .wrongState
    else if (s.drive a).relay ≠ .none then s.refuse tag .busy
    else if (s.drive a).releasePending then s.done tag .empty
    else (s.modDrive a fun d => { d with releasePending := true, statusRequested := true }).done tag .empty := by
  rw [ownReleaseDrive, h]

/-- The checks of PASS_TO_DRIVE in their order, and its effect (R151). -/
theorem ownPassToDrive_valid {count : Byte} {bytes : List Byte} (h : driveOf id = some a) (h1 : 1 ≤ bytes.length)
    (h32 : bytes.length ≤ 32) (tag : Word16) (s : State) : ownPassToDrive tag id count bytes s =
    if bytes.length = count.toNat then
      if (s.drive a).condition ≠ .held ∨ (s.drive a).releasePending = true then s.refuse tag .wrongState
      else if (s.drive a).relay ≠ .none then s.refuse tag .busy
      else s.modDrive a fun d => { d with relay := .pending tag bytes }
    else s.refuse tag .badParameter := by
  have hrange : 1 ≤ count.toNat ∧ count.toNat ≤ 32 ∧ bytes.length = count.toNat ↔ bytes.length = count.toNat := by
    omega
  rw [ownPassToDrive, h]
  exact if_congr hrange rfl rfl

end

end Sys2Proof.Machine.State

namespace Sys2Proof.BurnLink

open Machine Machine.State

/-- Settles O42: the four owning rules, each by the checks it makes. -/
theorem driveCommandsAct : Obligations.DriveCommandsAct := by
  intro tag s ht
  have hsurvey : exec (.survey tag) s = .next (ownSurvey tag s).kick := exec_commandRow tag .survey ht rfl
  have hhold (id : Byte) : exec (.holdDrive tag id) s = .next (ownHoldDrive tag id s).kick :=
    exec_commandRow tag (.holdDrive id) ht rfl
  have hrelease (id : Byte) : exec (.releaseDrive tag id) s = .next (ownReleaseDrive tag id s).kick :=
    exec_commandRow tag (.releaseDrive id) ht rfl
  have hpass (id count : Byte) {bytes : List Byte} (h1 : 1 ≤ bytes.length) (h32 : bytes.length ≤ 32) :
      exec (.passToDrive tag id count bytes) s = .next (ownPassToDrive tag id count bytes s).kick :=
    exec_commandRow tag (.passToDrive id count bytes) ht (by simp [commandForm, itemsFit, h1, h32])
  refine ⟨fun h => ?_, fun h => ?_, fun id count bytes hid h1 h32 => ⟨?_, ?_, ?_⟩, fun id a d hid hd => ?_⟩
  · rw [hsurvey, ownSurvey, if_pos (Option.isSome_iff_ne_none.2 h)]
  · rw [hsurvey, ownSurvey, h]
    rfl
  · rw [hhold, ownHoldDrive, hid]
  · rw [hrelease, ownReleaseDrive, hid]
  · rw [hpass id count h1 h32, ownPassToDrive, hid]
  · subst hd
    rw [hhold, hrelease, ownHoldDrive_valid hid, ownReleaseDrive_valid hid]
    refine ⟨fun h => by rw [if_pos h], fun h hu => by rw [if_neg h, if_pos hu], fun h hb hq => ?_,
      fun h => by rw [if_pos h], fun h hr => ?_, fun h hr hp => ?_, fun h hr hp => ?_, fun count bytes h1 h32 => ?_⟩
    · rw [if_neg h, if_neg (by simp [hb, hq]), hold_eq]
    · rw [if_neg (not_not.2 h), if_pos hr]
    · rw [if_neg (not_not.2 h), if_neg (not_not.2 hr), if_pos hp]
    · rw [if_neg (not_not.2 h), if_neg (not_not.2 hr), if_neg (by simp [hp])]
      rfl
    · rw [hpass id count h1 h32, ownPassToDrive_valid hid h1 h32]
      refine ⟨fun hn => by rw [if_neg hn], fun hn h => by rw [if_pos hn, if_pos h], fun hn h hp hr => ?_,
        fun hn h hp hr => ?_⟩
      · rw [if_pos hn, if_neg (by simp [h, hp]), if_pos hr]
      · rw [if_pos hn, if_neg (by simp [h, hp]), if_neg (not_not.2 hr)]
        rfl

end Sys2Proof.BurnLink

/-! PROOFS. Turn boundaries (R118): the first pending item, the poll round (R129, R130) and the rotation (R119). -/

namespace Sys2Proof.Machine

/-- The value at the lowest drive that gives one. -/
theorem findSome_lowest {β : Type} {g : DriveIx → Option β} {a : DriveIx} {x : β} (hx : g a = some x)
    (hl : ∀ b, b < a → g b = none) : allDrives.findSome? g = some x := by
  have hsplit : allDrives = allDrives.take a.val ++ a :: allDrives.drop (a.val + 1) := by
    clear hx hl
    revert a
    decide
  have hbelow : ∀ b ∈ allDrives.take a.val, b < a := by
    clear hx hl hsplit
    revert a
    decide
  rw [List.findSome?_eq_some_iff]
  exact ⟨_, a, _, hsplit, hx, fun b hb => hl b (hbelow b hb)⟩

/-- When a drive has work (R119). -/
theorem DriveRec.hasWork_iff (d : DriveRec) : d.hasWork = true ↔
    (d.queue ≠ [] ∧ (d.condition = .ready ∨ d.condition = .full) ∧ d.abandonOwed = false) ∨
      ∃ tag, d.relay = .outstanding tag := by
  unfold hasWork
  cases d.relay <;> simp [and_assoc]

namespace State

variable {s : State} {a : DriveIx}

/-! ### What a frame turn sends (R119, R122, R124, R133) -/

theorem startAbandon_eq {f : FrameRec} {rest : List FrameRec} (h : (s.drive a).queue = f :: rest) :
    s.startAbandon a = s.startUnit a .abandon (.abandon f.stream f.seq) := by
  rw [startAbandon, h]
  rfl

theorem startNote_eq {f : FrameRec} {note : RepairNote} (h : f.note = some note) (s : State) (a : DriveIx) :
    s.startNote a f = s.startUnit a .frame (.note f.stream f.seq note.sector) := by
  rw [startNote, h]
  rfl

/-- A head frame in WAITING_SPACE asks for space, and is SPACE_ASKED (R119, R120; log 30). -/
theorem frameUnit_waiting {f : FrameRec} {rest : List FrameRec} (hq : (s.drive a).queue = f :: rest)
    (ht : (s.drive a).transfer = .waitingSpace) : s.frameUnit a =
      (s.setDrive a { s.drive a with transfer := .spaceAsked }).startUnit a .frame (.spaceAsk f.stream f.seq f.need) := by
  rw [frameUnit, hq, ht]
  rfl

/-- A head frame in SENDING sends its next data sectors, or its NOTE when none is left (R119, R122, R124). -/
theorem frameUnit_sending {f : FrameRec} {rest : List FrameRec} {k : Nat} (hq : (s.drive a).queue = f :: rest)
    (ht : (s.drive a).transfer = .sending k) : s.frameUnit a =
      if k < dataSectors f.stripeCount f.stripeSize then s.startWrite a f k else s.startNote a f := by
  rw [frameUnit, hq, ht]
  rfl

/-- A rotation turn of a drive with an OUTSTANDING relay asks for its status (R119). -/
theorem rotationTurn_relay {tag : Word16} (h : (s.drive a).relay = .outstanding tag) : s.rotationTurn a =
    { s with burn := { s.burn with rotation := a } }.startUnit a .relayTurn .statusAsk := by
  have hr : ((s.modBurn fun b => { b with rotation := a }).drive a).relay = .outstanding tag := h
  rw [rotationTurn, hr]
  rfl

/-- A rotation turn of a drive without a relay is its frame turn (R119). -/
theorem rotationTurn_frame (h : (s.drive a).relay = .none) :
    s.rotationTurn a = { s with burn := { s.burn with rotation := a } }.frameUnit a := by
  have hr : ((s.modBurn fun b => { b with rotation := a }).drive a).relay = .none := h
  rw [rotationTurn, hr]
  rfl

/-! ### Relays that wait (R134) -/

theorem pendingRelay_lowest {tag : Word16} {bytes : List Byte} (h : (s.drive a).relay = .pending tag bytes)
    (hl : ∀ b, b < a → ∀ u bs, (s.drive b).relay ≠ .pending u bs) : s.pendingRelay = some (a, bytes) := by
  refine findSome_lowest (a := a) (by rw [h]) fun b hb => ?_
  cases hr : (s.drive b).relay with
  | pending u bs => exact absurd hr (hl b hb u bs)
  | outstanding | none => rfl

theorem pendingRelay_none (h : ∀ a u bs, (s.drive a).relay ≠ .pending u bs) : s.pendingRelay = none := by
  rw [pendingRelay, List.findSome?_eq_none_iff]
  intro a _
  cases hr : (s.drive a).relay with
  | pending u bs => exact absurd hr (h a u bs)
  | outstanding | none => rfl

/-! ### The first pending item (R118) -/

theorem startItem_owed (h : (s.drive a).abandonOwed = true) (hl : ∀ b, b < a → (s.drive b).abandonOwed = false) :
    s.startItem = s.startAbandon a := by
  rw [startItem, find_lowest _ a h hl]

section
variable (howed : ∀ a, (s.drive a).abandonOwed = false)
include howed

theorem startItem_relay {bytes : List Byte} (h : s.pendingRelay = some (a, bytes)) :
    s.startItem = s.startUnit a .relayCommand (.driveCommand bytes) := by
  rw [startItem, find_none_of_all _ howed, h]

theorem startItem_requested (hr : s.pendingRelay = none) (h : (s.drive a).statusRequested = true)
    (hl : ∀ b, b < a → (s.drive b).statusRequested = false) : s.startItem = s.startUnit a .requested .statusAsk := by
  rw [startItem, find_none_of_all _ howed, hr, find_lowest _ a h hl]

section
variable (hr : s.pendingRelay = none) (hs : ∀ a, (s.drive a).statusRequested = false)
include hr hs

theorem startItem_survey (h : s.burn.survey.isSome = true) : s.startItem = s.nextSurvey := by
  simp only [startItem, find_none_of_all _ howed, hr, find_none_of_all _ hs, if_pos h]

variable (hv : s.burn.survey = none)
include hv

theorem startItem_poll (h : s.burn.pollDue = true) :
    s.startItem = { s with burn := { s.burn with pollDue := false } }.nextPoll 1 := by
  have hn : ¬ s.burn.survey.isSome = true := by simp [hv]
  simp only [startItem, find_none_of_all _ howed, hr, find_none_of_all _ hs, if_neg hn, if_pos h]
  rfl

variable (hp : s.burn.pollDue = false)
include hp

theorem startItem_rotation (h : ((addressesAbove s.burn.rotation).find? fun a => (s.drive a).hasWork) = some a) :
    s.startItem = s.rotationTurn a := by
  simp [startItem, find_none_of_all _ howed, hr, find_none_of_all _ hs, hv, hp, h]

theorem startItem_idle (h : ∀ a, (s.drive a).hasWork = false) : s.startItem = s := by
  simp [startItem, find_none_of_all _ howed, hr, find_none_of_all _ hs, hv, hp, find_none_of_all _ h]

end

end

theorem exec_turnBoundary (he : s.burn.exchange = none) (hc : s.burn.closing = []) (hi : s.burn.item = .idle)
    (hh : s.monitor.halted = false) : exec .turnBoundary s = .next s.startItem.kick := by
  have hb : s.atBoundary = true := by simp [atBoundary, he, hc, hi, hh]
  show Host.Outcome.next s.turnBoundary = _
  rw [turnBoundary, if_pos hb]

/-! ### The poll round and the survey, begun at a boundary (R129 to R131) -/

theorem nextSurvey_asks {v : Survey} (hv : s.burn.survey = some v) (ha : v.next = driveAddress a)
    (hh : s.monitor.halted = false) : s.nextSurvey = { s with burn := { s.burn with
      item := .survey, survey := some { v with next := v.next + 1 } } }.startUnit a .survey .presenceAsk := by
  have hb : 1 ≤ v.next ∧ v.next ≤ 8 := by simp only [ha, driveAddress]; omega
  have hix : (⟨v.next - 1, by omega⟩ : DriveIx) = a := Fin.ext (by simp [ha, driveAddress])
  rw [nextSurvey, hv]
  dsimp only
  rw [dif_pos hb, if_neg (by simp [hh]), hix]
  rfl

/-- What a poll round begun at a boundary does first is what one under way does next. -/
theorem nextPoll_goesOn (he : s.burn.exchange = none) (n : Nat) :
    ({ s with burn := { s.burn with item := .poll n } } : State).GoesOn (s.nextPoll n) := by
  have hgo := endExchange_goesOn { s with burn := { s.burn with item := .poll n } }
  have hsame : s.nextPoll n = { s with burn := { s.burn with exchange := none } }.nextPoll n := by rw [← he]
  rw [hsame]
  exact hgo

theorem pollAsks_boundary (hv : s.burn.survey = none) : s.PollAsks 1 a ↔
    (s.drive a).present = true ∧ (s.drive a).hasWork = false := by
  simp [PollAsks, hv, driveAddress]

theorem discoveryAsks_boundary (hv : s.burn.survey = none) : s.DiscoveryAsks a ↔ (s.drive a).condition = .absent := by
  simp [DiscoveryAsks, hv]

end State

end Sys2Proof.Machine

namespace Sys2Proof.BurnLink

open Machine Machine.State

/-- The poll round at a boundary where nothing before it is pending (R129, R130). -/
theorem pollRound_begins {s : State} (he : s.burn.exchange = none) (hi : s.burn.item = .idle)
    (hh : s.monitor.halted = false) (hv : s.burn.survey = none) {r : State}
    (hr : r = { s with burn := { s.burn with pollDue := false } }.nextPoll 1) :
    (∀ a, (s.drive a).present = true → (s.drive a).hasWork = false →
      (∀ b, b < a → (s.drive b).present = false ∨ (s.drive b).hasWork = true) →
      r = { s with burn := { s.burn with pollDue := false, item := .poll (driveAddress a + 1) } }.startUnit a
        .pollStatus .statusAsk) ∧
    ((∀ a, (s.drive a).present = false ∨ (s.drive a).hasWork = true) →
      (∀ k : Nat, 1 ≤ k → k ≤ 8 → (s.drive (s.burn.discovery + Fin.ofNat 8 k)).condition = .absent →
        (∀ m : Nat, 1 ≤ m → m < k → (s.drive (s.burn.discovery + Fin.ofNat 8 m)).condition ≠ .absent) →
        r = { s with burn := { s.burn with
          pollDue := false, item := .idle, discovery := s.burn.discovery + Fin.ofNat 8 k } }.startUnit
            (s.burn.discovery + Fin.ofNat 8 k) .discovery .presenceAsk) ∧
      ((∀ a, (s.drive a).condition ≠ .absent) → r = { s with burn := { s.burn with pollDue := false } })) := by
  generalize ht : ({ s with burn := { s.burn with pollDue := false, item := .poll 1 } } : State) = t
  have hgo : t.GoesOn r := by
    rw [hr, ← ht]
    exact nextPoll_goesOn (s := { s with burn := { s.burn with pollDue := false } }) he 1
  have hpoll (a : DriveIx) : t.PollAsks 1 a ↔ (s.drive a).present = true ∧ (s.drive a).hasWork = false := by
    rw [← ht]
    exact pollAsks_boundary hv
  have hdisc (a : DriveIx) : t.DiscoveryAsks a ↔ (s.drive a).condition = .absent := by
    rw [← ht]
    exact discoveryAsks_boundary hv
  have hquiet {a : DriveIx} (h : (s.drive a).present = false ∨ (s.drive a).hasWork = true) : ¬ t.PollAsks 1 a := by
    rw [hpoll]
    obtain h | h := h <;> simp [h]
  obtain ⟨-, -, hround⟩ := hgo
  obtain ⟨hask, hnone⟩ := (hround 1 (by rw [← ht])).2 (by rw [← ht]; exact hh)
  refine ⟨fun a hp hw hl => ?_, fun hall => ⟨fun k h1 h8 hk hm => ?_, fun ha => ?_⟩⟩
  · rw [hask a ((hpoll a).2 ⟨hp, hw⟩) fun b hb => hquiet (hl b hb), ← ht]
  · subst ht
    exact (hnone fun a => hquiet (hall a)).1 k h1 h8 ((hdisc _).2 hk) fun j h1 hj => mt (hdisc _).1 (hm j h1 hj)
  · rw [(hnone fun a => hquiet (hall a)).2 fun a => mt (hdisc a).1 (ha a), ← ht]
    simp [he, hi]

/-- A frame turn of the drive at the rotation pointer (R119, R122, R124). -/
theorem rotationTurn_sends (s : State) (a : DriveIx) :
    (∀ tag, (s.drive a).relay = .outstanding tag → s.rotationTurn a =
      { s with burn := { s.burn with rotation := a } }.startUnit a .relayTurn .statusAsk) ∧
    (∀ f rest, (s.drive a).queue = f :: rest → (s.drive a).relay = .none →
      ((s.drive a).transfer = .waitingSpace → s.rotationTurn a =
        ({ s with burn := { s.burn with rotation := a } }.setDrive a { s.drive a with
          transfer := .spaceAsked }).startUnit a .frame (.spaceAsk f.stream f.seq f.need)) ∧
      (∀ sector, (s.drive a).transfer = .sending sector →
        (sector < dataSectors f.stripeCount f.stripeSize → s.rotationTurn a =
          { s with burn := { s.burn with rotation := a } }.startWrite a f sector) ∧
        (∀ note, dataSectors f.stripeCount f.stripeSize ≤ sector → f.note = some note →
          s.rotationTurn a = { s with burn := { s.burn with rotation := a } }.startUnit a .frame
            (.note f.stream f.seq note.sector)))) := by
  refine ⟨fun tag h => rotationTurn_relay h, fun f rest hq hr => ?_⟩
  rw [rotationTurn_frame hr]
  generalize hu : ({ s with burn := { s.burn with rotation := a } } : State) = u
  have hd : u.drive a = s.drive a := by rw [← hu]; rfl
  rw [← hd] at hq ⊢
  refine ⟨fun ht => frameUnit_waiting hq ht, fun sector ht => ?_⟩
  rw [frameUnit_sending hq ht]
  refine ⟨fun hs => if_pos hs, fun note hs hn => ?_⟩
  rw [if_neg (by omega), startNote_eq hn]

/-- Settles O54: the items in the order of R118, each begun where none before it is pending. -/
theorem turnBoundaryTakesTheFirstItem : Obligations.TurnBoundaryTakesTheFirstItem := by
  refine ⟨startWrite_writeBegins, fun _ _ _ _ => rfl, fun s h => congrArg Host.Outcome.next (if_pos h),
    DriveRec.hasWork_iff, fun s he hc hi hh => ?_⟩
  rw [exec_turnBoundary he hc hi hh]
  refine ⟨fun a f rest ha hl hq => ?_, fun howed => ⟨fun a tag bytes hp hl => ?_, fun hp =>
    ⟨fun a ha hl => ?_, fun hs => ⟨fun v a hv ha => ?_, fun hv => ?_⟩⟩⟩⟩
  · rw [startItem_owed ha hl, startAbandon_eq hq]
  · rw [startItem_relay howed (pendingRelay_lowest hp hl)]
  · rw [startItem_requested howed (pendingRelay_none hp) ha hl]
  · rw [startItem_survey howed (pendingRelay_none hp) hs (by simp [hv]), nextSurvey_asks hv ha hh]
  · have hr := pendingRelay_none hp
    refine ⟨fun a hd h1 h2 h3 => ?_, fun hd hall => ?_, fun k a hd h1 h8 hak hw hm => ?_, fun hd hw => ?_⟩
    · rw [(pollRound_begins he hi hh hv (startItem_poll howed hr hs hv hd)).1 a h1 h2 h3]
    · obtain ⟨-, hnone⟩ := pollRound_begins he hi hh hv (startItem_poll howed hr hs hv hd)
      exact ⟨fun k h1 h8 hk hm => by rw [(hnone hall).1 k h1 h8 hk hm], fun ha => by rw [(hnone hall).2 ha]⟩
    · subst hak
      rw [startItem_rotation howed hr hs hv hd (find_above _ _ k h1 h8 hw hm)]
      obtain ⟨hrelay, hframe⟩ := rotationTurn_sends s (s.burn.rotation + Fin.ofNat 8 k)
      refine ⟨fun tag h => by rw [hrelay tag h], fun f rest hq h => ?_⟩
      obtain ⟨hwait, hsend⟩ := hframe f rest hq h
      exact ⟨fun ht => by rw [hwait ht], fun sector ht => ⟨fun hlt => by rw [(hsend sector ht).1 hlt],
        fun note hle hn => by rw [(hsend sector ht).2 note hle hn]⟩⟩
    · rw [startItem_idle howed hr hs hv hd hw]

end Sys2Proof.BurnLink

/-! PROOFS. The end of a burn link unit (R115, R122, R124, R133, R134, R136): turns that end or go on, heads discarded or owed
an ABANDON. -/

namespace Sys2Proof.Machine

/-- A drive whose head frame `f` has left its queue, `rest` staying (R133, R138). -/
def DriveRec.dropped (d : DriveRec) (f : FrameRec) (rest : List FrameRec) : DriveRec :=
  { d with
    queue := rest, committed := d.committed - f.need, transfer := .waitingSpace, carry := [], abandonOwed := false
    withdrawn := false }

/-- A drive whose head frame, once withdrawn, is owed an ABANDON (R133). -/
def DriveRec.owing (d : DriveRec) : DriveRec := { d with abandonOwed := true, withdrawn := false }

namespace State

variable {s : State} {a : DriveIx} {d : DriveRec} {f : FrameRec} {rest : List FrameRec}

/-! ### Heads discarded, and owed an ABANDON (R133) -/

theorem dropHead_eq (h : s.drive a = d) (hq : d.queue = f :: rest) :
    s.dropHead a = s.setDrive a (d.dropped f rest) := by
  rw [dropHead, modDrive_eq h, hq]
  rfl

theorem returnRecord_eq (s : State) (f : FrameRec) :
    s.returnRecord f = { s with store := (f.stripes.filterMap (·.slot)).foldl Store.release s.store } := by
  rw [returnRecord, releaseAll_eq]

/-- A head frame that is discarded leaves the queue, and gives up its slots. -/
theorem discardHead_eq (h : s.drive a = d) (hq : d.queue = f :: rest) : s.discardHead a =
    { s.setDrive a (d.dropped f rest) with store := (f.stripes.filterMap (·.slot)).foldl Store.release s.store } := by
  have hhead : (s.drive a).queue.head? = some f := by rw [h, hq]; rfl
  rw [discardHead, hhead]
  dsimp only
  rw [dropHead_eq h hq, returnRecord_eq]
  rfl

theorem oweAbandon_eq (h : s.drive a = d) : s.oweAbandon a = s.setDrive a d.owing := modDrive_eq h _

/-! ### Turns that end and turns that go on (R116, R133, R135) -/

theorem endTurn_rests (h : (s.drive a).abandonOwed = false ∨ s.burn.mode = .block ∨ s.monitor.halted = true) :
    s.endTurn a = s.clearExchange := by
  refine if_neg ?_
  show ¬ ((s.drive a).abandonOwed && s.burn.mode == .frame && !s.monitor.halted) = true
  obtain h | h | h := h <;> simp [h]

theorem endTurn_abandons (h : (s.drive a).abandonOwed = true) (hm : s.burn.mode = .frame)
    (hh : s.monitor.halted = false) (hq : (s.drive a).queue = f :: rest) :
    s.endTurn a = s.startUnit a .abandon (.abandon f.stream f.seq) := by
  have hgo : s.endTurn a = s.clearExchange.startAbandon a := by
    refine if_pos ?_
    show ((s.drive a).abandonOwed && s.burn.mode == .frame && !s.monitor.halted) = true
    simp [h, hm, hh]
  rw [hgo, startAbandon_eq (s := s.clearExchange) hq]
  rfl

theorem continueTurn_rests (h : s.burn.mode = .block ∨ s.monitor.halted = true) :
    s.continueTurn a = s.clearExchange := by
  refine if_neg ?_
  obtain h | h := h <;> simp [h]

/-- In FRAME mode a head in SENDING goes on with its next data sectors, or its NOTE when none is left. -/
theorem continueTurn_sends {k : Nat} (hm : s.burn.mode = .frame) (hh : s.monitor.halted = false)
    (hq : (s.drive a).queue = f :: rest) (ht : (s.drive a).transfer = .sending k) : s.continueTurn a =
      if k < dataSectors f.stripeCount f.stripeSize then s.startWrite a f k else s.startNote a f := by
  rw [continueTurn, if_pos ⟨hm, hh⟩, frameUnit_sending hq ht]

/-! ### The end of a WRITE unit (R122, R133) -/

theorem writeSent_stays (h : s.drive a = d) (hw : d.withdrawn = false) (first count : Nat) :
    s.writeSent a first count = (s.setDrive a { d with transfer := .sending (first + count) }).continueTurn a := by
  rw [writeSent, modDrive_eq h, drive_setDrive_same, if_neg (by simp [hw])]

theorem writeSent_withdrawn (h : s.drive a = d) (hw : d.withdrawn = true) (first count : Nat) :
    s.writeSent a first count = (s.setDrive a { d with
      transfer := .sending (first + count), abandonOwed := true, withdrawn := false }).endTurn a := by
  rw [writeSent, modDrive_eq h, drive_setDrive_same, if_pos hw, oweAbandon_eq (drive_setDrive_same _ _ _), setDrive_setDrive]
  rfl

theorem relaySent_pending {tag : Word16} {bytes : List Byte} (h : s.drive a = d) (hr : d.relay = .pending tag bytes) :
    s.relaySent a = s.setDrive a { d with relay := .outstanding tag } := by
  rw [relaySent, h, hr]
  exact modDrive_eq h _

/-! ### The unit being sent ends (R115, R136) -/

theorem setPhase_eq {e : Exchange} (h : s.burn.exchange = some e) (p : Phase) :
    s.setPhase p = { s with burn := { s.burn with exchange := some { e with phase := p } } } := by
  rw [setPhase, modBurn, h]
  rfl

theorem exec_burnUnitEnd {e : Exchange} {u : BurnUnit} (he : s.burn.exchange = some e) (hp : e.phase = .sending u) :
    exec .burnUnitEnd s =
      .next (if e.purpose = .closing then s.nextClosing else s.unitEnded e.drive u).kick := by
  show Host.Outcome.next s.burnUnitSent = _
  simp only [burnUnitSent, he, hp]

end State

end Sys2Proof.Machine

namespace Sys2Proof.BurnLink

open Machine Machine.State

/-- The end of a WRITE unit (R122, R133): the turn ends or goes on, with an ABANDON for a withdrawn frame. -/
theorem writeSent_goesOn {s : State} {a : DriveIx} {d : DriveRec} (h : s.drive a = d) (first count : Nat) :
    (d.withdrawn = false → s.burn.mode = .block ∨ s.monitor.halted = true →
      s.writeSent a first count = s.clearExchange.setDrive a { d with transfer := .sending (first + count) }) ∧
    (∀ f rest, d.withdrawn = false → s.burn.mode = .frame → s.monitor.halted = false → d.queue = f :: rest →
      s.writeSent a first count = if first + count < dataSectors f.stripeCount f.stripeSize then
          (s.setDrive a { d with transfer := .sending (first + count) }).startWrite a f (first + count)
        else (s.setDrive a { d with transfer := .sending (first + count) }).startNote a f) ∧
    (d.withdrawn = true → s.burn.mode = .block ∨ s.monitor.halted = true →
      s.writeSent a first count = s.clearExchange.setDrive a { d with
        transfer := .sending (first + count), abandonOwed := true, withdrawn := false }) ∧
    (∀ f rest, d.withdrawn = true → s.burn.mode = .frame → s.monitor.halted = false → d.queue = f :: rest →
      s.writeSent a first count = (s.setDrive a { d with
        transfer := .sending (first + count), abandonOwed := true, withdrawn := false }).startUnit a .abandon
          (.abandon f.stream f.seq)) := by
  refine ⟨fun hw hr => ?_, fun f rest hw hm hh hq => ?_, fun hw hr => ?_, fun f rest hw hm hh hq => ?_⟩
  · exact (writeSent_stays h hw _ _).trans (continueTurn_rests hr)
  · rw [writeSent_stays h hw]
    exact continueTurn_sends hm hh (by rw [drive_setDrive_same]; exact hq) (by rw [drive_setDrive_same])
  · exact (writeSent_withdrawn h hw _ _).trans (endTurn_rests (.inr hr))
  · rw [writeSent_withdrawn h hw]
    exact endTurn_abandons (by rw [drive_setDrive_same]) hm hh (by rw [drive_setDrive_same]; exact hq)

/-- Settles O55: the unit that ends, by its kind. -/
theorem burnUnitEndGoesOn : Obligations.BurnUnitEndGoesOn := by
  refine ⟨startWrite_writeBegins, fun s a f note h => startNote_eq h s a, fun s e u d he hp hd => ?_⟩
  rw [exec_burnUnitEnd he hp]
  refine ⟨fun hc => ?_, fun hc => ?_⟩
  · rw [if_pos hc]
    exact ⟨fun hn => by rw [nextClosing, hn], fun k rest hk => ⟨_, rfl, by rw [nextClosing, hk]; exact ⟨rfl, rfl, rfl⟩⟩⟩
  · rw [if_neg hc]
    refine ⟨fun w hw => ?_, fun i n sector hu => ?_, fun i n first count data hu => ?_, fun i n f rest hu hq => ?_,
      fun bytes tag bs hu hr => ?_⟩
    · obtain ⟨rfl, rfl⟩ | ⟨rfl, rfl⟩ | ⟨i, n, need, rfl, rfl⟩ := hw <;> rw [unitEnded, setPhase_eq he]
    · subst hu
      rw [unitEnded, modDrive_eq hd, setPhase_eq (s := s.setDrive e.drive _) he]
      rfl
    · subst hu
      obtain ⟨hstay, hgo, howe, habandon⟩ := writeSent_goesOn hd first count
      exact ⟨fun hw hr => by rw [unitEnded, hstay hw hr], fun f rest hw hm hh hq => by rw [unitEnded, hgo f rest hw hm hh hq],
        fun hw hr => by rw [unitEnded, howe hw hr],
        fun f rest hw hm hh hq => by rw [unitEnded, habandon f rest hw hm hh hq]⟩
    · subst hu
      rw [unitEnded, discardHead_eq (s := s.clearExchange) hd hq]
      exact ⟨_, rfl, rfl, drive_setDrive_same _ _ _, rfl, fun b hb => drive_setDrive_other _ _ (Ne.symm hb), rfl, rfl, rfl,
        rfl, rfl⟩
    · subst hu
      rw [unitEnded, relaySent_pending hd hr]
      rfl

end Sys2Proof.BurnLink

/-! PROOFS. BURN reads (R122, R123): the WRITE unit they fill, and the STORE_FLAW mark of a FLAWED one. -/

namespace Sys2Proof.Machine

/-! ### The STORE_FLAW mark in a note (R107, R123) -/

/-- An entry is inserted behind those of an index not above its own. -/
theorem insertEntry_eq (e : NoteEntry) (l : List NoteEntry) : insertEntry e l =
    (l.takeWhile fun y => decide (y.index ≤ e.index)) ++ e :: l.dropWhile fun y => decide (y.index ≤ e.index) := by
  induction l with
  | nil => rfl
  | cons x l ih =>
    rw [insertEntry]
    by_cases h : e.index < x.index
    · have hn : ¬ x.index ≤ e.index := by omega
      simp [h, hn]
    · have hle : x.index ≤ e.index := by omega
      simp [h, hle, ih]

theorem flawEntry_eq (k : Nat) (l : List NoteEntry) : flawEntry k l =
    if ∃ y ∈ l, y.index = k then l.map fun y => if y.index = k then { y with outcome := .storeFlaw } else y
    else (l.takeWhile fun y => decide (y.index ≤ k)) ++
      { index := k, cause := none, outcome := .storeFlaw, method := none, donors := [], generation := some 0 } ::
        l.dropWhile fun y => decide (y.index ≤ k) := by
  rw [flawEntry, insertEntry_eq]
  exact if_congr (by simp) rfl rfl

/-! ### The reads of a WRITE unit (R122, R123) -/

theorem partsDone_iff (parts : List ReadPart) : partsDone parts = true ↔ ∀ p ∈ parts, p.data ≠ none := by
  simp [partsDone, Option.isSome_iff_ne_none]

namespace State

theorem markFlaw_eq {s : State} {a : DriveIx} {d : DriveRec} {f : FrameRec} {rest : List FrameRec}
    (h : s.drive a = d) (hq : d.queue = f :: rest) (k : Nat) : s.markFlaw a k = s.setDrive a { d with
      queue := { f with note := f.note.map fun n => { n with entries := flawEntry k n.entries } } :: rest } := by
  rw [markFlaw, modDrive_eq h, hq]

theorem sendWrite_eq (s : State) (a : DriveIx) (f : FrameRec) (first count : Nat) (parts : List ReadPart) :
    s.sendWrite a f first count parts =
      (s.setDrive a { s.drive a with carry := (unitData (s.drive a).carry parts).drop (2048 * count) }).setPhase
        (.sending (.write f.stream f.seq first count ((unitData (s.drive a).carry parts).take (2048 * count) ++
          List.replicate (2048 * count - (unitData (s.drive a).carry parts).length) 0))) := rfl

/-- With no flips a read of a slot without any delivers its data, and nothing else follows (R27). -/
theorem readSlot_unflipped {s : State} {x : Slot} {size : Nat} (h : s.store.flipsIn x size = []) (p : ReadPurpose) :
    ({ s with store := s.store.strikeAll [] } : State).readSlot p x size =
      (false, Memory.readBytes s.store.dram (slotBase x) size, s) :=
  readSlot_clean (Store.judge_clean h)

/-- A BURN read that is in flight completes (R123): the read is judged, and the unit begins when it was the last. -/
theorem exec_burnReadCompletion {s : State} {e : Exchange} {first count : Nat} {parts : List ReadPart} {k : Byte}
    {x : Slot} {f : FrameRec} {rest : List FrameRec} (he : s.burn.exchange = some e)
    (hp : e.phase = .reading first count parts) (hq : (s.drive e.drive).queue = f :: rest)
    (hf : (parts.find? fun p => p.stripe == k.toNat && p.data.isNone) =
      some { stripe := k.toNat, slot := some x, data := none })
    (flips : List Flip) {r : Bool × List Byte × State} {u : State} {filled : List ReadPart}
    (hr : r = { s with store := s.store.strikeAll flips }.readSlot .burn x f.stripeSize)
    (hu : u = if r.1 then r.2.2.markFlaw e.drive k.toNat else r.2.2) (hfill : filled = parts.map (·.filled k.toNat r.2.1)) :
    exec (.burnReadCompletion k flips) s = .next (if partsDone filled then u.sendWrite e.drive f first count filled
      else u.setPhase (.reading first count filled)).kick := by
  subst hu hfill hr
  show Host.Outcome.next (s.burnReadDone k.toNat flips) = _
  have hhead : (s.drive e.drive).queue.head? = some f := by rw [hq]; rfl
  have hslot : ((parts.find? fun p => p.stripe == k.toNat && p.data.isNone).bind (·.slot)) = some x := by rw [hf]; rfl
  simp only [burnReadDone, he, hp, hhead, hslot]
  rfl

end State

end Sys2Proof.Machine

namespace Sys2Proof.BurnLink

open Machine Machine.State

/-- A BURN read that completes, its verdict being what it is: the mark of a FLAWED one, and the unit it fills (R122, R123). -/
theorem burnRead_fills (s u : State) (e : Exchange) (first count : Nat) (parts filled : List ReadPart) (k : Byte)
    (x : Slot) (flips : List Flip) (r : Bool × List Byte × State) (f : FrameRec) (rest : List FrameRec)
    (onHand : List Byte) (he : s.burn.exchange = some e) (hp : e.phase = .reading first count parts)
    (hq : (s.drive e.drive).queue = f :: rest)
    (hf : (parts.find? fun p => p.stripe == k.toNat && p.data.isNone) =
      some { stripe := k.toNat, slot := some x, data := none })
    (hr : r = { s with store := s.store.strikeAll flips }.readSlot .burn x f.stripeSize)
    (hu : u = if r.1 = true then r.2.2.setDrive e.drive { s.drive e.drive with
        queue := { f with note := f.note.map fun n => { n with entries := flawEntry k.toNat n.entries } } :: rest }
      else r.2.2)
    (hfill : filled = parts.map (·.filled k.toNat r.2.1))
    (ho : onHand = (s.drive e.drive).carry ++ filled.flatMap (fun p => p.data.getD [])) :
    ((∃ p ∈ filled, p.data = none) → exec (.burnReadCompletion k flips) s =
      .next (u.setPhase (.reading first count filled)).kick) ∧
    ((∀ p ∈ filled, p.data ≠ none) → exec (.burnReadCompletion k flips) s =
      .next ((u.setDrive e.drive { u.drive e.drive with carry := onHand.drop (2048 * count) }).setPhase
        (.sending (.write f.stream f.seq first count
          (onHand.take (2048 * count) ++ List.replicate (2048 * count - onHand.length) 0)))).kick) := by
  have hdrive : r.2.2.drive e.drive = s.drive e.drive := by
    rw [hr]
    exact (readSlot_signals _ _ _ _).drive _
  have hmark : u = if r.1 = true then r.2.2.markFlaw e.drive k.toNat else r.2.2 := by rw [hu, markFlaw_eq hdrive hq]
  have hcarry : (u.drive e.drive).carry = (s.drive e.drive).carry := by
    rw [hu]
    split
    · rw [drive_setDrive_same]
    · rw [hdrive]
  rw [exec_burnReadCompletion he hp hq hf flips hr hmark hfill]
  refine ⟨fun ⟨p, hm, hn⟩ => ?_, fun hall => ?_⟩
  · rw [if_neg fun h => (partsDone_iff filled).1 h p hm hn]
  · rw [if_pos ((partsDone_iff filled).2 hall), sendWrite_eq, hcarry, unitData, ← ho]

/-- Settles O56: `burnRead_fills`, the first part being that of a slot without flipped bits. -/
theorem burnReadsFillTheWriteUnit : Obligations.BurnReadsFillTheWriteUnit := by
  refine ⟨fun s e first count parts filled k x f rest onHand he hp hq hf hx hfill ho => ?_,
    fun s u e first count parts filled k x flips r f rest onHand he hp hq hf hr hu hfill ho => ?_⟩
  · exact burnRead_fills s s e first count parts filled k x [] _ f rest onHand he hp hq hf (readSlot_unflipped hx .burn).symm
      rfl hfill ho
  · simp only [← flawEntry_eq] at hu
    exact burnRead_fills s u e first count parts filled k x flips r f rest onHand he hp hq hf hr hu hfill ho

end Sys2Proof.BurnLink

/-! PROOFS. Conditions and news (R120, R127, R139 to R141, R146): the record a change of condition makes, what occurs with it,
and what the changes leave as it is. -/

namespace Sys2Proof.Machine

/-- A drive's record when its condition is set (R120, R139). -/
def DriveRec.entering (d : DriveRec) (c : Condition) : DriveRec :=
  { d with
    condition := c
    transfer := if State.renewsAsk d.condition c = true then .waitingSpace else d.transfer
    carry := if State.renewsAsk d.condition c = true then [] else d.carry }

/-- A drive's record with the remaining capacity that news gives it (R139). -/
def DriveRec.measured (d : DriveRec) (n : News) : DriveRec := { d with remaining := n.normal.remaining d.remaining }

/-- A drive's record with the remaining capacity and the condition that news gives it (R139). -/
def DriveRec.withNews (d : DriveRec) (n : News) : DriveRec :=
  (d.measured n).entering (n.normal.condition d.condition d.remaining)

/-- MEDIA_READY with capacity 0 is MEDIA_FULL (R139). -/
theorem News.normal_mediaReady {c : Word32} (h : c ≠ 0) : (News.mediaReady c).normal = .mediaReady c := if_neg h

/-- The remaining capacity that news leaves (R139). -/
theorem News.normal_remaining (n : News) (held : Option Word32) : n.normal.remaining held =
    match n with
    | .mediaReady c => some c
    | .mediaFull => some 0
    | .mediaGone => none
    | .nothing => held := by
  cases n with
  | mediaReady c =>
    by_cases hc : c = 0
    · rw [hc]
      rfl
    · rw [normal_mediaReady hc]
      rfl
  | mediaFull | mediaGone | nothing => rfl

/-- A HELD drive stays HELD, and a FAULT drive FAULT (R139). -/
theorem News.condition_kept (n : News) {c : Condition} (h : c = .held ∨ c = .fault) (held : Option Word32) :
    n.condition c held = c := by
  obtain rfl | rfl := h <;> rfl

/-- News takes a drive out of service only as MEDIA_GONE, to NO_MEDIA (R139, R141). -/
theorem News.condition_lost {n : News} {c : Condition} {held : Option Word32}
    (ho : (n.normal.condition c held).outOfService = true) (hn : c ≠ n.normal.condition c held) :
    n = .mediaGone ∧ n.normal.condition c held = .noMedia := by
  cases n with
  | mediaGone =>
    cases c with
    | held => contradiction
    | fault | noMedia => exact absurd rfl hn
    | absent | ready | full => exact ⟨rfl, rfl⟩
  | nothing => cases c <;> exact absurd rfl hn
  | mediaFull => cases c <;> contradiction
  | mediaReady x =>
    by_cases hx : x = 0
    · subst hx
      cases c <;> contradiction
    · rw [normal_mediaReady hx] at ho hn
      cases c with
      | full =>
        unfold News.condition at ho
        dsimp only at ho
        split at ho <;> contradiction
      | absent | noMedia | ready => contradiction
      | held | fault => exact absurd rfl hn

namespace State

variable {s : State} {a : DriveIx} {d : DriveRec}

/-! ### Conditions set (R120, R139 to R141) -/

theorem headWaiting_eq (h : s.drive a = d) :
    s.headWaiting a = s.setDrive a { d with transfer := .waitingSpace, carry := [] } := modDrive_eq h _

/-- A change that neither enters FULL nor leaves service or HELD is one of the record alone. -/
theorem setCondition_record (h : s.drive a = d) {c : Condition} (hh : d.condition = .held → c = .held)
    (hf : c = .full → d.condition = .full) (ho : c.outOfService = true → d.condition = c) :
    s.setCondition a c = s.setDrive a (d.entering c) := by
  have h1 : ¬ (d.condition = .held ∧ c ≠ .held) := fun e => e.2 (hh e.1)
  have h2 : ¬ (c = .full ∧ d.condition ≠ .full) := fun e => e.2 (hf e.1)
  have h3 : ¬ (c.outOfService && d.condition != c) = true := by
    simp only [Bool.and_eq_true, bne_iff_ne, ne_eq, not_and, not_not]
    exact ho
  subst h
  simp only [setCondition, leftHeld, enteredFull, if_neg h1, if_neg h2, if_neg h3, modDrive_eq rfl, DriveRec.entering]
  split
  · rw [headWaiting_eq (drive_setDrive_same _ _ _), setDrive_setDrive]
  · rfl

/-- An entry into FULL makes MEDIA_NEEDED occur (R140). -/
theorem setCondition_entersFull (h : s.drive a = d) (hh : d.condition ≠ .held) (hf : d.condition ≠ .full) :
    s.setCondition a .full = (s.setDrive a (d.entering .full)).occur .mediaNeeded (driveAddress a)
      (d.remaining.getD 0) := by
  subst h
  simp [setCondition, leftHeld, enteredFull, hh, hf, DriveRec.entering, renewsAsk, Condition.stopsTransfer,
    Condition.outOfService, modDrive]

/-- A drive that leaves service spans, or its frames wait (R141, R146, R147). -/
theorem setCondition_leaves (h : s.drive a = d) {c : Condition} (hh : d.condition ≠ .held)
    (ho : c.outOfService = true) (hn : d.condition ≠ c) :
    s.setCondition a c = (s.setDrive a (d.entering c)).leaveService a := by
  have h1 : ¬ (d.condition = .held ∧ c ≠ .held) := fun e => hh e.1
  have h2 : ¬ (c = .full ∧ d.condition ≠ .full) := by
    rintro ⟨rfl, -⟩
    contradiction
  have h3 : (c.outOfService && d.condition != c) = true := by simp [ho, hn]
  have hr : renewsAsk d.condition c = true := by
    cases c with
    | absent | noMedia | fault => rfl
    | ready | full | held => contradiction
  subst h
  simp only [setCondition, leftHeld, enteredFull, if_neg h1, if_neg h2, if_pos h3, modDrive_eq rfl, DriveRec.entering,
    if_pos hr]
  rw [headWaiting_eq (drive_setDrive_same _ _ _), setDrive_setDrive]

/-! ### News applied (R139) -/

theorem applyNews_eq (h : s.drive a = d) (n : News) : s.applyNews a n =
    (s.setDrive a (d.measured n)).setCondition a
      (n.normal.condition d.condition d.remaining) := by
  subst h
  rfl

/-- News that neither enters FULL nor takes the drive out of service changes its record alone. -/
theorem applyNews_record (h : s.drive a = d) {n : News}
    (hf : n.normal.condition d.condition d.remaining = .full → d.condition = .full)
    (ho : (n.normal.condition d.condition d.remaining).outOfService = true →
      d.condition = n.normal.condition d.condition d.remaining) :
    s.applyNews a n = s.setDrive a (d.withNews n) := by
  rw [applyNews_eq h, setCondition_record (d := d.measured n) (drive_setDrive_same _ _ _) ?_ hf ho, setDrive_setDrive]
  · rfl
  · intro (hh : d.condition = .held)
    rw [News.condition_kept _ (.inl hh), hh]

/-- News that takes a drive into FULL from another condition (R140). -/
theorem applyNews_entersFull (h : s.drive a = d) {n : News}
    (hk : n.normal.condition d.condition d.remaining = .full) (hf : d.condition ≠ .full) :
    s.applyNews a n = (s.setDrive a (d.withNews n)).occur .mediaNeeded (driveAddress a)
      ((n.normal.remaining d.remaining).getD 0) := by
  have hh : d.condition ≠ .held := fun e => by
    rw [News.condition_kept _ (.inl e), e] at hk
    contradiction
  rw [applyNews_eq h, hk, setCondition_entersFull (d := d.measured n) (drive_setDrive_same _ _ _) hh hf, setDrive_setDrive, DriveRec.withNews,
    hk]
  rfl

/-- News that takes a drive out of service (R141). -/
theorem applyNews_leaves (h : s.drive a = d) {n : News}
    (ho : (n.normal.condition d.condition d.remaining).outOfService = true)
    (hn : d.condition ≠ n.normal.condition d.condition d.remaining) :
    s.applyNews a n = (s.setDrive a (d.withNews n)).leaveService a := by
  have hh : d.condition ≠ .held := fun e => hn (News.condition_kept _ (.inl e) _).symm
  rw [applyNews_eq h, setCondition_leaves (d := d.measured n) (drive_setDrive_same _ _ _) hh ho hn, setDrive_setDrive]
  rfl

/-! ### What changes of condition leave (R146, R147) -/

/-- Whether a drive spans rests on the bindings and on the conditions of the other drives. -/
theorem spansFrom_congr {t : State} {d e : DriveRec} (h : s.drive a = d) (hb : e.binding = d.binding)
    (ha : (t.drive a).binding = d.binding) (ho : ∀ b, b ≠ a → t.drive b = s.drive b) :
    t.SpansFrom e ↔ s.SpansFrom d := by
  have hbind : ∀ b, (t.drive b).binding = (s.drive b).binding := fun b => by
    by_cases hba : b = a
    · rw [hba, ha, h]
    · rw [ho b hba]
  have hne {i : StreamIx} {b : DriveIx} (h1 : d.binding = .active i) (h2 : s.standbyOf i = some b) : b ≠ a := by
    rintro rfl
    have := standby_binding h2
    rw [h, h1] at this
    contradiction
  unfold SpansFrom
  rw [hb]
  refine exists_congr fun i => exists_congr fun b => and_congr_right fun h1 => ?_
  rw [standbyOf_congr hbind]
  exact and_congr_right fun h2 => by rw [ho b (hne h1 h2)]

/-- A drive that has no READY STANDBY to span to stays as it is (R147). -/
theorem leaveService_unspanned (h : s.drive a = d) (hs : ¬ s.SpansFrom d) : s.leaveService a = s := by
  refine leaveService_stays s a fun i b h1 h2 h3 => hs ⟨i, b, ?_, h2, h3⟩
  rw [← h, h1]

theorem spansFrom_setDrive (h : s.drive a = d) {e : DriveRec} (hb : e.binding = d.binding) :
    (s.setDrive a e).SpansFrom e ↔ s.SpansFrom d :=
  spansFrom_congr h hb (by rw [drive_setDrive_same, hb]) fun _ hne => drive_setDrive_other s e (Ne.symm hne)

/-- News changes the record, and at most makes a condition occur, unless it is MEDIA_GONE and the drive spans. -/
theorem applyNews_cases (h : s.drive a = d) (n : News) :
    Signals (s.setDrive a (d.withNews n)) (s.applyNews a n) ∨
      (n = .mediaGone ∧ s.SpansFrom d ∧ d.condition ≠ .fault ∧ (d.withNews n).condition = .noMedia ∧
        s.applyNews a n = (s.setDrive a (d.withNews n)).leaveService a) := by
  by_cases hf : n.normal.condition d.condition d.remaining = .full → d.condition = .full
  · by_cases ho : (n.normal.condition d.condition d.remaining).outOfService = true →
        d.condition = n.normal.condition d.condition d.remaining
    · rw [applyNews_record h hf ho]
      exact .inl (Signals.refl _)
    · rw [Classical.not_imp] at ho
      obtain ⟨ho, hn⟩ := ho
      obtain ⟨hg, hk⟩ := News.condition_lost ho hn
      have hleaves := applyNews_leaves h ho hn
      by_cases hs : s.SpansFrom d
      · exact .inr ⟨hg, hs, fun e => hn (News.condition_kept _ (.inr e) _).symm, hk, hleaves⟩
      · have hu : ¬ (s.setDrive a (d.withNews n)).SpansFrom (d.withNews n) :=
          mt (spansFrom_setDrive (e := d.withNews n) h rfl).1 hs
        rw [hleaves, leaveService_unspanned (drive_setDrive_same _ _ _) hu]
        exact .inl (Signals.refl _)
  · rw [Classical.not_imp] at hf
    rw [applyNews_entersFull h hf.1 hf.2]
    exact .inl (Signals.occur _ _ _ _)

theorem applyNews_signals (h : s.drive a = d) {n : News} (hn : n ≠ .mediaGone) :
    Signals (s.setDrive a (d.withNews n)) (s.applyNews a n) :=
  (applyNews_cases h n).resolve_right fun e => hn e.1

end State

end Sys2Proof.Machine

/-! PROOFS. Presence, status and drive answers (R115, R118, R126, R128, R130, R134, R150), and answers that are ignored. -/

namespace Sys2Proof.Machine

/-- A drive's record when its release ends, before it is judged (R150). -/
def DriveRec.judged (d : DriveRec) (n : News) : DriveRec :=
  { d with releasePending := false, remaining := n.normal.remaining d.remaining }

namespace State

variable {s : State} {a : DriveIx} {d : DriveRec} {e : Exchange} {u : BurnAnswer} {w : WindowKind}

/-! ### The window an answer meets (R115) -/

theorem answering_taken {kind : Byte} (ha : burnAccepted kind u = true) (he : s.burn.exchange = some e) (hp : e.phase = .window w)
    (hd : driveOf u.address = some e.drive) : s.answering kind w u = some e := by
  rw [answering, if_pos ha, openWindow, he]
  exact if_pos ⟨hp, hd⟩

/-- No exchange has its window of a kind open to the address of an answer. -/
theorem answering_none (h : ∀ e, s.burn.exchange = some e → e.phase = .window w → driveOf u.address ≠ some e.drive)
    (kind : Byte) : s.answering kind w u = none := by
  rw [answering]
  split
  · rw [openWindow]
    split
    next e he => exact if_neg fun hn => h e he hn.1 hn.2
    next => rfl
  · rfl

theorem answerNews_ignored (h : ∀ kind, s.answering kind w u = none) (kind : Byte)
    (take : State → Exchange → News → State) : s.answerNews kind w u take = s := by
  rw [answerNews, h]

theorem answerDone_ignored (h : ∀ kind, s.answering kind .done u = none) : s.answerDone u = s := by
  rw [answerDone, h]

theorem answerRelay_ignored (h : ∀ kind, s.answering kind .status u = none) : s.answerRelay u = s := by
  rw [answerRelay, h]

theorem answerNews_taken {n : News} (h : s.answering kind w u = some e) (hn : readNewsBody u.body = some n)
    (take : State → Exchange → News → State) : s.answerNews kind w u take = (take s e n).kick := by
  rw [answerNews, h, hn]

/-! ### The end of an exchange (R118) -/

theorem endExchange_idle (h : s.burn.item = .idle) : s.endExchange = s.clearExchange := (endExchange_goesOn s).1 h

theorem requestEnded_other (h : e.purpose ≠ .requested) : s.requestEnded e = s := if_neg h

theorem requestEnded_eq (h : e.purpose = .requested) (hd : s.drive e.drive = d) :
    s.requestEnded e = s.setDrive e.drive { d with statusRequested := false } := by
  rw [requestEnded, if_pos h, modDrive_eq hd]

theorem answered_eq (h : s.drive a = d) : s.answered a = s.setDrive a { d with misses := 0 } := modDrive_eq h _

/-! ### Presence answers (R128, R130) -/

theorem presenceNews_eq (n : News) : presenceNews n = if n = .nothing then .mediaGone else n := by
  cases n <;> rfl

theorem presenceTaken_eq (h : s.drive a = d) (n : News) : s.presenceTaken a n =
    if d.condition = .absent then
      ((s.setDrive a { d with misses := 0 }).applyNews a (if n = .nothing then .mediaGone else n)).occur .driveChange
        (driveAddress a) 1
    else (s.setDrive a { d with misses := 0 }).applyNews a (if n = .nothing then .mediaGone else n) := by
  rw [presenceTaken, answered_eq h, presenceNews_eq, h]

theorem presenceTaken_burn (s : State) (a : DriveIx) (n : News) : (s.presenceTaken a n).burn = s.burn := by
  have hnews := (applyNews_set (s.answered a) a _ rfl (presenceNews n)).burn
  rw [presenceTaken]
  split
  · exact (Signals.occur _ _ _ _).burn.trans hnews
  · exact hnews

/-- An ABSENT drive that answers MEDIA_READY is READY (R139). -/
theorem applyNews_returns (h : s.drive a = d) (ha : d.condition = .absent) {c : Word32} (hc : c ≠ 0) :
    s.applyNews a (.mediaReady c) = s.setDrive a { d with condition := .ready, remaining := some c } := by
  have hk : (News.mediaReady c).normal.condition d.condition d.remaining = .ready := by
    rw [News.normal_mediaReady hc, ha]
    rfl
  rw [applyNews_record h (by simp [hk]) (by simp [hk, Condition.outOfService]), DriveRec.withNews, hk,
    DriveRec.measured, News.normal_remaining, DriveRec.entering, ha]
  rfl

/-! ### The answer that ends a release (R150) -/

/-- A drive that leaves HELD for FULL makes MEDIA_NEEDED occur (R140). -/
theorem setCondition_heldToFull (h : s.drive a = d) (hh : d.condition = .held) :
    s.Occurred (s.setCondition a .full) .mediaNeeded (driveAddress a) (d.remaining.getD 0) := by
  obtain ⟨rp, hend, hrec, -⟩ := endRelay_ended (s.setDrive a { d with condition := .full }) a (.refused .noAnswer)
  rw [drive_setDrive_same] at hrec
  refine Occurred.of_occur
    (u := (s.setDrive a { d with condition := .full }).endRelay a (.refused .noAnswer)) ?_ (by rw [hend]; rfl)
    (by rw [hend]; rfl)
  simp [setCondition, leftHeld, enteredFull, renewsAsk, Condition.stopsTransfer, Condition.outOfService, modDrive_eq h, h,
    hh, hrec]

theorem conditionOfMedium_eq_full {r : Option Word32} (h : conditionOfMedium r = .full) : r = some 0 := by
  unfold conditionOfMedium at h
  split at h
  · contradiction
  · split at h
    next hr => rw [hr]
    next => contradiction

theorem endRelease_eq (h : s.drive a = d) (n : News) : s.endRelease a n =
    (s.setDrive a (d.judged n)).setCondition a (conditionOfMedium (n.normal.remaining d.remaining)) := by
  rw [endRelease, modDrive_eq h, drive_setDrive_same]
  rfl

/-- The end of a pending release (R150), the drive then judged from the medium; it is HELD until then. -/
theorem endRelease_released (h : s.drive a = d) (hh : d.condition = .held) (n : News) {t : State}
    (ht : t = s.endRelease a n) :
    t.burn = s.burn ∧ (t.drive a).releasePending = false ∧ (t.drive a).statusRequested = d.statusRequested ∧
      (t.drive a).misses = d.misses ∧ (t.drive a).remaining = n.normal.remaining d.remaining ∧
      (t.drive a).condition = conditionOfMedium (n.normal.remaining d.remaining) ∧
      ((t.drive a).condition = .full → s.Occurred t .mediaNeeded (driveAddress a) 0) := by
  have hrec := drive_setDrive_same s a (d.judged n)
  have hset := setCondition_set _ a _ hrec (conditionOfMedium (n.normal.remaining d.remaining))
  rw [← endRelease_eq h, ← ht] at hset
  have hkept := hset.kept.eq
  refine ⟨hset.burn, by rw [hkept]; rfl, by rw [hkept]; rfl, by rw [hkept]; rfl, hset.remaining, hset.condition,
    fun hf => ?_⟩
  rw [hset.condition] at hf
  have hoccur := setCondition_heldToFull hrec hh
  have hzero : (d.judged n).remaining.getD 0 = 0 := by
    rw [show (d.judged n).remaining = some 0 from conditionOfMedium_eq_full hf]
    rfl
  rw [hzero, ← hf, ← endRelease_eq h, ← ht] at hoccur
  exact hoccur.congr rfl rfl rfl rfl

/-! ### Relays (R134) -/

theorem endRelay_outstanding {tag : Word16} (h : s.drive a = d) (hr : d.relay = .outstanding tag) (x : Answer) :
    s.endRelay a x = (s.setDrive a { d with relay := .none }).deferred tag x := by
  rw [endRelay, h, hr]
  dsimp only
  rw [modDrive_eq h]

theorem relayOpen_outstanding {tag : Word16} (h : (s.drive a).relay = .outstanding tag) : s.relayOpen a = true := by
  rw [relayOpen, h]

theorem readDriveBytes_counted {body bytes : List Byte} (h : body = BitVec.ofNat 8 bytes.length :: bytes)
    (hl : bytes.length ≤ 32) : readDriveBytes body = some bytes := by
  have hn : (BitVec.ofNat 8 bytes.length).toNat = bytes.length := by
    rw [BitVec.toNat_ofNat]
    omega
  rw [h]
  exact if_pos ⟨hn, hl⟩

end State

end Sys2Proof.Machine

namespace Sys2Proof.BurnLink

open Machine Machine.State

/-- A presence answer inside its window (R128, R130). -/
theorem exec_presenceAnswer {s : State} {u : BurnAnswer} {e : Exchange} {n : News}
    (ha : burnAccepted kindPresenceAnswer u = true) (he : s.burn.exchange = some e) (hp : e.phase = .window .presence)
    (hd : driveOf u.address = some e.drive) (hn : readNewsBody u.body = some n) :
    exec (.presenceAnswer u) s = .next (s.presenceTaken e.drive n).endExchange.kick :=
  congrArg Host.Outcome.next (answerNews_taken (answering_taken ha he hp hd) hn State.takePresence)

/-- A status answer inside its window (R128, R150). -/
theorem exec_statusAnswer {s : State} {u : BurnAnswer} {e : Exchange} {n : News}
    (ha : burnAccepted kindStatusAnswer u = true) (he : s.burn.exchange = some e) (hp : e.phase = .window .status)
    (hd : driveOf u.address = some e.drive) (hn : readNewsBody u.body = some n) :
    exec (.statusAnswer u) s = .next (s.takeStatus e n).kick :=
  congrArg Host.Outcome.next (answerNews_taken (answering_taken ha he hp hd) hn State.takeStatus)

/-- A status answer by what it was asked for (R118, R128, R134, R150). -/
theorem takeStatus_takes {s : State} {e : Exchange} {d : DriveRec} (hd : s.drive e.drive = d) (n : News) :
    (e.purpose ≠ .requested →
      s.takeStatus e n = ((s.setDrive e.drive { d with misses := 0 }).applyNews e.drive n).endExchange) ∧
    (e.purpose = .requested → d.releasePending = false → s.takeStatus e n =
      ((s.setDrive e.drive { d with misses := 0, statusRequested := false }).applyNews e.drive n).endExchange) ∧
    (e.purpose = .requested → d.releasePending = true → s.takeStatus e n =
      ((s.setDrive e.drive { d with misses := 0, statusRequested := false }).endRelease e.drive n).endExchange) := by
  have hreq (hp : e.purpose = .requested) : (s.answered e.drive).requestEnded e =
      s.setDrive e.drive { d with misses := 0, statusRequested := false } := by
    rw [requestEnded_eq hp (by rw [answered_eq hd, drive_setDrive_same]), answered_eq hd, setDrive_setDrive]
  refine ⟨fun hp => ?_, fun hp hr => ?_, fun hp hr => ?_⟩
  · rw [takeStatus, requestEnded_other hp, answered_eq hd, if_neg fun h => hp h.1]
  · rw [takeStatus, hreq hp, drive_setDrive_same, if_neg (by simp [hr])]
  · rw [takeStatus, hreq hp, drive_setDrive_same, if_pos ⟨hp, hr⟩]

/-- A drive answer inside its window while the relay is OUTSTANDING (R134). -/
theorem exec_driveAnswer {s : State} {u : BurnAnswer} {e : Exchange} {d : DriveRec} {tag : Word16} {bytes : List Byte}
    (ha : burnAccepted kindDriveAnswer u = true) (he : s.burn.exchange = some e) (hp : e.phase = .window .status)
    (hu : driveOf u.address = some e.drive) (hb : readDriveBytes u.body = some bytes) (hd : s.drive e.drive = d)
    (hr : d.relay = .outstanding tag) : exec (.driveAnswer u) s = .next ((s.setDrive e.drive { d with
      misses := 0, relay := .none }).deferred tag (.done (.driveBytes bytes))).endExchange.kick := by
  have hopen : s.relayOpen e.drive = true := relayOpen_outstanding (by rw [hd, hr])
  have htake : s.takeDriveAnswer e bytes = ((s.setDrive e.drive { d with
      misses := 0, relay := .none }).deferred tag (.done (.driveBytes bytes))).endExchange := by
    rw [takeDriveAnswer, answered_eq hd, endRelay_outstanding (d := { d with misses := 0 }) (drive_setDrive_same _ _ _) hr, setDrive_setDrive]
  show Host.Outcome.next (s.answerRelay u) = _
  rw [answerRelay, answering_taken ha he hp hu, hb]
  dsimp only
  rw [if_pos hopen, htake]

/-- Answers that the open window does not expect are ignored (R115). -/
theorem answers_ignored {s : State} {u : BurnAnswer} {w : WindowKind} (h : ∀ kind, s.answering kind w u = none) :
    (w = .presence → exec (.presenceAnswer u) s = .next s) ∧
    (w = .status → exec (.statusAnswer u) s = .next s ∧ exec (.driveAnswer u) s = .next s) ∧
    (w = .space → exec (.spaceOk u) s = .next s ∧ exec (.spaceNo u) s = .next s) ∧
    (w = .done → exec (.writeDone u) s = .next s ∧ exec (.writeFail u) s = .next s) := by
  have hnews (kind : Byte) (take : State → Exchange → News → State) :
      (Host.Outcome.next (s.answerNews kind w u take) : Out) = .next s := congrArg _ (answerNews_ignored h kind take)
  refine ⟨?_, ?_, ?_, ?_⟩ <;> rintro rfl
  · exact hnews _ _
  · exact ⟨hnews _ _, congrArg Host.Outcome.next (answerRelay_ignored h)⟩
  · exact ⟨hnews _ _, hnews _ _⟩
  · exact ⟨congrArg Host.Outcome.next (answerDone_ignored h), hnews _ _⟩

/-- Settles O58: the answers inside their windows by `takePresence`, `takeStatus_takes` and `exec_driveAnswer`, and the ones
that no window expects. -/
theorem answersEndTheirExchange : Obligations.AnswersEndTheirExchange := by
  refine ⟨fun s u e d he hu hd => ⟨fun ha hp hi c hc hn hab => ?_, fun n t ha hp hn ht => ?_, fun n ha hp hn => ?_,
    fun tag bytes ha hp hr hb hl hi => ?_⟩, fun s u h => ?_, fun s u e w he hp => ?_⟩
  · rw [exec_presenceAnswer ha he hp hu hn, presenceTaken_eq hd, if_pos hab, if_neg (by simp),
      applyNews_returns (d := { d with misses := 0 }) (drive_setDrive_same _ _ _) hab hc, setDrive_setDrive, endExchange_idle]
    rw [(Signals.occur _ _ _ _).burn]
    exact hi
  · rw [← presenceTaken_eq hd n] at ht
    subst ht
    exact ⟨presenceTaken_burn s _ n, _, endExchange_goesOn _, exec_presenceAnswer ha he hp hu hn⟩
  · rw [exec_statusAnswer ha he hp hu hn]
    obtain ⟨hother, hrequested, hrelease⟩ := takeStatus_takes hd n
    refine ⟨fun t hp ht => ?_, fun t hp hr ht => ?_, fun hp hr hh hi => ?_⟩
    · rw [hother hp, ← ht]
      exact ⟨ht ▸ (applyNews_set _ _ _ rfl n).burn, endExchange_goesOn t, rfl⟩
    · rw [hrequested hp hr, ← ht]
      exact ⟨ht ▸ (applyNews_set _ _ _ rfl n).burn, endExchange_goesOn t, rfl⟩
    · rw [hrelease hp hr]
      generalize ht : (s.setDrive e.drive { d with misses := 0, statusRequested := false }).endRelease e.drive n = t
      obtain ⟨hburn, hpending, hrequest, hmisses, hremaining, hcond, hoccur⟩ :=
        endRelease_released (d := { d with misses := 0, statusRequested := false }) (drive_setDrive_same _ _ _) hh n
          ht.symm
      rw [endExchange_idle (by rw [hburn]; exact hi)]
      rw [← hremaining] at hcond
      rw [News.normal_remaining] at hremaining
      exact ⟨t.clearExchange, rfl, hpending, hrequest, hmisses, rfl, hremaining, hcond, hoccur⟩
  · rw [exec_driveAnswer ha he hp hu (readDriveBytes_counted hb hl) hd hr]
    exact congrArg (fun t : State => Host.Outcome.next t.kick) (endExchange_idle hi)
  · have hnone (w : WindowKind) (kind : Byte) : s.answering kind w u = none := answering_none (fun e he hp hu => by
      obtain h | ⟨x, hx, h⟩ := h
      · rw [h] at he
        contradiction
      · rw [he, Option.some.injEq] at hx
        subst hx
        exact h.elim (fun h => h w hp) fun h => h hu) kind
    exact ⟨(answers_ignored (hnone .presence)).1 rfl, ((answers_ignored (hnone .status)).2.1 rfl).1,
      ((answers_ignored (hnone .space)).2.2.1 rfl).1, ((answers_ignored (hnone .space)).2.2.1 rfl).2,
      ((answers_ignored (hnone .done)).2.2.2 rfl).1, ((answers_ignored (hnone .done)).2.2.2 rfl).2,
      ((answers_ignored (hnone .status)).2.1 rfl).2⟩
  · have hnone {v : WindowKind} (hv : w ≠ v) (kind : Byte) : s.answering kind v u = none :=
      answering_none (fun x hx hq => by
        rw [he, Option.some.injEq] at hx
        subst hx
        rw [hp, Phase.window.injEq] at hq
        exact absurd hq hv) kind
    exact ⟨fun h => (answers_ignored (hnone h)).1 rfl, fun h => (answers_ignored (hnone h)).2.1 rfl,
      fun h => (answers_ignored (hnone h)).2.2.1 rfl, fun h => (answers_ignored (hnone h)).2.2.2 rfl⟩

end Sys2Proof.BurnLink

/-! PROOFS. Missed answers (R126, R127, R133, R150) and the end of a relay window (R134). -/

namespace Sys2Proof.Machine

/-- A drive's record with one missed answer more (R126). -/
def DriveRec.missed (d : DriveRec) : DriveRec := { d with misses := d.misses + 1, missCount := d.missCount + 1 }

/-- A drive's record with its head back in WAITING_SPACE (R120). -/
def DriveRec.waiting (d : DriveRec) : DriveRec := { d with transfer := .waitingSpace, carry := [] }

/-- A drive whose asks have ended is asked nothing again. -/
theorem DriveRec.asked_ended {d : DriveRec} (hr : d.releasePending = false) (hq : d.statusRequested = false) :
    { d with statusRequested := d.releasePending } = d := by
  obtain ⟨⟩ := d
  dsimp only at hr hq
  rw [hr, hq]

namespace State

variable {s t : State} {a : DriveIx} {d : DriveRec} {e : Exchange}

/-! ### Misses counted (R126, R127) -/

theorem countMiss_absent (h : (s.drive a).condition = .absent) : s.countMiss a = s := if_pos h

theorem countMiss_counts (h : s.drive a = d) (hp : d.condition ≠ .absent) (hm : d.misses < 2) :
    s.countMiss a = s.setDrive a d.missed := by
  have hfew : ¬ Config.silentMisses ≤ d.missed.misses := by
    show ¬ 3 ≤ d.misses + 1
    omega
  rw [countMiss, if_neg (by rw [h]; exact hp), modDrive_eq h]
  dsimp only
  rw [drive_setDrive_same]
  exact if_neg hfew

theorem countMiss_silent (h : s.drive a = d) (hp : d.condition ≠ .absent) (hm : d.misses = 2) :
    s.countMiss a = (s.setDrive a d.missed).silent a := by
  have hmany : Config.silentMisses ≤ d.missed.misses := by
    show 3 ≤ d.misses + 1
    omega
  rw [countMiss, if_neg (by rw [h]; exact hp), modDrive_eq h]
  dsimp only
  rw [drive_setDrive_same]
  exact if_pos hmany

theorem countMiss_wentSilent (h : s.drive a = d) (hp : d.condition ≠ .absent) (hm : d.misses = 2) :
    s.WentSilent (s.countMiss a) a d ∧ (s.countMiss a).burn = s.burn := by
  rw [countMiss_silent h hp hm]
  exact silent_wentSilent s a d (d.misses + 1) h

/-! ### A drive that went silent (R127, R133, R141) -/

/-- A head that was first set back to WAITING_SPACE makes no difference to a silent drive. -/
theorem WentSilent.of_waiting (hd : s.drive a = d) (h : (s.setDrive a d.waiting).WentSilent t a d.waiting) :
    s.WentSilent t a d := by
  have hother : ∀ b, b ≠ a → (s.setDrive a d.waiting).drive b = s.drive b := fun b hb =>
    drive_setDrive_other s _ (Ne.symm hb)
  have hsame : ∀ b, ((s.setDrive a d.waiting).drive b).binding = (s.drive b).binding ∧
      ((s.setDrive a d.waiting).drive b).condition = (s.drive b).condition := fun b => by
    by_cases hb : b = a
    · rw [hb, drive_setDrive_same, hd]
      exact ⟨rfl, rfl⟩
    · rw [hother b hb]
      exact ⟨rfl, rfl⟩
  have hstandby := standbyOf_congr fun b => (hsame b).1
  have hready := fun b => (hsame b).2
  unfold WentSilent at h
  simp only [hstandby, hready] at h
  obtain ⟨h1, h2, h3, h4, h5, h6, h7, h8, h9, h10, h11, hqueue, h13, h14⟩ := h
  refine ⟨h1, h2, h3, h4, h5, h6, h7, h8, h9, h10, h11, fun q n hq hn => ?_, h13, h14⟩
  obtain ⟨hstay, hspan⟩ := hqueue q n hq hn
  refine ⟨fun hno => ?_, fun i b hb hs hr => ?_⟩
  · obtain ⟨h1, h2, h3, h4⟩ := hstay hno
    exact ⟨h1, h2, h3, fun b hb => (h4 b hb).trans (hother b hb)⟩
  · have hne : b ≠ a := by
      rintro rfl
      have := standby_binding hs
      rw [hd, hb] at this
      contradiction
    obtain ⟨hsp, hx⟩ := hspan i b hb hs hr
    exact ⟨spanned_congr (hother b hne) hsp, fun x hxa hxb => (hx x hxa hxb).trans (hother x hxa)⟩

/-- The flags of a silent drive whose queue was empty may change. -/
theorem WentSilent.of_flags (h : s.WentSilent t a d) (hd : s.drive a = d)
    (hn : ¬ (d.queue ≠ [] ∨ (d.withdrawn = false ∧ d.abandonOwed = false))) (owed gone : Bool) :
    s.WentSilent (t.setDrive a { t.drive a with abandonOwed := owed, withdrawn := gone }) a d := by
  have hother : ∀ b, b ≠ a → (t.setDrive a { t.drive a with abandonOwed := owed, withdrawn := gone }).drive b =
      t.drive b := fun b hb => drive_setDrive_other t _ (Ne.symm hb)
  obtain ⟨h1, h2, h3, h4, h5, h6, h7, h8, -, h10, h11, hqueue, h13, h14⟩ := h
  rw [WentSilent, drive_setDrive_same]
  refine ⟨h1, h2, h3, h4, h5, h6, h7, h8, fun hc => absurd hc hn, h10, h11, fun q n hq hc => ?_, h13, h14⟩
  obtain ⟨hstay, hspan⟩ := hqueue q n hq hc
  refine ⟨fun hno => ?_, fun i b hb hs hr => ?_⟩
  · obtain ⟨h1, h2, h3, h4⟩ := hstay hno
    exact ⟨h1, h2, h3, fun b hb => (hother b hb).trans (h4 b hb)⟩
  · have hne : b ≠ a := by
      rintro rfl
      have := standby_binding hs
      rw [hd, hb] at this
      contradiction
    obtain ⟨hsp, hx⟩ := hspan i b hb hs hr
    refine ⟨?_, fun x hxa hxb => (hother x hxa).trans (hx x hxa hxb)⟩
    rw [Spanned, drive_setDrive_same, hother b hne]
    exact hsp

theorem WentSilent.queue_empty (h : s.WentSilent t a d) (hq : d.queue = []) : (t.drive a).queue = [] := by
  obtain ⟨-, -, -, -, -, -, -, -, -, -, -, hqueue, -, -⟩ := h
  obtain ⟨hstay, hspan⟩ := hqueue [] d.committed (fun _ => by simp [hq]) fun _ _ => ⟨hq.symm, rfl⟩
  by_cases hs : s.SpansFrom d
  · obtain ⟨i, b, h1, h2, h3⟩ := hs
    obtain ⟨-, -, k, -, hk, -⟩ := (hspan i b h1 h2 h3).1
    simpa using hk
  · exact (hstay fun i b h1 h2 h3 => hs ⟨i, b, h1, h2, h3⟩).1

theorem WentSilent.flags (h : s.WentSilent t a d)
    (hc : d.queue ≠ [] ∨ (d.withdrawn = false ∧ d.abandonOwed = false)) :
    (t.drive a).abandonOwed = false ∧ (t.drive a).withdrawn = false := by
  obtain ⟨-, -, -, -, -, -, -, -, h, -⟩ := h
  exact h hc

theorem WentSilent.asks_ended (h : s.WentSilent t a d) :
    (t.drive a).releasePending = false ∧ (t.drive a).statusRequested = false := by
  obtain ⟨-, -, -, -, -, h1, h2, -⟩ := h
  exact ⟨h1, h2⟩

/-! ### What follows a miss (R118, R126, R133, R150) -/

theorem discardWithdrawn_stays (h : (s.drive a).withdrawn = false) : s.discardWithdrawn a = s := if_neg (by simp [h])

theorem discardWithdrawn_empty (h : (s.drive a).queue = []) : s.discardWithdrawn a = s := by
  rw [discardWithdrawn, discardHead, h]
  exact ite_self s

theorem oweWithdrawn_stays (h : (s.drive a).withdrawn = false) : s.oweWithdrawn a = s := if_neg (by simp [h])

theorem oweWithdrawn_owes (h : s.drive a = d) (hw : d.withdrawn = true) : s.oweWithdrawn a = s.setDrive a d.owing := by
  rw [oweWithdrawn, h, if_pos hw, oweAbandon_eq h]

theorem endTurn_empty (h : (s.drive a).queue = []) : s.endTurn a = s.clearExchange := by
  have hstart : s.clearExchange.startAbandon a = s.clearExchange := by
    have hq : (s.clearExchange.drive a).queue = [] := h
    rw [startAbandon, hq]
    rfl
  rw [endTurn, hstart, ite_self]

theorem missStatus_other (h : e.purpose ≠ .requested) : s.missStatus e = (s.countMiss e.drive).endExchange := by
  rw [missStatus, requestEnded_other h, if_neg fun hn => h hn.1]

/-- A missed requested ask is cleared, and made again while the release is pending (R118, R150). -/
theorem missStatus_requested (hp : e.purpose = .requested) (h : (s.countMiss e.drive).drive e.drive = d) :
    s.missStatus e = ((s.countMiss e.drive).setDrive e.drive { d with
      statusRequested := d.releasePending }).endExchange := by
  rw [missStatus, requestEnded_eq hp h, drive_setDrive_same]
  cases hr : d.releasePending with
  | true => rw [if_pos ⟨hp, rfl⟩, modDrive_eq (drive_setDrive_same _ _ _), setDrive_setDrive]
  | false => rw [if_neg (by simp)]

/-- The asks of a silent drive have ended, and none is made again (R127). -/
theorem missStatus_silent (hp : e.purpose = .requested) (h : s.WentSilent (s.countMiss e.drive) e.drive d) :
    s.missStatus e = (s.countMiss e.drive).endExchange := by
  obtain ⟨hr, hq⟩ := h.asks_ended
  rw [missStatus_requested hp rfl, DriveRec.asked_ended hr hq, setDrive_self]

end State

end Sys2Proof.Machine

namespace Sys2Proof.BurnLink

open Machine Machine.State

theorem exec_missedAnswer {s : State} {e : Exchange} {w : WindowKind} (he : s.burn.exchange = some e)
    (hp : e.phase = .window w) : exec .missedAnswer s = .next (s.missed e w).kick := by
  show Host.Outcome.next s.windowMissed = _
  simp only [windowMissed, he, hp]

/-- A miss of a presence ask, or of a status ask that was not requested: the exchange ends (R126, R129, R131). -/
theorem missed_ask {s : State} {e : Exchange} {w : WindowKind}
    (hw : w = .presence ∨ (w = .status ∧ e.purpose ≠ .requested)) :
    s.missed e w = (s.countMiss e.drive).endExchange := by
  obtain rfl | ⟨rfl, hp⟩ := hw
  · rfl
  · exact missStatus_other hp

section
variable {s : State} {e : Exchange} {d : DriveRec} (hd : s.drive e.drive = d) (hp : d.condition ≠ .absent)
include hd hp

theorem countMiss_waiting (hm : d.misses < 2) :
    (s.headWaiting e.drive).countMiss e.drive = s.setDrive e.drive d.waiting.missed := by
  rw [headWaiting_eq hd]
  exact (countMiss_counts (d := d.waiting) (drive_setDrive_same _ _ _) hp hm).trans (setDrive_setDrive _ _ _ _)

/-- The first and the second miss in a row of a frame exchange (R126, R133). -/
theorem missedFrame_counts (hm : d.misses < 2) :
    (d.withdrawn = false → s.missed e .space = s.clearExchange.setDrive e.drive d.waiting.missed) ∧
    (d.withdrawn = false → d.abandonOwed = false →
      s.missed e .done = s.clearExchange.setDrive e.drive d.waiting.missed) ∧
    (∀ f rest, d.withdrawn = true → d.queue = f :: rest → s.missed e .space =
      ({ s.setDrive e.drive (d.waiting.missed.dropped f rest) with
        store := (f.stripes.filterMap (·.slot)).foldl Store.release s.store } : State).clearExchange) ∧
    (d.withdrawn = true → s.burn.mode = .block ∨ s.monitor.halted = true →
      s.missed e .done = s.clearExchange.setDrive e.drive d.waiting.missed.owing) ∧
    (∀ f rest, d.withdrawn = true → d.queue = f :: rest → s.burn.mode = .frame → s.monitor.halted = false →
      s.missed e .done = (s.setDrive e.drive d.waiting.missed.owing).startUnit e.drive .abandon
        (.abandon f.stream f.seq)) := by
  have hcount := countMiss_waiting hd hp hm
  have hrec := drive_setDrive_same s e.drive d.waiting.missed
  have howes (hw : d.withdrawn = true) : (s.setDrive e.drive d.waiting.missed).oweWithdrawn e.drive =
      s.setDrive e.drive d.waiting.missed.owing :=
    (oweWithdrawn_owes hrec hw).trans (setDrive_setDrive _ _ _ _)
  refine ⟨fun hw => ?_, fun hw ho => ?_, fun f rest hw hq => ?_, fun hw hr => ?_, fun f rest hw hq hm hh => ?_⟩
  · rw [missed, hcount, discardWithdrawn_stays (by rw [hrec]; exact hw)]
    rfl
  · rw [missed, hcount, oweWithdrawn_stays (by rw [hrec]; exact hw), endTurn_rests (.inl (by rw [hrec]; exact ho))]
    rfl
  · have hdiscard : (s.setDrive e.drive d.waiting.missed).discardWithdrawn e.drive =
        (s.setDrive e.drive d.waiting.missed).discardHead e.drive := if_pos (by rw [hrec]; exact hw)
    rw [missed, hcount, hdiscard, discardHead_eq hrec hq, setDrive_setDrive]
    rfl
  · rw [missed, hcount, howes hw]
    exact endTurn_rests (.inr hr)
  · rw [missed, hcount, howes hw]
    exact endTurn_abandons (by rw [drive_setDrive_same]; rfl) hm hh (by rw [drive_setDrive_same]; exact hq)

/-- The third miss in a row (R127, R133, R141), whatever window it closes. -/
theorem missed_wentSilent (hm : d.misses = 2) (hi : s.burn.item = .idle) (w : WindowKind) :
    ∃ t : State, s.missed e w = t.clearExchange ∧ s.WentSilent t e.drive d := by
  obtain ⟨hsilent, hburn⟩ := countMiss_wentSilent hd hp hm
  have hend : (s.countMiss e.drive).endExchange = (s.countMiss e.drive).clearExchange :=
    endExchange_idle (by rw [hburn]; exact hi)
  have hwait : s.WentSilent ((s.headWaiting e.drive).countMiss e.drive) e.drive d := by
    rw [headWaiting_eq hd]
    exact WentSilent.of_waiting hd
      (countMiss_wentSilent (d := d.waiting) (drive_setDrive_same s e.drive d.waiting) hp hm).1
  cases w with
  | presence => exact ⟨_, hend, hsilent⟩
  | status =>
    by_cases hq : e.purpose = .requested
    · exact ⟨_, (missStatus_silent hq hsilent).trans hend, hsilent⟩
    · exact ⟨_, (missStatus_other hq).trans hend, hsilent⟩
  | space =>
    refine ⟨_, ?_, hwait⟩
    rw [missed]
    by_cases hc : d.queue ≠ [] ∨ (d.withdrawn = false ∧ d.abandonOwed = false)
    · rw [discardWithdrawn_stays (hwait.flags hc).2]
    · rw [discardWithdrawn_empty (hwait.queue_empty (not_not.1 fun hq => hc (.inl hq)))]
  | done =>
    rw [missed]
    by_cases hc : d.queue ≠ [] ∨ (d.withdrawn = false ∧ d.abandonOwed = false)
    · obtain ⟨howed, hgone⟩ := hwait.flags hc
      exact ⟨_, by rw [oweWithdrawn_stays hgone, endTurn_rests (.inl howed)], hwait⟩
    · have hempty := hwait.queue_empty (not_not.1 fun hq => hc (.inl hq))
      cases hgone : (((s.headWaiting e.drive).countMiss e.drive).drive e.drive).withdrawn with
      | false => exact ⟨_, by rw [oweWithdrawn_stays hgone, endTurn_empty hempty], hwait⟩
      | true =>
        refine ⟨_, ?_, hwait.of_flags hd hc true false⟩
        rw [oweWithdrawn_owes rfl hgone]
        exact endTurn_empty (by rw [drive_setDrive_same]; exact hempty)

end

/-- The end of a relay window (R134). -/
theorem exec_relayWindowExpiry {s : State} {a : DriveIx} {tag : Word16} (h : (s.drive a).relay = .outstanding tag) :
    exec (.relayWindowExpiry a) s =
      .next ((s.setDrive a { s.drive a with relay := .none }).deferred tag (.refused .noAnswer)).kick := by
  show Host.Outcome.next (s.relayExpired a) = _
  rw [relayExpired, if_pos (relayOpen_outstanding h), endRelay_outstanding rfl h]

/-- Settles O60: the first and second miss by what they count, the third by `missed_wentSilent`. -/
theorem missesCountUpToSilence : Obligations.MissesCountUpToSilence := by
  refine ⟨fun s e w d he hp hd hi => ?_, fun s e w d he hp hd hw hm => ?_, fun s a tag h => exec_relayWindowExpiry h⟩
  · rw [exec_missedAnswer he hp]
    refine ⟨fun ha hw => ?_, fun ha hm => ⟨fun hw => ?_, fun hw hq => ?_, fun hw hn ho => ?_, fun f rest hw hn hq => ?_,
      fun f rest hw hn hq => ⟨fun hr => ?_, fun hmode hh => ?_⟩⟩, fun ha hm => ?_⟩
    · rw [missed_ask (.inl hw), countMiss_absent (by rw [hd]; exact ha), endExchange_idle hi]
    · rw [missed_ask hw, countMiss_counts hd ha hm]
      exact congrArg (fun t : State => Host.Outcome.next t.kick) (endExchange_idle hi)
    · have hcount := countMiss_counts hd ha hm
      rw [hw, missed, missStatus_requested hq (by rw [hcount, drive_setDrive_same]), hcount, setDrive_setDrive]
      exact congrArg (fun t : State => Host.Outcome.next t.kick) (endExchange_idle hi)
    · obtain ⟨hspace, hdone, -⟩ := missedFrame_counts hd ha hm
      obtain rfl | rfl := hw
      · rw [hspace hn]
        rfl
      · rw [hdone hn ho]
        rfl
    · subst hw
      obtain ⟨-, -, hdiscard, -⟩ := missedFrame_counts hd ha hm
      rw [hdiscard f rest hn hq]
      exact ⟨_, rfl, rfl, drive_setDrive_same _ _ _, rfl, fun b hb => drive_setDrive_other _ _ (Ne.symm hb), rfl⟩
    · subst hw
      obtain ⟨-, -, -, howe, -⟩ := missedFrame_counts hd ha hm
      rw [howe hn hr]
      rfl
    · subst hw
      obtain ⟨-, -, -, -, habandon⟩ := missedFrame_counts hd ha hm
      rw [habandon f rest hn hq hmode hh]
      rfl
    · obtain ⟨t, ht, hsilent⟩ := missed_wentSilent hd ha hm hi w
      exact ⟨t.clearExchange, by rw [ht], hsilent, rfl⟩
  · refine ⟨s.countMiss e.drive, _, (exec_missedAnswer he hp).trans (by rw [missed_ask hw]), ?_, endExchange_goesOn _,
      fun ha => countMiss_absent (by rw [hd]; exact ha), fun ha hlt => countMiss_counts hd ha hlt,
      fun ha heq => (countMiss_wentSilent hd ha heq).1⟩
    by_cases ha : d.condition = .absent
    · rw [countMiss_absent (by rw [hd]; exact ha)]
    · obtain hlt | heq := Nat.lt_or_eq_of_le hm
      · rw [countMiss_counts hd ha hlt]
        rfl
      · exact (countMiss_wentSilent hd ha heq).2

end Sys2Proof.BurnLink

/-! PROOFS. A drive that fails a WRITE (R125, R139, R141, R146, R147): what its news and its entry into FAULT make of a state. -/

namespace Sys2Proof.Machine

/-- What relays' ends, conditions, news and spans keep: the store, the directory, the controller, and every fault entry but that
of NOTICE_OVERFLOW. -/
structure Relinked (s t : State) : Prop where
  store : t.store = s.store
  dir : t.dir = s.dir
  burn : t.burn = s.burn
  fault : ∀ k, k ≠ .noticeOverflow → t.fault k = s.fault k

namespace Relinked

variable {s t u : State}

theorem refl (s : State) : Relinked s s := ⟨rfl, rfl, rfl, fun _ _ => rfl⟩

theorem trans (h : Relinked s t) (g : Relinked t u) : Relinked s u :=
  ⟨g.store.trans h.store, g.dir.trans h.dir, g.burn.trans h.burn, fun k hk => (g.fault k hk).trans (h.fault k hk)⟩

theorem setDrive (s : State) (a : DriveIx) (d : DriveRec) : Relinked s (s.setDrive a d) := ⟨rfl, rfl, rfl, fun _ _ => rfl⟩

theorem modDrive (s : State) (a : DriveIx) (f : DriveRec → DriveRec) : Relinked s (s.modDrive a f) := setDrive s a _

theorem occur (s : State) (k : WatchCondition) (scope : Nat) (detail : Word32) :
    Relinked s (s.occur k scope detail) :=
  let h := Signals.occur s k scope detail
  ⟨h.store, h.dir, h.burn, fun _ hk => State.fault_occur s k scope detail hk⟩

theorem ite {c : Prop} [Decidable c] (h : c → Relinked s t) (g : ¬ c → Relinked s u) :
    Relinked s (if c then t else u) := by
  split
  · exact h ‹_›
  · exact g ‹_›

theorem endRelay (s : State) (a : DriveIx) (x : Answer) : Relinked s (s.endRelay a x) := by
  obtain ⟨rp, h, -⟩ := State.endRelay_ended s a x
  rw [h]
  exact ⟨rfl, rfl, rfl, fun _ _ => rfl⟩

theorem moveFrames (n : Nat) (a b : DriveIx) : ∀ s : State, Relinked s (State.moveFrames n a b s) := by
  induction n with
  | zero => exact refl
  | succ n ih =>
    intro s
    unfold State.moveFrames
    split
    · exact refl s
    · exact ite (fun _ => ((modDrive s a _).trans (modDrive _ b _)).trans (ih _)) fun _ => refl s

theorem leaveService (s : State) (a : DriveIx) : Relinked s (s.leaveService a) := by
  unfold State.leaveService
  split
  · split
    · exact ite (fun _ => (((modDrive s _ _).trans (modDrive _ _ _)).trans (occur _ _ _ _)).trans (moveFrames _ _ _ _))
        fun _ => refl s
    · exact refl s
  · exact refl s
  · exact refl s

theorem leftHeld (s : State) (a : DriveIx) (before c : Condition) : Relinked s (s.leftHeld a before c) :=
  ite (fun _ => endRelay s a _) fun _ => refl s

theorem enteredFull (s : State) (a : DriveIx) (before c : Condition) : Relinked s (s.enteredFull a before c) :=
  ite (fun _ => occur s _ _ _) fun _ => refl s

theorem setCondition (s : State) (a : DriveIx) (c : Condition) : Relinked s (s.setCondition a c) := by
  have hset := ((modDrive s a fun d => { d with condition := c }).trans (leftHeld _ a (s.drive a).condition c)).trans
    (enteredFull _ a (s.drive a).condition c)
  have hwait := hset.trans (ite (c := State.renewsAsk (s.drive a).condition c = true)
    (fun _ => modDrive _ a fun d => { d with transfer := .waitingSpace, carry := [] }) fun _ => refl _)
  exact hwait.trans (ite (fun _ => leaveService _ a) fun _ => refl _)

theorem applyNews (s : State) (a : DriveIx) (n : News) : Relinked s (s.applyNews a n) :=
  (modDrive s a _).trans (setCondition _ a _)

end Relinked

/-- Only a drive in FAULT is in FAULT after news (R139). -/
theorem News.condition_fault {n : News} {c : Condition} {held : Option Word32} (h : n.condition c held = .fault) :
    c = .fault := by
  cases c with
  | fault => rfl
  | full =>
    cases n with
    | mediaReady x =>
      unfold News.condition at h
      dsimp only at h
      split at h <;> contradiction
    | mediaFull | mediaGone | nothing => contradiction
  | absent | noMedia | ready | held => cases n <;> contradiction

namespace State

variable {s t : State} {a : DriveIx} {d : DriveRec}

theorem not_spansFrom_iff : ¬ s.SpansFrom d ↔
    ∀ i b, d.binding = .active i → s.standbyOf i = some b → (s.drive b).condition ≠ .ready :=
  ⟨fun h i b h1 h2 h3 => h ⟨i, b, h1, h2, h3⟩, fun h ⟨i, b, h1, h2, h3⟩ => h i b h1 h2 h3⟩

/-- A span is judged by the leaving drive's place and queue, and by the record of the drive it goes to. -/
theorem Spanned.congr {u : State} {i : StreamIx} {b : DriveIx} {q : List FrameRec} {n : Nat} (h : s.Spanned t i a b q n)
    (hbind : (u.drive a).binding = (t.drive a).binding) (hq : (u.drive a).queue = (t.drive a).queue)
    (hc : (u.drive a).committed = (t.drive a).committed) (hb : u.drive b = t.drive b) : s.Spanned u i a b q n := by
  unfold Spanned at h ⊢
  rw [hbind, hq, hc, hb]
  exact h

theorem standby_other {i : StreamIx} {b : DriveIx} (h : s.drive a = d) (h1 : d.binding = .active i)
    (h2 : s.standbyOf i = some b) : b ≠ a := by
  rintro rfl
  have := standby_binding h2
  rw [h, h1] at this
  contradiction

/-! ### The entry into FAULT (R134, R141, R146, R147) -/

/-- The end of the relay of a drive that leaves HELD is the one change beside its record. -/
theorem leftHeld_kept (s : State) (a : DriveIx) (before c : Condition) : s.Silent (s.leftHeld a before c) ∧
    (s.leftHeld a before c).drive a = { s.drive a with relay := ((s.leftHeld a before c).drive a).relay } ∧
    ∀ b, b ≠ a → (s.leftHeld a before c).drive b = s.drive b := by
  rw [leftHeld]
  split
  · obtain ⟨rp, h, hrec, hother, -⟩ := endRelay_ended s a (.refused .noAnswer)
    exact ⟨by rw [h]; exact ⟨rfl, rfl⟩, by rw [hrec], hother⟩
  · exact ⟨⟨rfl, rfl⟩, rfl, fun _ _ => rfl⟩

/-- A drive not in FAULT that enters it leaves service. -/
theorem setCondition_fault (h : s.drive a = d) (hf : d.condition ≠ .fault) : ∃ v : State,
    s.setCondition a .fault = v.leaveService a ∧ s.Silent v ∧
      v.drive a = { d with
        condition := .fault, transfer := .waitingSpace, carry := [], relay := (v.drive a).relay } ∧
      ∀ b, b ≠ a → v.drive b = s.drive b := by
  obtain ⟨hsilent, hrec, hother⟩ := leftHeld_kept (s.setDrive a { d with condition := .fault }) a d.condition .fault
  have hout : (Condition.fault.outOfService && d.condition != .fault) = true := by simp [Condition.outOfService, hf]
  have hleave : s.setCondition a .fault = (((s.setDrive a { d with condition := .fault }).leftHeld a d.condition
      .fault).headWaiting a).leaveService a := by
    rw [setCondition, modDrive_eq h, h, if_pos hout]
    rfl
  refine ⟨_, hleave, hsilent, ?_, fun b hb => ?_⟩
  · rw [drive_setDrive_same] at hrec
    rw [headWaiting_eq hrec, drive_setDrive_same]
  · exact (drive_modDrive_other _ _ (Ne.symm hb)).trans
      ((hother b hb).trans (drive_setDrive_other s _ (Ne.symm hb)))

/-- A drive in FAULT stays as it is, its head in WAITING_SPACE (R120). -/
theorem setCondition_faulted (h : s.drive a = d) (hf : d.condition = .fault) :
    s.setCondition a .fault = s.setDrive a { d with transfer := .waitingSpace, carry := [] } := by
  rw [setCondition_record h (fun hh => absurd (hf.symm.trans hh) (by decide)) (fun hh => absurd hh (by decide))
    fun _ => hf]
  obtain ⟨c, r⟩ := d
  dsimp only at hf
  subst hf
  rfl

/-- What the entry into FAULT of drive `a`, its record being `d`, makes of `s`, by its place and the spare drive. -/
structure Faulted (s t : State) (a : DriveIx) (d : DriveRec) : Prop where
  set : ConditionSet s t a d .fault
  rest : Relinked s t
  kept : d.condition = .fault ∨ ¬ s.SpansFrom d → s.Silent t ∧ t.drive a = { d with
    condition := .fault, transfer := .waitingSpace, carry := [], relay := (t.drive a).relay } ∧
      ∀ b, b ≠ a → t.drive b = s.drive b
  spans : ∀ i b, d.binding = .active i → s.standbyOf i = some b → (s.drive b).condition = .ready →
    d.condition ≠ .fault → s.Occurred t .span (streamId i) (BitVec.ofNat 32 (driveAddress b)) ∧
      (d.abandonOwed = false ∧ d.withdrawn = false → s.Spanned t i a b d.queue d.committed)

theorem setCondition_faults (h : s.drive a = d) : Faulted s (s.setCondition a .fault) a d := by
  refine ⟨setCondition_set s a d h .fault, Relinked.setCondition s a .fault, fun hk => ?_, fun i b h1 h2 h3 hf => ?_⟩
  · by_cases hf : d.condition = .fault
    · rw [setCondition_faulted h hf, drive_setDrive_same, ← hf]
      exact ⟨⟨rfl, rfl⟩, rfl, fun b hb => drive_setDrive_other s _ (Ne.symm hb)⟩
    · obtain ⟨v, hv, hsilent, hrec, hother⟩ := setCondition_fault h hf
      have hstay : v.leaveService a = v := leaveService_unspanned rfl
        (mt (spansFrom_congr h (by rw [hrec]) (by rw [hrec]) hother).1 (hk.resolve_left hf))
      rw [hv, hstay]
      exact ⟨hsilent, hrec, hother⟩
  · obtain ⟨v, hv, ⟨hmon, hout⟩, hrec, hother⟩ := setCondition_fault h hf
    have hne := standby_other h h1 h2
    have hbind : (v.drive a).binding = .active i := by rw [hrec]; exact h1
    have hall : ∀ x, (v.drive x).binding = (s.drive x).binding := fun x => by
      by_cases hx : x = a
      · rw [hx, hbind, h, h1]
      · rw [hother x hx]
    have hstandby : v.standbyOf i = some b := (standbyOf_congr hall i).trans h2
    have hready : (v.drive b).condition = .ready := by rw [hother b hne, h3]
    rw [hv]
    refine ⟨?_, fun hflags => ?_⟩
    · obtain ⟨y, hm, hr, hm', hr', -⟩ := leaveService_spans v a b i hbind hstandby hready
      exact ⟨y, hm.trans hmon, by rw [hr, hout], hm', by rw [hr']⟩
    · have hspan := (leaveService_spanned v a b i hbind hstandby hready (.inr (by rw [hrec]; exact hflags))).1
      rw [hrec] at hspan
      exact spanned_congr (hother b hne) hspan

/-! ### News, and then FAULT (R125, R139, R141) -/

/-- What news of a drive `a` and, after signals that lead to `y`, its entry into FAULT make of `s`, its record being `d`. -/
structure Failed (s y z : State) (a : DriveIx) (d : DriveRec) (n : News) : Prop where
  condition : (z.drive a).condition = .fault
  transfer : (z.drive a).transfer = .waitingSpace
  remaining : (z.drive a).remaining = n.normal.remaining d.remaining
  misses : (z.drive a).misses = d.misses
  owed : d.abandonOwed = false → (z.drive a).abandonOwed = false
  withdrawn : d.withdrawn = false → (z.drive a).withdrawn = false
  kept : d.condition = .fault ∨ ¬ s.SpansFrom d → (z.drive a).queue = d.queue ∧
    (z.drive a).committed = d.committed ∧ (z.drive a).binding = d.binding ∧ (z.drive a).withdrawn = d.withdrawn
  silent : ¬ s.SpansFrom d → y.Silent z
  spanned : ∀ i b, d.binding = .active i → s.standbyOf i = some b → (s.drive b).condition = .ready →
    d.condition ≠ .fault → d.abandonOwed = false ∧ d.withdrawn = false → s.Spanned z i a b d.queue d.committed
  occurred : ∀ i b, d.binding = .active i → s.standbyOf i = some b → (s.drive b).condition = .ready →
    n ≠ .mediaGone → d.condition ≠ .fault → y.Occurred z .span (streamId i) (BitVec.ofNat 32 (driveAddress b))

/-- Where the news did not span, FAULT follows from the record the news made. -/
theorem faulted_after_signals {y z : State} {n : News} (h : s.drive a = d)
    (S : Signals (s.setDrive a (d.withNews n)) y) (F : Faulted y z a (y.drive a)) :
    (d.condition = .fault ∨ ¬ s.SpansFrom d → y.Silent z ∧ (z.drive a).queue = d.queue ∧
      (z.drive a).committed = d.committed ∧ (z.drive a).binding = d.binding ∧ (z.drive a).withdrawn = d.withdrawn) ∧
    (∀ i b, d.binding = .active i → s.standbyOf i = some b → (s.drive b).condition = .ready → d.condition ≠ .fault →
      y.Occurred z .span (streamId i) (BitVec.ofNat 32 (driveAddress b)) ∧
        (d.abandonOwed = false ∧ d.withdrawn = false → s.Spanned z i a b d.queue d.committed)) := by
  have hrec : y.drive a = d.withNews n := (S.drive a).trans (drive_setDrive_same _ _ _)
  have hother : ∀ b, b ≠ a → y.drive b = s.drive b := fun b hb =>
    (S.drive b).trans (drive_setDrive_other s _ (Ne.symm hb))
  rw [hrec] at F
  refine ⟨fun hk => ?_, fun i b h1 h2 h3 hf => ?_⟩
  · have hk' : (d.withNews n).condition = .fault ∨ ¬ y.SpansFrom (d.withNews n) :=
      hk.imp (fun hf => (News.condition_kept _ (.inr hf) _).trans hf)
        (mt (spansFrom_congr h rfl (by rw [hrec]; rfl) hother).1)
    obtain ⟨hsilent, hz, -⟩ := F.kept hk'
    rw [hz]
    exact ⟨hsilent, rfl, rfl, rfl, rfl⟩
  · have hall : ∀ x, (y.drive x).binding = (s.drive x).binding := fun x => by
      by_cases hx : x = a
      · rw [hx, hrec, h]
        rfl
      · rw [hother x hx]
    have hne := standby_other h h1 h2
    obtain ⟨hoccur, hspan⟩ := F.spans i b h1 ((standbyOf_congr hall i).trans h2) (by rw [hother b hne, h3])
      (mt News.condition_fault hf)
    exact ⟨hoccur, fun hflags => spanned_congr (hother b hne) (hspan hflags)⟩

/-- Where the news spanned, the drive is the STANDBY and FAULT adds nothing to it (R146). -/
theorem faulted_after_span {y z : State} {n : News} {i : StreamIx} {b : DriveIx} (h : s.drive a = d)
    (S : Signals ((s.setDrive a (d.withNews n)).leaveService a) y) (F : Faulted y z a (y.drive a))
    (h1 : d.binding = .active i) (h2 : s.standbyOf i = some b) (h3 : (s.drive b).condition = .ready)
    (hflags : d.abandonOwed = false ∧ d.withdrawn = false) : s.Spanned z i a b d.queue d.committed := by
  have hne := standby_other h h1 h2
  have hrec := drive_setDrive_same s a (d.withNews n)
  have hother : (s.setDrive a (d.withNews n)).drive b = s.drive b := drive_setDrive_other s _ (Ne.symm hne)
  have hall : ∀ x, ((s.setDrive a (d.withNews n)).drive x).binding = (s.drive x).binding := fun x => by
    by_cases hx : x = a
    · rw [hx, hrec, h]
      rfl
    · rw [drive_setDrive_other s _ (Ne.symm hx)]
  have hspan := (leaveService_spanned (s.setDrive a (d.withNews n)) a b i (by rw [hrec]; exact h1)
    ((standbyOf_congr hall i).trans h2) (by rw [hother, h3]) (.inr (by rw [hrec]; exact hflags))).1
  rw [hrec] at hspan
  have hspan := spanned_congr hother hspan
  have hstandby : (y.drive a).binding = .standby i := by rw [S.drive]; exact hspan.1
  obtain ⟨-, hz, hzother⟩ := F.kept (.inr fun ⟨j, c, hj, _⟩ => by
    rw [hstandby] at hj
    contradiction)
  have hsame : ∀ x, (y.drive x) = ((s.setDrive a (d.withNews n)).leaveService a).drive x := S.drive
  refine hspan.congr ?_ ?_ ?_ ((hzother b hne).trans (hsame b))
  all_goals rw [hz, hsame a]

theorem failed_of_news (h : s.drive a = d) (n : News) {y : State} (S : Signals (s.applyNews a n) y) :
    Failed s y (y.setCondition a .fault) a d n := by
  have N := applyNews_set s a d h n
  have F := setCondition_faults (rfl : y.drive a = y.drive a)
  generalize y.setCondition a .fault = z at F
  have hy := S.drive a
  have hkept := F.set.kept
  have hnews := N.kept
  rw [← hy] at hnews
  have hmisses : (z.drive a).misses = d.misses := by
    rw [hkept.eq]
    show (y.drive a).misses = _
    rw [hnews.eq]
  have hwaiting := F.set.waiting (by decide) (by decide)
  have hcases := applyNews_cases h n
  refine ⟨F.set.condition, hwaiting.1, F.set.remaining.trans (hy ▸ N.remaining), hmisses,
    fun ho => hkept.abandon (hnews.abandon ho), fun hw => hkept.withdrawn (hnews.withdrawn hw), fun hk => ?_,
    fun hs => ?_, fun i b h1 h2 h3 hf hflags => ?_, fun i b h1 h2 h3 hn hf => ?_⟩
  · obtain hstay | ⟨-, hs, hf, -⟩ := hcases
    · exact ((faulted_after_signals h (hstay.trans S) F).1 hk).2
    · exact absurd hk (by simp [hf, hs])
  · obtain hstay | ⟨-, hspan, -⟩ := hcases
    · exact ((faulted_after_signals h (hstay.trans S) F).1 (.inr hs)).1
    · exact absurd hspan hs
  · obtain hstay | ⟨-, -, -, -, hleaves⟩ := hcases
    · exact ((faulted_after_signals h (hstay.trans S) F).2 i b h1 h2 h3 hf).2 hflags
    · rw [hleaves] at S
      exact faulted_after_span h S F h1 h2 h3 hflags
  · exact ((faulted_after_signals h ((applyNews_signals h hn).trans S) F).2 i b h1 h2 h3 hf).1

end State

end Sys2Proof.Machine

/-! PROOFS. The answers of the frame exchange (R120, R121, R124, R125, R128, R133, R138): SPACE_OK, SPACE_NO, WRITE_DONE and
WRITE_FAIL. -/

namespace Sys2Proof.Machine

/-- A drive's record whose misses an answer has set to 0 (R126). -/
def DriveRec.reached (d : DriveRec) : DriveRec := { d with misses := 0 }

/-- A drive's record whose head is granted space: SENDING its first sector when the drive is READY or FULL (R121). -/
def DriveRec.granted (d : DriveRec) : DriveRec :=
  { d with
    transfer := if d.condition = .ready ∨ d.condition = .full then .sending 0 else .waitingSpace
    carry := [] }

/-- The condition after a WRITE_DONE (R124, R139). -/
theorem newsOfCapacity_condition (c : Word32) (b : Condition) (held : Option Word32) :
    (newsOfCapacity c).normal.condition b held = if b = .held ∨ b = .fault then b
      else if c = 0 ∨ (b = .full ∧ c ≤ held.getD 0) then .full else .ready := by
  by_cases hc : c = 0
  · subst hc
    cases b <;> rfl
  · have hn : (newsOfCapacity c).normal = .mediaReady c := by
      rw [newsOfCapacity, if_neg hc, News.normal_mediaReady hc]
    rw [hn]
    cases b with
    | full =>
      rw [if_neg (by decide)]
      by_cases hlt : held.getD 0 < c
      · have hle : ¬ c ≤ held.getD 0 := BitVec.not_le.2 hlt
        rw [if_neg fun h => h.elim hc fun h => hle h.2]
        exact if_pos hlt
      · rw [if_pos (.inr ⟨rfl, BitVec.not_lt.1 hlt⟩)]
        exact if_neg hlt
    | held | fault => rfl
    | absent | noMedia | ready =>
      rw [if_neg (by decide), if_neg fun h => h.elim hc fun h => absurd h.1 (by decide)]
      rfl

theorem newsOfCapacity_remaining (c : Word32) (held : Option Word32) :
    (newsOfCapacity c).normal.remaining held = some c := by
  rw [News.normal_remaining, newsOfCapacity]
  split_ifs with hc
  · rw [hc]
  · rfl

/-- The record after a WRITE_DONE, its next head in WAITING_SPACE (R124, R138, R139). -/
theorem DriveRec.withNews_capacity {d : DriveRec} (ht : d.transfer = .waitingSpace) (hc : d.carry = []) (c : Word32) :
    d.withNews (newsOfCapacity c) = { d with
      remaining := some c
      condition := if d.condition = .held ∨ d.condition = .fault then d.condition
        else if c = 0 ∨ (d.condition = .full ∧ c ≤ d.remaining.getD 0) then .full else .ready } := by
  rw [withNews, measured, newsOfCapacity_condition, newsOfCapacity_remaining, entering]
  simp [ht, hc]

namespace State

variable {s t : State} {a : DriveIx} {d x : DriveRec} {e : Exchange} {f : FrameRec} {rest : List FrameRec} {n : News}

theorem answered_reached (h : s.drive a = d) : s.answered a = s.setDrive a d.reached := answered_eq h

/-! ### SPACE_OK (R121, R133) -/

theorem takesFramesStill_iff : s.takesFramesStill a = true ↔
    (s.drive a).condition = .ready ∨ (s.drive a).condition = .full := by
  simp [takesFramesStill]

/-- Space granted after news: SENDING when the drive is READY or FULL; otherwise the news has left the head in
WAITING_SPACE (R120, R121; log 33). -/
theorem grantSpace_eq (hx : t.drive a = x)
    (hw : x.condition ≠ .ready → x.condition ≠ .full → x.transfer = .waitingSpace ∧ x.carry = []) :
    t.grantSpace a = t.setDrive a x.granted := by
  rw [grantSpace]
  by_cases h : x.condition = .ready ∨ x.condition = .full
  · rw [if_pos (takesFramesStill_iff.2 (by rw [hx]; exact h)), modDrive_eq hx, DriveRec.granted, if_pos h]
  · rw [if_neg (by rw [takesFramesStill_iff, hx]; exact h)]
    obtain ⟨hready, hfull⟩ := not_or.1 h
    obtain ⟨htransfer, hcarry⟩ := hw hready hfull
    have hsame : x.granted = t.drive a := by
      rw [DriveRec.granted, if_neg h, ← htransfer, ← hcarry, hx]
    rw [hsame, setDrive_self]

theorem takeSpaceOk_eq (hd : s.drive e.drive = d) (ht : t = (s.setDrive e.drive d.reached).applyNews e.drive n)
    (hx : t.drive e.drive = x) : s.takeSpaceOk e n =
      if x.withdrawn then ((t.setDrive e.drive x.granted).oweAbandon e.drive).endTurn e.drive
      else if x.condition = .ready ∨ x.condition = .full then (t.setDrive e.drive x.granted).continueTurn e.drive
      else (t.setDrive e.drive x.granted).clearExchange := by
  have hset := applyNews_set _ e.drive d.reached (drive_setDrive_same s e.drive d.reached) n
  rw [← ht] at hset
  have hgrant : ((s.answered e.drive).applyNews e.drive n).grantSpace e.drive = t.setDrive e.drive x.granted := by
    rw [answered_reached hd, ← ht]
    refine grantSpace_eq hx fun hr hf => ?_
    rw [← hx, hset.condition] at hr hf
    rw [← hx]
    exact hset.waiting hr hf
  have hrec := drive_setDrive_same t e.drive x.granted
  have htakes : (t.setDrive e.drive x.granted).takesFramesStill e.drive = true ↔
      x.condition = .ready ∨ x.condition = .full := by
    rw [takesFramesStill_iff, hrec]
    exact Iff.rfl
  simp only [takeSpaceOk, hgrant, hrec, htakes]
  rfl

theorem granted_serving (h : x.condition = .ready ∨ x.condition = .full) :
    x.granted = { x with transfer := .sending 0, carry := [] } := by
  rw [DriveRec.granted, if_pos h]

/-- A SPACE_OK for a head that is not withdrawn (R116, R121, R135; log 33). -/
theorem takeSpaceOk_stays (hd : s.drive e.drive = d) (hq : d.queue = f :: rest) (hw : d.withdrawn = false)
    (ht : t = (s.setDrive e.drive d.reached).applyNews e.drive n) (hx : t.drive e.drive = x) :
    (x.condition ≠ .ready → x.condition ≠ .full →
      s.takeSpaceOk e n = t.clearExchange ∧ x.transfer = .waitingSpace) ∧
    (x.condition = .ready ∨ x.condition = .full →
      (s.burn.mode = .block ∨ t.monitor.halted = true → s.takeSpaceOk e n =
        t.clearExchange.setDrive e.drive { x with transfer := .sending 0, carry := [] }) ∧
      (s.burn.mode = .frame → t.monitor.halted = false → 0 < dataSectors f.stripeCount f.stripeSize →
        s.takeSpaceOk e n =
          (t.setDrive e.drive { x with transfer := .sending 0, carry := [] }).startWrite e.drive f 0)) := by
  have hset := applyNews_set _ e.drive d.reached (drive_setDrive_same s e.drive d.reached) n
  rw [← ht] at hset
  have htake := takeSpaceOk_eq hd ht hx
  have hburn : t.burn = s.burn := hset.burn
  have hgone : x.withdrawn = false := hx ▸ hset.kept.withdrawn hw
  rw [if_neg (by simp [hgone])] at htake
  refine ⟨fun hr hf => ?_, fun hs => ?_⟩
  · have hwait : x.transfer = .waitingSpace ∧ x.carry = [] := by
      rw [← hx]
      rw [← hx, hset.condition] at hr hf
      exact hset.waiting hr hf
    have hkept : x.condition ≠ .ready ∧ x.condition ≠ .full := ⟨hr, hf⟩
    have hsame : x.granted = t.drive e.drive := by
      rw [DriveRec.granted, if_neg (not_or.2 hkept), ← hwait.1, ← hwait.2, hx]
    rw [htake, if_neg (not_or.2 hkept), hsame, setDrive_self]
    exact ⟨rfl, hwait.1⟩
  · have hqueue : x.queue = f :: rest := by
      rw [← hx, hset.condition] at hs
      have hin : (n.normal.condition d.condition d.remaining).outOfService = false := by
        obtain h | h := hs
        · exact congrArg Condition.outOfService h
        · exact congrArg Condition.outOfService h
      rw [← hx, hset.stays (.inl hin)]
      exact hq
    rw [htake, if_pos hs, granted_serving hs, ← hburn]
    refine ⟨fun hr => continueTurn_rests (s := t.setDrive e.drive _) hr, fun hm hh hlt => ?_⟩
    rw [continueTurn_sends (s := t.setDrive e.drive _) hm hh (by rw [drive_setDrive_same]; exact hqueue)
      (by rw [drive_setDrive_same]), if_pos hlt]

/-- A head that has been withdrawn is not moved to another drive (R146). -/
theorem moveFrames_withdrawn {b : DriveIx} (h : (s.drive a).withdrawn = true) (m : Nat) : moveFrames m a b s = s := by
  cases m with
  | zero => rfl
  | succ m =>
    have hno (g : FrameRec) : ¬ s.mayMove a b g = true := by simp [mayMove, h]
    rw [moveFrames]
    split
    · rfl
    · exact if_neg (hno _)

theorem leaveService_withdrawn (h : s.drive a = d) (hw : d.withdrawn = true) :
    ((s.leaveService a).drive a).queue = d.queue ∧ ((s.leaveService a).drive a).withdrawn = true := by
  by_cases hs : s.SpansFrom d
  · obtain ⟨i, b, h1, h2, h3⟩ := hs
    have hne := standby_other h h1 h2
    have hspan := Signals.occur (s.swapRoles i a b) .span (streamId i) (BitVec.ofNat 32 (driveAddress b))
    have hrec := hspan.drive a
    rw [swapRoles_eq s i a b hne, drive_setDrive_same] at hrec
    have hleave : s.leaveService a =
        (s.swapRoles i a b).occur .span (streamId i) (BitVec.ofNat 32 (driveAddress b)) := by
      simp only [leaveService, h, h1, h2, h3, if_true]
      refine moveFrames_withdrawn ?_ _
      rw [swapRoles_eq s i a b hne, hrec, h]
      exact hw
    rw [hleave, swapRoles_eq s i a b hne, hrec, h]
    exact ⟨rfl, hw⟩
  · rw [leaveService_unspanned h hs, h]
    exact ⟨rfl, hw⟩

/-- A withdrawn head stays where it is, whatever the news (R133, R146). -/
theorem applyNews_withdrawn (h : s.drive a = d) (hw : d.withdrawn = true) (n : News) :
    ((s.applyNews a n).drive a).queue = d.queue ∧ ((s.applyNews a n).drive a).withdrawn = true := by
  obtain hstay | ⟨-, -, -, -, hleaves⟩ := applyNews_cases h n
  · rw [hstay.drive, drive_setDrive_same]
    exact ⟨rfl, hw⟩
  · rw [hleaves]
    exact leaveService_withdrawn (d := d.withNews n) (drive_setDrive_same _ _ _) hw

/-- A SPACE_OK for a withdrawn head: it is owed an ABANDON (R121, R133). -/
theorem takeSpaceOk_withdrawn (hd : s.drive e.drive = d) (hq : d.queue = f :: rest) (hw : d.withdrawn = true)
    (ht : t = (s.setDrive e.drive d.reached).applyNews e.drive n) (hx : t.drive e.drive = x) :
    (s.burn.mode = .block ∨ t.monitor.halted = true →
      s.takeSpaceOk e n = t.clearExchange.setDrive e.drive x.granted.owing) ∧
    (s.burn.mode = .frame → t.monitor.halted = false → s.takeSpaceOk e n =
      (t.setDrive e.drive x.granted.owing).startUnit e.drive .abandon (.abandon f.stream f.seq)) := by
  have hset := applyNews_set _ e.drive d.reached (drive_setDrive_same s e.drive d.reached) n
  obtain ⟨hqueue, hgone⟩ := applyNews_withdrawn (drive_setDrive_same s e.drive d.reached) hw n
  rw [← ht] at hset hqueue hgone
  rw [hx] at hqueue hgone
  have hburn : t.burn = s.burn := hset.burn
  have hqueue : x.queue = f :: rest := hqueue.trans hq
  rw [takeSpaceOk_eq hd ht hx, if_pos hgone, oweAbandon_eq (drive_setDrive_same _ _ _), setDrive_setDrive, ← hburn]
  exact ⟨fun hr => endTurn_rests (s := t.setDrive e.drive _) (.inr hr),
    fun hm hh => endTurn_abandons (s := t.setDrive e.drive _) (by rw [drive_setDrive_same]; rfl) hm hh
      (by rw [drive_setDrive_same]; exact hqueue)⟩

/-! ### SPACE_NO (R121, R133) -/

theorem takeSpaceNo_eq (hd : s.drive e.drive = d) (n : News) : s.takeSpaceNo e n =
    (((s.setDrive e.drive { d with
      misses := 0, spaceRefusals := d.spaceRefusals + 1, transfer := .waitingSpace, carry := [] }).applyNews e.drive
        n).discardWithdrawn e.drive).clearExchange := by
  have hrefused : ((s.answered e.drive).modDrive e.drive fun d =>
      { d with spaceRefusals := d.spaceRefusals + 1 }).headWaiting e.drive = s.setDrive e.drive { d with
        misses := 0, spaceRefusals := d.spaceRefusals + 1, transfer := .waitingSpace, carry := [] } := by
    simp only [answered_reached hd, modDrive, headWaiting, drive_setDrive_same, setDrive_setDrive]
    rfl
  rw [takeSpaceNo, hrefused]

/-! ### WRITE_DONE (R124, R128) -/

theorem takeWriteDone_eq (hd : s.drive e.drive = d) (hq : d.queue = f :: rest) (c : Word32) : s.takeWriteDone e c =
    (((s.setDrive e.drive (DriveRec.dropped { d with misses := 0, framesWritten := d.framesWritten + 1 } f
      rest)).applyNews e.drive (newsOfCapacity c)).returnRecord f).clearExchange := by
  have hhead : (s.drive e.drive).queue.head? = some f := by rw [hd, hq]; rfl
  have hwritten : (s.answered e.drive).modDrive e.drive (fun d => { d with framesWritten := d.framesWritten + 1 }) =
      s.setDrive e.drive { d with misses := 0, framesWritten := d.framesWritten + 1 } := by
    simp only [answered_reached hd, modDrive, drive_setDrive_same, setDrive_setDrive]
    rfl
  have hdrop := dropHead_eq (s := s.setDrive e.drive { d with misses := 0, framesWritten := d.framesWritten + 1 })
    (drive_setDrive_same _ _ _) hq
  rw [setDrive_setDrive] at hdrop
  rw [takeWriteDone, hwritten, hdrop, hhead]

end State

end Sys2Proof.Machine

/-! PROOFS. WRITE_FAIL, and the frame answers assembled (R120, R121, R124, R125, R133, R146, R147). -/

namespace Sys2Proof.Machine.State

variable {s t : State} {a : DriveIx} {d : DriveRec} {e : Exchange} {f : FrameRec} {rest : List FrameRec} {n : News}

/-! ### WRITE_FAIL (R125, R133, R141) -/

/-- What a WRITE_FAIL raises, its news applied (R125). -/
def writeFailRaised (s : State) (a : DriveIx) (d : DriveRec) (n : News) (seq : Word32) : State :=
  ((s.setDrive a { d with misses := 0, transfer := .waitingSpace, carry := [] }).applyNews a n).raise .driveWriteFail
    (driveAddress a) seq

theorem takeWriteFail_eq (hd : s.drive e.drive = d) (hq : d.queue = f :: rest) (n : News) : s.takeWriteFail e n =
    (((s.writeFailRaised e.drive d n f.seq).setCondition e.drive .fault).oweWithdrawn e.drive).endTurn e.drive := by
  have hhead : ((s.drive e.drive).queue.head?.map (·.seq)).getD 0 = f.seq := by rw [hd, hq]; rfl
  have hwait : (s.answered e.drive).headWaiting e.drive =
      s.setDrive e.drive { d with misses := 0, transfer := .waitingSpace, carry := [] } := by
    rw [answered_reached hd, headWaiting_eq (drive_setDrive_same _ _ _), setDrive_setDrive]
    rfl
  rw [takeWriteFail, hhead, hwait, writeFailRaised]

/-- The READY STANDBY of a drive whose record is changed stands by as before. -/
theorem standby_setDrive {x : DriveRec} {i : StreamIx} {b : DriveIx} (h : s.drive a = d) (hb : x.binding = d.binding)
    (h1 : d.binding = .active i) (h2 : s.standbyOf i = some b) :
    (s.setDrive a x).standbyOf i = some b ∧ (s.setDrive a x).drive b = s.drive b := by
  refine ⟨(standbyOf_congr (fun c => ?_) i).trans h2, drive_setDrive_other s x (Ne.symm (standby_other h h1 h2))⟩
  by_cases hc : c = a
  · rw [hc, drive_setDrive_same, hb, h]
  · rw [drive_setDrive_other s x (Ne.symm hc)]

/-- What a WRITE_FAIL makes of the drive, before its withdrawn frame is looked at and the turn ends. -/
structure WriteFailed (s z : State) (a : DriveIx) (d : DriveRec) (n : News) (seq : Word32) : Prop where
  failed : Failed s (s.writeFailRaised a d n seq) z a { d with misses := 0, transfer := .waitingSpace, carry := [] } n
  store : z.store = s.store
  dir : z.dir = s.dir
  burn : z.burn = s.burn
  halted : s.monitor.halted = true → z.monitor.halted = true
  fault : z.fault .driveWriteFail = { s.fault .driveWriteFail with
    pending := true
    count := if (s.fault .driveWriteFail).count = 65535#16 then 65535#16 else (s.fault .driveWriteFail).count + 1
    firstScope := if (s.fault .driveWriteFail).pending = true then (s.fault .driveWriteFail).firstScope
      else some (driveAddress a) }

theorem writeFail_failed (h : s.drive a = d) (n : News) (seq : Word32) :
    WriteFailed s ((s.writeFailRaised a d n seq).setCondition a .fault) a d n seq := by
  generalize hx : ({ d with misses := 0, transfer := .waitingSpace, carry := [] } : DriveRec) = x
  have hbind : x.binding = d.binding := by rw [← hx]
  have hrec := drive_setDrive_same s a x
  have hraised : s.writeFailRaised a d n seq =
      ((s.setDrive a x).applyNews a n).raise .driveWriteFail (driveAddress a) seq := by rw [writeFailRaised, hx]
  have S := Signals.raise ((s.setDrive a x).applyNews a n) .driveWriteFail (driveAddress a) seq
  have hfailed := failed_of_news hrec n S
  have hnews := (Relinked.setDrive s a x).trans (.applyNews _ a n)
  have hlater := Relinked.setCondition (s.writeFailRaised a d n seq) a .fault
  have hhalted := (Keeps.refl (s.setDrive a x)).applyNews a n
    |>.raise .driveWriteFail (driveAddress a) seq |>.setCondition a .fault
  have hnote := fault_raise_same ((s.setDrive a x).applyNews a n) .driveWriteFail (driveAddress a) seq (by decide)
  rw [hnews.fault _ (by decide), bumpCount_eq, ← hraised, ← hlater.fault _ (by decide)] at hnote
  rw [← hraised] at hfailed S hhalted
  refine ⟨?_, hlater.store.trans (S.store.trans hnews.store), hlater.dir.trans (S.dir.trans hnews.dir),
    hlater.burn.trans (S.burn.trans hnews.burn), hhalted.halted, hnote⟩
  rw [hx]
  have hspans : (s.setDrive a x).SpansFrom x ↔ s.SpansFrom d := spansFrom_setDrive h hbind
  have hspans' : s.SpansFrom x ↔ s.SpansFrom d := by rw [SpansFrom, hbind]; rfl
  have hsame {i : StreamIx} {b : DriveIx} (h1 : x.binding = .active i) (h2 : s.standbyOf i = some b) :=
    standby_setDrive (x := x) h hbind (hbind ▸ h1) h2
  exact
    { hfailed with
      kept := fun hk => hfailed.kept (hk.imp_right fun hn => by rwa [hspans, ← hspans'])
      silent := fun hn => hfailed.silent (by rwa [hspans, ← hspans'])
      spanned := fun i b h1 h2 h3 hf hflags =>
        spanned_congr (hsame h1 h2).2 (hfailed.spanned i b h1 (hsame h1 h2).1 (by rw [(hsame h1 h2).2, h3]) hf hflags)
      occurred := fun i b h1 h2 h3 => hfailed.occurred i b h1 (hsame h1 h2).1 (by rw [(hsame h1 h2).2, h3]) }

/-- The end of a turn changes the controller alone. -/
theorem endTurn_burn (s : State) (a : DriveIx) : s.endTurn a = { s with burn := (s.endTurn a).burn } := by
  rw [endTurn]
  split
  · rw [startAbandon]
    split <;> rfl
  · rfl

end Sys2Proof.Machine.State

namespace Sys2Proof.BurnLink

open Machine Machine.State

section
variable {s : State} {u : BurnAnswer} {e : Exchange} {n : News} (he : s.burn.exchange = some e)
  (hu : driveOf u.address = some e.drive)
include he hu

theorem exec_spaceOk (ha : burnAccepted kindSpaceOk u = true) (hp : e.phase = .window .space)
    (hn : readNewsBody u.body = some n) : exec (.spaceOk u) s = .next (s.takeSpaceOk e n).kick :=
  congrArg Host.Outcome.next (answerNews_taken (answering_taken ha he hp hu) hn State.takeSpaceOk)

theorem exec_spaceNo (ha : burnAccepted kindSpaceNo u = true) (hp : e.phase = .window .space)
    (hn : readNewsBody u.body = some n) : exec (.spaceNo u) s = .next (s.takeSpaceNo e n).kick :=
  congrArg Host.Outcome.next (answerNews_taken (answering_taken ha he hp hu) hn State.takeSpaceNo)

theorem exec_writeFail (ha : burnAccepted kindWriteFail u = true) (hp : e.phase = .window .done)
    (hn : readNewsBody u.body = some n) : exec (.writeFail u) s = .next (s.takeWriteFail e n).kick :=
  congrArg Host.Outcome.next (answerNews_taken (answering_taken ha he hp hu) hn State.takeWriteFail)

theorem exec_writeDone {c : Word32} (ha : burnAccepted kindWriteDone u = true) (hp : e.phase = .window .done)
    (hc : readDoneBody u.body = some c) : exec (.writeDone u) s = .next (s.takeWriteDone e c).kick := by
  show Host.Outcome.next (s.answerDone u) = _
  rw [answerDone, answering_taken ha he hp hu, hc]

end

section
variable {s : State} {a : DriveIx} {d : DriveRec} {e : Exchange} {f : FrameRec} {rest : List FrameRec}

/-- News MEDIA_READY of a READY drive sets its remaining capacity (R139). -/
theorem applyNews_readyStays (h : s.drive a = d) (hr : d.condition = .ready) {c : Word32} (hc : c ≠ 0) :
    s.applyNews a (.mediaReady c) = s.setDrive a { d with remaining := some c } := by
  have hk : (News.mediaReady c).normal.condition d.condition d.remaining = .ready := by
    rw [News.normal_mediaReady hc, hr]
    rfl
  rw [applyNews_record h (by simp [hk]) (by simp [hk, Condition.outOfService]), DriveRec.withNews, hk,
    DriveRec.measured, News.normal_remaining, DriveRec.entering, hr]
  rfl

/-- News MEDIA_FULL of a READY drive, and of one that is FULL (R139, R140). -/
theorem applyNews_mediaFull (h : s.drive a = d) :
    (d.condition = .ready → s.applyNews a .mediaFull =
      (s.setDrive a { d with condition := .full, remaining := some 0 }).occur .mediaNeeded (driveAddress a) 0) ∧
    (d.condition = .full → s.applyNews a .mediaFull = s.setDrive a { d with remaining := some 0 }) := by
  refine ⟨fun hc => ?_, fun hc => ?_⟩
  · rw [applyNews_entersFull h (by rw [hc]; rfl) (by simp [hc]), DriveRec.withNews, hc]
    rfl
  · rw [applyNews_record h (fun _ => hc) (by simp [hc, News.normal, News.condition, Condition.outOfService]),
      DriveRec.withNews, DriveRec.measured, DriveRec.entering, hc]
    rfl

/-- News that keeps or puts a drive out of READY and FULL (R139). -/
theorem applyNews_notServing (h : s.drive a = d) {n : News}
    (hn : n = .mediaGone ∨ d.condition = .held ∨ d.condition = .fault) :
    ((s.applyNews a n).drive a).condition ≠ .ready ∧ ((s.applyNews a n).drive a).condition ≠ .full := by
  rw [(applyNews_set s a d h n).condition]
  obtain rfl | hc | hc := hn
  · cases d.condition <;> simp [News.normal, News.condition]
  · rw [News.condition_kept _ (.inl hc), hc]
    decide
  · rw [News.condition_kept _ (.inr hc), hc]
    decide

/-- A SPACE_OK whose news makes a record `x` that is READY or FULL of the drive's: the head is SENDING. -/
theorem takeSpaceOk_sends_record {x : DriveRec} {n : News} (hd : s.drive e.drive = d) (hq : d.queue = f :: rest)
    (hw : d.withdrawn = false)
    (ht : s.setDrive e.drive x = (s.setDrive e.drive { d with misses := 0 }).applyNews e.drive n)
    (hs : x.condition = .ready ∨ x.condition = .full) :
    (s.burn.mode = .block ∨ s.monitor.halted = true → s.takeSpaceOk e n =
      s.clearExchange.setDrive e.drive { x with transfer := .sending 0, carry := [] }) ∧
    (s.burn.mode = .frame → s.monitor.halted = false → 0 < dataSectors f.stripeCount f.stripeSize →
      s.takeSpaceOk e n =
        (s.setDrive e.drive { x with transfer := .sending 0, carry := [] }).startWrite e.drive f 0) := by
  obtain ⟨hrest, hgo⟩ := (takeSpaceOk_stays hd hq hw ht (drive_setDrive_same _ _ _)).2 hs
  rw [setDrive_setDrive] at hgo
  exact ⟨fun h => (hrest h).trans (setDrive_setDrive s.clearExchange _ _ _), hgo⟩

/-- A WRITE_DONE (R124, R128, R138): the head is written, and the drive is judged from its capacity. -/
theorem takeWriteDone_written (hd : s.drive e.drive = d) (hq : d.queue = f :: rest) (c : Word32) :
    ∃ t : State, s.takeWriteDone e c = t ∧ t.burn = { s.burn with exchange := none } ∧
      t.drive e.drive = { d with
        misses := 0, framesWritten := d.framesWritten + 1, queue := rest, committed := d.committed - f.need,
        transfer := .waitingSpace, carry := [], remaining := some c, abandonOwed := false, withdrawn := false
        condition := if d.condition = .held ∨ d.condition = .fault then d.condition
          else if c = 0 ∨ (d.condition = .full ∧ c ≤ d.remaining.getD 0) then .full else .ready } ∧
      t.store = (f.stripes.filterMap (·.slot)).foldl Store.release s.store ∧
      (∀ b, b ≠ e.drive → t.drive b = s.drive b) ∧ t.dir = s.dir ∧ t.engine = s.engine := by
  have hcap : newsOfCapacity c ≠ .mediaGone := by
    unfold newsOfCapacity
    split_ifs <;> simp
  generalize hx : DriveRec.dropped { d with misses := 0, framesWritten := d.framesWritten + 1 } f rest = x
  have hnews := applyNews_signals (drive_setDrive_same s e.drive x) hcap
  rw [setDrive_setDrive, DriveRec.withNews_capacity (by rw [← hx]; rfl) (by rw [← hx]; rfl)] at hnews
  rw [takeWriteDone_eq hd hq, hx, returnRecord_eq]
  generalize (s.setDrive e.drive x).applyNews e.drive (newsOfCapacity c) = v at hnews
  refine ⟨_, rfl, ?_, (hnews.drive _).trans ?_, ?_, fun b hb => (hnews.drive b).trans ?_, hnews.dir, hnews.engine⟩
  · show { v.burn with exchange := none } = _
    rw [hnews.burn]
    rfl
  · rw [drive_setDrive_same, ← hx]
    rfl
  · show (f.stripes.filterMap (·.slot)).foldl Store.release v.store = _
    rw [hnews.store]
    rfl
  · exact drive_setDrive_other s _ (Ne.symm hb)

/-- A SPACE_NO without news for a withdrawn head of a READY or FULL drive: it is discarded at once (R121, R133). -/
theorem takeSpaceNo_discards (hd : s.drive e.drive = d) (hq : d.queue = f :: rest) (hw : d.withdrawn = true)
    (hc : d.condition = .ready ∨ d.condition = .full) : s.takeSpaceNo e .nothing =
      ({ s.setDrive e.drive (DriveRec.dropped { d with
          misses := 0, spaceRefusals := d.spaceRefusals + 1, transfer := .waitingSpace, carry := [] } f rest) with
        store := (f.stripes.filterMap (·.slot)).foldl Store.release s.store } : State).clearExchange := by
  rw [takeSpaceNo_eq hd]
  generalize hx : ({ d with
    misses := 0, spaceRefusals := d.spaceRefusals + 1, transfer := .waitingSpace, carry := [] } : DriveRec) = x
  have hrec := drive_setDrive_same s e.drive x
  have hdiscard : (s.setDrive e.drive x).discardWithdrawn e.drive = (s.setDrive e.drive x).discardHead e.drive :=
    if_pos (by rw [hrec, ← hx]; exact hw)
  rw [applyNews_nothing _ e.drive x hrec (by rw [← hx]; exact hc), hdiscard,
    discardHead_eq hrec (show x.queue = f :: rest by rw [← hx]; exact hq), setDrive_setDrive]
  rfl

/-- A WRITE_FAIL for a head that is not withdrawn: the frames stay, or the drive spans (R125, R146, R147). -/
theorem takeWriteFail_stays {n : News} (hd : s.drive e.drive = d) (hq : d.queue = f :: rest)
    (hw : d.withdrawn = false) (ho : d.abandonOwed = false) :
    ∃ z : State, s.takeWriteFail e n = z.clearExchange ∧ WriteFailed s z e.drive d n f.seq := by
  have hz := writeFail_failed hd n f.seq
  have heq := takeWriteFail_eq hd hq n
  generalize (s.writeFailRaised e.drive d n f.seq).setCondition e.drive .fault = z at hz heq
  rw [oweWithdrawn_stays (hz.failed.withdrawn hw), endTurn_rests (.inl (hz.failed.owed ho))] at heq
  exact ⟨z, heq, hz⟩

/-- A WRITE_FAIL for a withdrawn head of a drive that does not span: the head is owed an ABANDON (R125, R133). -/
theorem takeWriteFail_withdrawn {n : News} (hd : s.drive e.drive = d) (hq : d.queue = f :: rest)
    (hw : d.withdrawn = true) (hs : ¬ s.SpansFrom d) :
    ∃ z : State, s.takeWriteFail e n = (z.setDrive e.drive (z.drive e.drive).owing).endTurn e.drive ∧
      WriteFailed s z e.drive d n f.seq ∧ (z.drive e.drive).queue = f :: rest := by
  have hz := writeFail_failed hd n f.seq
  have heq := takeWriteFail_eq hd hq n
  generalize (s.writeFailRaised e.drive d n f.seq).setCondition e.drive .fault = z at hz heq
  obtain ⟨hqueue, -, -, hgone⟩ := hz.failed.kept (.inr hs)
  rw [oweWithdrawn_owes rfl (hgone.trans hw)] at heq
  exact ⟨z, heq, hz, hqueue.trans hq⟩

/-- The end of the turn of a drive that owes its head `f` an ABANDON (R116, R133, R135). -/
theorem endTurn_owing {z : State} {a : DriveIx} (hq : (z.drive a).queue = f :: rest) {t : State}
    (ht : t = (z.setDrive a (z.drive a).owing).endTurn a) :
    (z.burn.mode = .block ∨ z.monitor.halted = true → t.burn.exchange = none) ∧
    (z.burn.mode = .frame → z.monitor.halted = false → t.burn.exchange = some {
      drive := a, purpose := .abandon, factor := z.burn.factor, phase := .sending (.abandon f.stream f.seq) }) := by
  subst ht
  refine ⟨fun hr => ?_, fun hm hh => ?_⟩
  · rw [endTurn_rests (s := z.setDrive a _) (.inr hr)]
    rfl
  · rw [endTurn_abandons (s := z.setDrive a _) (by rw [drive_setDrive_same]; rfl) hm hh
      (by rw [drive_setDrive_same]; exact hq)]
    rfl

end

/-- Settles O59: each answer of the frame exchange, for a head that stays and for one that was withdrawn. -/
theorem frameAnswersMoveTheHeadFrame : Obligations.FrameAnswersMoveTheHeadFrame := by
  refine ⟨startWrite_writeBegins, fun s u e d f rest he hu hd hq hw ho => ⟨fun c ha hp hc h0 hn => ?_,
    fun ha hp hn hc => ?_, fun t ha hp hn ht => ?_, fun n t ha hp hn ht => ⟨fun hr hf => ?_, fun h => ?_, fun hs => ?_⟩,
    fun n ha hp hn => ?_, fun c ha hp hc => ?_, fun n ha hp hn => ?_⟩,
    fun s u e d f rest he hu hd hq hw ho => ⟨fun c ha hp hc h0 hn => ?_, fun n t x ha hp hn ht hx => ?_,
      fun ha hp hn hc => ?_, fun c ha hp hc => ?_, fun n ha hp hn hb => ?_⟩⟩
  · have hnews := applyNews_readyStays (d := d.reached) (drive_setDrive_same s e.drive d.reached) hc h0
    rw [setDrive_setDrive] at hnews
    obtain ⟨hrest, hgo⟩ := takeSpaceOk_sends_record hd hq hw hnews.symm (.inl hc)
    rw [exec_spaceOk he hu ha hp hn]
    exact ⟨fun h => by rw [hrest h]; rfl, fun hm hh h => by rw [hgo hm hh h]; rfl⟩
  · have hnews := applyNews_nothing _ e.drive d.reached (drive_setDrive_same s e.drive d.reached) hc
    obtain ⟨hrest, hgo⟩ := takeSpaceOk_sends_record hd hq hw hnews.symm hc
    rw [exec_spaceOk he hu ha hp hn]
    exact ⟨fun h => by rw [hrest h]; rfl, fun hm hh h => by rw [hgo hm hh h]; rfl⟩
  · obtain ⟨hentry, hstay⟩ := applyNews_mediaFull (drive_setDrive_same s e.drive d.reached)
    have hrec : t = (s.setDrive e.drive d.reached).applyNews e.drive .mediaFull ∧
        t.drive e.drive = { d with misses := 0, condition := .full, remaining := some 0 } := by
      obtain ⟨hc, ht⟩ | ⟨hc, ht⟩ := ht
      · rw [hentry hc, setDrive_setDrive, ht, (Signals.occur _ _ _ _).drive, drive_setDrive_same]
        exact ⟨rfl, rfl⟩
      · rw [hstay hc, setDrive_setDrive, ht, drive_setDrive_same, ← hc]
        exact ⟨rfl, rfl⟩
    obtain ⟨hrest, hgo⟩ := (takeSpaceOk_stays hd hq hw hrec.1 hrec.2).2 (.inr rfl)
    rw [exec_spaceOk he hu ha hp hn]
    exact ⟨fun h => by rw [hrest h], fun hm hh h => by rw [hgo hm hh h]⟩
  · obtain ⟨hstop, hwait⟩ := (takeSpaceOk_stays hd hq hw ht rfl).1 hr hf
    rw [exec_spaceOk he hu ha hp hn, hstop]
    exact ⟨rfl, hwait⟩
  · rw [ht]
    exact applyNews_notServing (drive_setDrive_same s e.drive d.reached) h
  · obtain ⟨hrest, hgo⟩ := (takeSpaceOk_stays hd hq hw ht rfl).2 hs
    rw [exec_spaceOk he hu ha hp hn]
    exact ⟨fun h => by rw [hrest h], fun hm hh h => by rw [hgo hm hh h]⟩
  · have hgone := (applyNews_set _ e.drive _ (drive_setDrive_same s e.drive { d with
      misses := 0, spaceRefusals := d.spaceRefusals + 1, transfer := .waitingSpace, carry := [] }) n).kept.withdrawn hw
    rw [exec_spaceNo he hu ha hp hn, takeSpaceNo_eq hd, discardWithdrawn_stays hgone]
  · obtain ⟨t, ht, hburn, hrec, hstore, hother, hdir, heng⟩ := takeWriteDone_written hd hq c
    rw [exec_writeDone he hu ha hp hc, ht]
    refine ⟨t, rfl, hburn, ?_, hstore, hother, hdir, heng⟩
    rw [hrec, hw, ho]
  · obtain ⟨z, hz, hfail⟩ := takeWriteFail_stays (n := n) hd hq hw ho
    rw [exec_writeFail he hu ha hp hn, hz]
    have hremaining := hfail.failed.remaining
    rw [News.normal_remaining] at hremaining
    refine ⟨z.clearExchange, rfl, rfl, hfail.failed.condition, hfail.failed.transfer, hfail.failed.misses, ?_, ?_, hfail.dir,
      hfail.store, hremaining, fun hk => ?_, fun i b h1 h2 h3 hf => ?_, ?_, _, rfl, fun hk => ?_,
      fun i b h1 h2 h3 hn hf => ?_⟩
    · exact congrArg FaultEntry.pending hfail.fault
    · exact congrArg FaultEntry.count hfail.fault
    · obtain ⟨hqueue, hcommitted, hbinding, -⟩ := hfail.failed.kept (hk.imp id not_spansFrom_iff.2)
      exact ⟨hqueue, hcommitted, hbinding⟩
    · exact hfail.failed.spanned i b h1 h2 h3 hf ⟨ho, hw⟩
    · exact congrArg FaultEntry.firstScope hfail.fault
    · exact hfail.failed.silent (not_spansFrom_iff.2 hk)
    · exact hfail.failed.occurred i b h1 h2 h3 hn hf
  · have hnews := applyNews_readyStays (d := d.reached) (drive_setDrive_same s e.drive d.reached) hc h0
    rw [setDrive_setDrive] at hnews
    obtain ⟨hrest, hgo⟩ := takeSpaceOk_withdrawn hd hq hw hnews.symm (drive_setDrive_same _ _ _)
    rw [granted_serving (x := { d.reached with remaining := some c }) (.inl hc)] at hrest hgo
    rw [setDrive_setDrive] at hgo
    rw [exec_spaceOk he hu ha hp hn]
    exact ⟨fun h => congrArg (fun t : State => Host.Outcome.next t.kick)
      ((hrest h).trans (setDrive_setDrive s.clearExchange _ _ _)), fun hm hh => by rw [hgo hm hh]; rfl⟩
  · obtain ⟨hrest, hgo⟩ := takeSpaceOk_withdrawn hd hq hw ht hx.symm
    rw [exec_spaceOk he hu ha hp hn]
    exact ⟨fun h => by rw [hrest h]; rfl, fun hm hh => by rw [hgo hm hh]; rfl⟩
  · rw [exec_spaceNo he hu ha hp hn, takeSpaceNo_discards hd hq hw hc]
    exact ⟨_, rfl, rfl, drive_setDrive_same _ _ _, rfl, fun b hb => drive_setDrive_other _ _ (Ne.symm hb), rfl⟩
  · obtain ⟨t, ht, hburn, hrec, hstore, -⟩ := takeWriteDone_written hd hq c
    rw [exec_writeDone he hu ha hp hc, ht]
    exact ⟨t, rfl, hburn, by rw [hrec], by rw [hrec], by rw [hrec], by rw [hrec], by rw [hrec], hstore⟩
  · have hs : ¬ s.SpansFrom d := fun ⟨i, _, hi, _⟩ => hb i hi
    obtain ⟨z, hz, hfail, hqueue⟩ := takeWriteFail_withdrawn (n := n) hd hq hw hs
    rw [exec_writeFail he hu ha hp hn, hz]
    obtain ⟨hqueue', hcommitted, -, -⟩ := hfail.failed.kept (.inr hs)
    have hremaining := hfail.failed.remaining
    rw [News.normal_remaining] at hremaining
    generalize ht : (z.setDrive e.drive (z.drive e.drive).owing).endTurn e.drive = t
    obtain ⟨hrest, hgo⟩ := endTurn_owing hqueue ht.symm
    rw [hfail.burn] at hrest hgo
    have hkept := ht.symm.trans (endTurn_burn _ _)
    have hrec : t.drive e.drive = (z.drive e.drive).owing := by
      rw [hkept]
      exact drive_setDrive_same _ _ _
    have hmon : t.monitor = z.monitor := by rw [hkept]; rfl
    have hret : t.ret = z.ret := by rw [hkept]; rfl
    obtain ⟨hsm, hso⟩ := hfail.failed.silent hs
    have hfault : t.fault .driveWriteFail = z.fault .driveWriteFail :=
      congrArg (fun m : Monitor => m.faults[FaultKind.driveWriteFail.ix]) hmon
    refine ⟨t, rfl, by rw [hrec]; exact hfail.failed.condition, by rw [hrec]; exact hqueue', by rw [hrec]; exact hcommitted,
      by rw [hrec]; exact hremaining, by rw [hrec]; rfl, by rw [hrec]; rfl,
      congrArg FaultEntry.pending (hfault.trans hfail.fault), ⟨hmon.trans hsm, by rw [hret]; exact hso⟩, ?_,
      fun h => hrest (h.imp_right hfail.halted), fun hm hh => by rw [hgo hm (hmon ▸ hh)]; simp⟩
    cases hm : s.burn.mode with
    | block => exact .inl (hrest (.inl hm))
    | frame =>
      cases hh : z.monitor.halted with
      | true => exact .inl (hrest (.inr hh))
      | false => exact .inr ⟨rfl, hgo hm hh⟩

end Sys2Proof.BurnLink

/-! PROOFS. The committed capacities and the reset state (R23, R137, R138, R155, R162). -/

namespace Sys2Proof.Drives

open Machine Machine.State

/-- Settles O6: a step idles, or runs a command, and every command keeps the sums. -/
theorem stepKeepsCommittedSums : Obligations.StepKeepsCommittedSums := by
  intro s t hs h
  obtain ⟨-, rfl⟩ | ⟨c, rest, -, -, ha⟩ := step_cases h
  · exact hs
  · exact ha.committed hs

/-- Settles O8: at reset the queues are empty, the tables canonical, and no drive holds a frame. -/
theorem resetHasTheInvariants : Obligations.ResetHasTheInvariants :=
  ⟨⟨Nat.zero_le _, Nat.zero_le _, Nat.zero_le _⟩, reset_storeCanonical, committedSums_of_reset rfl⟩

end Sys2Proof.Drives

/-! PROOFS. News (R139 to R141) and the loss of service (R146, R147): the record each kind of news makes, and the frames a span
moves, whether or not the head is owed an ABANDON. -/

namespace Sys2Proof.Machine

/-- The condition after MEDIA_FULL (R139). -/
theorem News.condition_mediaFull {c : Condition} (hh : c ≠ .held) (hf : c ≠ .fault) (held : Option Word32) :
    News.mediaFull.condition c held = .full := by
  cases c with
  | held => contradiction
  | fault => contradiction
  | absent | noMedia | ready | full => rfl

/-- The condition after MEDIA_GONE (R139). -/
theorem News.condition_mediaGone {c : Condition} (hh : c ≠ .held) (hf : c ≠ .fault) (held : Option Word32) :
    News.mediaGone.condition c held = .noMedia := by
  cases c with
  | held => contradiction
  | fault => contradiction
  | absent | noMedia | ready | full => rfl

/-- The condition after MEDIA_READY with a capacity above 0 (R139). -/
theorem News.condition_mediaReady {x : Word32} (hx : x ≠ 0) {c : Condition} (hh : c ≠ .held) (hf : c ≠ .fault)
    (held : Option Word32) : (News.mediaReady x).normal.condition c held =
      if c = .full ∧ x ≤ held.getD 0 then .full else .ready := by
  have h := newsOfCapacity_condition x c held
  rw [newsOfCapacity, if_neg hx, if_neg (not_or.2 ⟨hh, hf⟩)] at h
  rw [h]
  simp only [hx, false_or]

namespace State

variable {s : State} {a b : DriveIx} {d : DriveRec} {i : StreamIx} {n : News}

/-! ### The record after news (R120, R139, R140) -/

/-- MEDIA_READY with capacity 0 is applied as MEDIA_FULL (R139). -/
theorem applyNews_full_or_zero (hn : n = .mediaFull ∨ n = .mediaReady 0) (s : State) (a : DriveIx) :
    s.applyNews a n = s.applyNews a .mediaFull := by
  obtain rfl | rfl := hn <;> rfl

/-- A FULL drive whose capacity has risen, and a NO_MEDIA drive that gets media, is READY, and its head is asked for space
again (R120, R139; log 33). -/
theorem applyNews_renews (h : s.drive a = d) {c : Word32}
    (hc : (d.condition = .full ∧ d.remaining.getD 0 < c) ∨ (d.condition = .noMedia ∧ c ≠ 0)) :
    s.applyNews a (.mediaReady c) = s.setDrive a { d with
      condition := .ready, remaining := some c, transfer := .waitingSpace, carry := [] } := by
  have hk : (News.mediaReady c).normal.condition d.condition d.remaining = .ready := by
    obtain ⟨hf, hlt⟩ | ⟨hg, h0⟩ := hc
    · have h0 : c ≠ 0 := by
        rintro rfl
        exact BitVec.not_lt_zero hlt
      rw [News.condition_mediaReady h0 (by simp [hf]) (by simp [hf]), if_neg fun e => BitVec.not_le.2 hlt e.2]
    · rw [News.condition_mediaReady h0 (by simp [hg]) (by simp [hg]), if_neg (by simp [hg])]
  have hr : renewsAsk d.condition .ready = true := by
    obtain ⟨hf, -⟩ | ⟨hg, -⟩ := hc
    · rw [hf]
      rfl
    · rw [hg]
      rfl
  rw [applyNews_record h (by simp [hk]) (by simp [hk, Condition.outOfService]), DriveRec.withNews, hk,
    DriveRec.measured, News.normal_remaining, DriveRec.entering, if_pos hr, if_pos hr]

/-- A FULL drive whose capacity has not risen stays FULL (R139). -/
theorem applyNews_fullStays (h : s.drive a = d) (hf : d.condition = .full) {c : Word32} (h0 : c ≠ 0)
    (hc : c ≤ d.remaining.getD 0) : s.applyNews a (.mediaReady c) = s.setDrive a { d with remaining := some c } := by
  have hk : (News.mediaReady c).normal.condition d.condition d.remaining = .full := by
    rw [News.condition_mediaReady h0 (by simp [hf]) (by simp [hf]), if_pos ⟨hf, hc⟩]
  rw [applyNews_record h (fun _ => hf) (by simp [hk, Condition.outOfService]), DriveRec.withNews, hk,
    DriveRec.measured, News.normal_remaining, DriveRec.entering, hf]
  rfl

/-- MEDIA_FULL makes an ABSENT, NO_MEDIA or READY drive FULL, and MEDIA_NEEDED occurs (R139, R140). -/
theorem applyNews_fills (h : s.drive a = d)
    (hc : d.condition = .absent ∨ d.condition = .noMedia ∨ d.condition = .ready) : s.applyNews a .mediaFull =
      (s.setDrive a { d with condition := .full, remaining := some 0 }).occur .mediaNeeded (driveAddress a) 0 := by
  have hne : d.condition ≠ .held ∧ d.condition ≠ .fault ∧ d.condition ≠ .full := by
    obtain hc | hc | hc := hc <;> simp [hc]
  have hk : News.mediaFull.normal.condition d.condition d.remaining = .full :=
    News.condition_mediaFull hne.1 hne.2.1 _
  have hr : ¬ renewsAsk d.condition .full = true := by simp [renewsAsk, Condition.stopsTransfer]
  rw [applyNews_entersFull h hk hne.2.2, DriveRec.withNews, hk, DriveRec.entering, DriveRec.measured, if_neg hr,
    if_neg hr]
  rfl

/-- MEDIA_GONE takes a drive that is ABSENT, READY or FULL out of service (R141; log 35). -/
theorem applyNews_gone (h : s.drive a = d)
    (hc : d.condition = .absent ∨ d.condition = .ready ∨ d.condition = .full) : s.applyNews a .mediaGone =
      (s.setDrive a { d with
        condition := .noMedia, remaining := none, transfer := .waitingSpace, carry := [] }).leaveService a := by
  have hne : d.condition ≠ .held ∧ d.condition ≠ .fault ∧ d.condition ≠ .noMedia := by
    obtain hc | hc | hc := hc <;> simp [hc]
  have hk : News.mediaGone.normal.condition d.condition d.remaining = .noMedia :=
    News.condition_mediaGone hne.1 hne.2.1 _
  rw [applyNews_leaves h (by rw [hk]; rfl) (by rw [hk]; exact hne.2.2), DriveRec.withNews, hk]
  rfl

/-! ### The frames that move (R146) -/

/-- Moves leave the engine as it is. -/
theorem moveFrames_engine (m : Nat) (a b : DriveIx) : ∀ s : State, (moveFrames m a b s).engine = s.engine := by
  induction m with
  | zero => exact fun _ => rfl
  | succ m ih =>
    intro s
    unfold moveFrames
    split
    · rfl
    · split
      · exact ih _
      · rfl

/-- A head that is owed an ABANDON, or will be, is not moved (R146). -/
theorem moveFrames_engaged (h : (s.drive a).abandonOwed = true ∨ (s.drive a).withdrawn = true) (m : Nat) (b : DriveIx) :
    moveFrames m a b s = s := by
  cases m with
  | zero => rfl
  | succ m =>
    have hno (f : FrameRec) : ¬ s.mayMove a b f = true := by
      obtain h | h := h <;> simp [mayMove, h]
    rw [moveFrames]
    split
    · rfl
    · exact if_neg (hno _)

/-- A queue that is empty or has its head in WAITING_SPACE stays so while frames join it (R120). -/
theorem moveFrames_headWaits (hab : a ≠ b) (m : Nat) : ∀ s : State,
    (s.drive b).queue = [] ∨ (s.drive b).transfer = .waitingSpace →
      ((moveFrames m a b s).drive b).queue = [] ∨ ((moveFrames m a b s).drive b).transfer = .waitingSpace := by
  induction m with
  | zero => exact fun _ h => h
  | succ m ih =>
    intro s h
    unfold moveFrames
    split
    · exact h
    · split
      · refine ih _ (.inr ?_)
        rw [appendFrame, drive_modDrive_same, dropHead, drive_modDrive_other _ _ hab]
        obtain hq | ht := h
        · simp [hq]
        · simp [ht]
      · exact h

/-! ### The span of a drive that leaves service (R146) -/

/-- The roles exchanged, and SPAN made to occur (R146 step 1). -/
def rolesExchanged (s : State) (i : StreamIx) (a b : DriveIx) : State :=
  (s.swapRoles i a b).occur .span (streamId i) (BitVec.ofNat 32 (driveAddress b))

theorem rolesExchanged_signals (s : State) (i : StreamIx) (a b : DriveIx) :
    Signals (s.swapRoles i a b) (s.rolesExchanged i a b) := Signals.occur _ _ _ _

theorem drive_rolesExchanged (s : State) (i : StreamIx) (hne : b ≠ a) :
    (s.rolesExchanged i a b).drive a = { s.drive a with binding := .standby i } ∧
    (s.rolesExchanged i a b).drive b = { s.drive b with binding := .active i } ∧
    ∀ x, x ≠ a → x ≠ b → (s.rolesExchanged i a b).drive x = s.drive x := by
  have hsame (x : DriveIx) := (rolesExchanged_signals s i a b).drive x
  simp only [swapRoles_eq s i a b hne] at hsame
  refine ⟨?_, ?_, fun x hxa hxb => ?_⟩
  · rw [hsame, drive_setDrive_same]
  · rw [hsame, drive_setDrive_other _ _ (Ne.symm hne), drive_setDrive_same]
  · rw [hsame, drive_setDrive_other _ _ (Ne.symm hxa), drive_setDrive_other _ _ (Ne.symm hxb)]

/-- The tests of R146 step 2 on frame `f` behind the first `m` of drive record `d`: room in drive `b`, and no ABANDON owed for
the head. -/
def MayLeave (s : State) (b : DriveIx) (d : DriveRec) (m : Nat) (f : FrameRec) : Prop :=
  s.MayJoin b d.queue m f ∧ (m = 0 → d.abandonOwed = false ∧ d.withdrawn = false)

/-- The first `k` frames of drive `a`, its record being `d`, have moved to drive `b`: as many in a row as fit (R146). -/
structure PrefixMoved (s t : State) (i : StreamIx) (a b : DriveIx) (d : DriveRec) (k : Nat) : Prop where
  standby : (t.drive a).binding = .standby i
  active : (t.drive b).binding = .active i
  bound : k ≤ d.queue.length
  left : (t.drive a).queue = d.queue.drop k
  joined : (t.drive b).queue = (s.drive b).queue ++ d.queue.take k
  given : (t.drive a).committed = d.committed - ((d.queue.take k).map (·.need)).sum
  taken : (t.drive b).committed = (s.drive b).committed + ((d.queue.take k).map (·.need)).sum
  fits : ∀ m f, m < k → d.queue[m]? = some f → s.MayLeave b d m f
  stops : ∀ f, d.queue[k]? = some f → ¬ s.MayLeave b d k f
  others : ∀ x, x ≠ a → x ≠ b → t.drive x = s.drive x

theorem leaveService_moves (h1 : (s.drive a).binding = .active i) (h2 : s.standbyOf i = some b)
    (h3 : (s.drive b).condition = .ready) :
    s.leaveService a = moveFrames Config.burnQueueDepth a b (s.rolesExchanged i a b) := by
  simp only [leaveService, h1, h2, h3, if_true, rolesExchanged]

/-- A drive with a READY STANDBY exchanges roles with it, and the frames at the front of its queue move while they fit (R146). -/
theorem leaveService_movesPrefix (h : s.drive a = d) (h1 : d.binding = .active i) (h2 : s.standbyOf i = some b)
    (h3 : (s.drive b).condition = .ready) : ∃ k, PrefixMoved s (s.leaveService a) i a b d k := by
  subst h
  by_cases hfree : (s.drive a).queue = [] ∨ ((s.drive a).abandonOwed = false ∧ (s.drive a).withdrawn = false)
  · obtain ⟨⟨hstandby, hactive, k, hk, hleft, hjoined, hgiven, htaken, hfits, hstops⟩, hothers⟩ :=
      leaveService_spanned s a b i h1 h2 h3 hfree
    refine ⟨k, hstandby, hactive, hk, hleft, hjoined, hgiven, htaken, fun m f hm hf => ⟨hfits m f hm hf, fun _ => ?_⟩,
      fun f hf hmay => hstops f hf hmay.1, hothers⟩
    exact hfree.resolve_left fun hq => by simp [hq] at hf
  · obtain ⟨hq, hflags⟩ := not_or.1 hfree
    obtain ⟨hda, hdb, hothers⟩ := drive_rolesExchanged s i (standby_other rfl h1 h2)
    have hengaged : ((s.rolesExchanged i a b).drive a).abandonOwed = true ∨
        ((s.rolesExchanged i a b).drive a).withdrawn = true := by
      rw [hda]
      cases howed : (s.drive a).abandonOwed with
      | true => exact .inl rfl
      | false => exact .inr (by simpa [howed] using hflags)
    rw [leaveService_moves h1 h2 h3, moveFrames_engaged hengaged]
    exact ⟨0, by rw [hda], by rw [hdb], Nat.zero_le _, by rw [hda]; rfl, by rw [hdb]; simp, by rw [hda]; simp,
      by rw [hdb]; simp, fun m f hm => absurd hm (Nat.not_lt_zero m), fun f _ hmay => hflags (hmay.2 rfl), hothers⟩

/-- A queue that was empty has its new head in WAITING_SPACE after a span (R120, R146). -/
theorem leaveService_headWaits (h1 : (s.drive a).binding = .active i) (h2 : s.standbyOf i = some b)
    (h3 : (s.drive b).condition = .ready) (hq : (s.drive b).queue = [])
    (hn : ((s.leaveService a).drive b).queue ≠ []) : ((s.leaveService a).drive b).transfer = .waitingSpace := by
  have hne := standby_other rfl h1 h2
  rw [leaveService_moves h1 h2 h3] at hn ⊢
  refine (moveFrames_headWaits hne.symm _ _ (.inl ?_)).resolve_left hn
  rw [(drive_rolesExchanged s i hne).2.1, hq]

/-- A span leaves the engine as it is. -/
theorem leaveService_engine (h1 : (s.drive a).binding = .active i) (h2 : s.standbyOf i = some b)
    (h3 : (s.drive b).condition = .ready) : (s.leaveService a).engine = s.engine := by
  rw [leaveService_moves h1 h2 h3, moveFrames_engine]
  exact (rolesExchanged_signals s i a b).engine

/-- A span makes SPAN occur, from the watches, the faults and the outbox of before (R146). -/
theorem leaveService_occurred (h1 : (s.drive a).binding = .active i) (h2 : s.standbyOf i = some b)
    (h3 : (s.drive b).condition = .ready) :
    s.Occurred (s.leaveService a) .span (streamId i) (BitVec.ofNat 32 (driveAddress b)) := by
  have hmoves := (moveFrames_moved Config.burnQueueDepth a b (standby_other rfl h1 h2).symm
    (s.rolesExchanged i a b)).1
  rw [leaveService_moves h1 h2 h3]
  exact ⟨s.swapRoles i a b, rfl, rfl, hmoves.monitor, congrArg ReturnPath.outbox hmoves.ret⟩

/-- A span keeps the condition of the drive that leaves. -/
theorem leaveService_condition (h1 : (s.drive a).binding = .active i) (h2 : s.standbyOf i = some b)
    (h3 : (s.drive b).condition = .ready) : ((s.leaveService a).drive a).condition = (s.drive a).condition := by
  have hne := standby_other rfl h1 h2
  rw [leaveService_moves h1 h2 h3, (moveFrames_moved _ a b hne.symm _).2.eq, (drive_rolesExchanged s i hne).1]

end State

end Sys2Proof.Machine

namespace Sys2Proof.Drives

open Machine Machine.State

/-- Settles O57: the record by the kind of news, the frames that move by `leaveService_movesPrefix`. -/
theorem newsSetsTheCondition : Obligations.NewsSetsTheCondition := by
  intro s a d h
  have hset := applyNews_set s a d h
  refine ⟨fun n hk => ?_, ⟨?_, ?_⟩, ?_, fun n hn => ?_, fun c => ?_, fun hh hf => ⟨?_, fun n hn => ?_, fun c hc => ?_⟩,
    fun n => ?_, fun c hc => applyNews_renews h hc, fun n hn => ⟨fun hc => ?_, fun hc => ?_⟩,
    fun c hf h0 hc => applyNews_fullStays h hf h0 hc, fun hc => applyNews_gone h hc, fun hb => ?_, fun i h1 h2 => ?_,
    fun i b fits h1 h2 h3 hfits => ?_⟩
  · rw [(hset n).condition, News.condition_kept _ hk]
  · rw [(hset .nothing).condition]
    cases d.condition <;> rfl
  · exact (hset .nothing).remaining
  · exact (hset .mediaGone).remaining
  · rw [applyNews_full_or_zero hn]
    exact (hset .mediaFull).remaining
  · exact (hset (.mediaReady c)).remaining.trans (News.normal_remaining _ _)
  · exact (hset .mediaGone).condition.trans (News.condition_mediaGone hh hf _)
  · rw [applyNews_full_or_zero hn]
    exact (hset .mediaFull).condition.trans (News.condition_mediaFull hh hf _)
  · exact (hset (.mediaReady c)).condition.trans (News.condition_mediaReady hc hh hf _)
  · rw [(hset n).kept.eq]
    exact ⟨rfl, rfl, rfl⟩
  · rw [applyNews_full_or_zero hn]
    exact applyNews_fills h hc
  · rw [applyNews_full_or_zero hn]
    exact (BurnLink.applyNews_mediaFull h).2 hc
  · exact leaveService_unspanned h fun ⟨i, _, hi, _⟩ => hb i hi
  · refine leaveService_unspanned h (not_spansFrom_iff.2 fun j b hj hs => h2 b ?_)
    rw [h1, Binding.active.injEq] at hj
    rw [hj, hs]
  · obtain ⟨k, hmoved⟩ := leaveService_movesPrefix h h1 h2 h3
    have hlink := Relinked.leaveService s a
    have hmay (m : Nat) (f : FrameRec) : fits m f ↔ s.MayLeave b d m f :=
      (hfits m f).trans (by simp only [MayLeave, MayJoin, and_assoc])
    subst h
    refine ⟨s.leaveService a, k, rfl, hmoved.standby, hmoved.active, leaveService_condition h1 h2 h3,
      leaveService_occurred h1 h2 h3, hmoved.bound, hmoved.left, hmoved.joined, hmoved.given, hmoved.taken,
      fun m f hm hf => (hmay m f).2 (hmoved.fits m f hm hf), fun f hf hfit => hmoved.stops f hf ((hmay k f).1 hfit),
      fun hq hk => leaveService_headWaits h1 h2 h3 hq ?_, hmoved.others, hlink.store, hlink.dir,
      leaveService_engine h1 h2 h3, hlink.burn⟩
    rw [hmoved.joined, hq, List.nil_append, ← List.length_pos_iff, List.length_take]
    exact lt_min hk (hk.trans_le hmoved.bound)

end Sys2Proof.Drives

/-! PROOFS. The Control Interpreter and the arbiter: how a unit on stream 0 is read and judged (R154 to R157), what may end a
halt (R158), how the interpreter comes to rest (R155), and what the arbiter takes (R163, R164). -/

namespace Sys2Proof.Machine

/-! ### Reading a unit on stream 0 (R154, R156, R157) -/

theorem readLe16_le16Bytes (w : Word16) (rest : List Byte) : readLe16 (le16Bytes w ++ rest) = w := by
  show w.extractLsb' 8 8 ++ w.extractLsb' 0 8 = w
  exact (BitVec.extractLsb'_append_extractLsb'_eq_extractLsb' rfl).trans BitVec.extractLsb'_eq_self

/-- The fields of a CONTROL unit that is built from them. -/
theorem readControl_built (tag : Word16) (code zero : Byte) (params : List Byte) :
    readControl kindControl (le16Bytes tag ++ code :: zero :: params) =
      { tag := tag, form := readCommand code params } := by
  have hlen : ¬ (le16Bytes tag ++ code :: zero :: params).length < 4 := by simp [le16Bytes]
  rw [readControl, if_neg (not_not_intro rfl), if_neg hlen, readLe16_le16Bytes]
  rfl

/-- A CONTROL unit too short for its header (R157 reason code 1). -/
theorem readControl_short_form {body : List Byte} (h : body.length < 4) :
    (readControl kindControl body).form = .malformed 1 := by
  rw [readControl, if_neg (not_not_intro rfl), if_pos h]

/-- A unit of another kind (R157 reason code 2). -/
theorem readControl_otherKind_form {kind : Byte} (h : kind ≠ kindControl) (body : List Byte) :
    (readControl kind body).form = .malformed 2 := by
  rw [readControl, if_pos h]

/-- The codes 1 to 28 alone name commands (R156). -/
theorem readCommand_unknown {code : Byte} (h : code.toNat = 0 ∨ 28 < code.toNat) (params : List Byte) :
    readCommand code params = .unknown := by
  unfold readCommand
  split
  iterate 28 omega
  rfl

/-- A command arrives as itself, or is malformed by the length of a list (R157 reason code 3). -/
theorem commandForm_cases (c : Command) : commandForm c = .command c ∨ commandForm c = .malformed 3 := by
  cases c with
  | loadPlan | passToDrive | clearFaults | setFaultActions => exact ite_eq_or_eq _ _ _
  | _ => exact .inl rfl

/-- No command but RESET_PART arrives as one. -/
theorem commandForm_ne_resetPart {c : Command} (h : c ≠ .resetPart) : commandForm c ≠ .command .resetPart := by
  obtain hc | hc := commandForm_cases c <;> rw [hc]
  · simpa using h
  · simp

namespace State

/-! ### Arrival on stream 0 (R155) -/

/-- An accepted unit on stream 0 joins the control queue as it was read. -/
theorem receive_control {kind : Byte} {u : IngestUnit} (ha : ingestAccepted kind u = true) (h0 : u.stream = 0)
    (s : State) : s.receive kind u = arriveControl (readControl kind u.body) s := by
  rw [receive, if_pos ha, route, if_pos h0]

theorem exec_control {u : IngestUnit} (ha : ingestAccepted kindControl u = true) (h0 : u.stream = 0) (s : State) :
    exec (.control u) s = .next (arriveControl (readControl kindControl u.body) s) :=
  congrArg Host.Outcome.next (receive_control ha h0 s)

/-- The CONTROL unit the server builds joins the control queue with the form its code and parameters give. -/
theorem exec_control_built (tag : Word16) (code zero : Byte) {params : List Byte} (h : params.length ≤ 16388)
    (s : State) : exec (.control (buildIngest kindControl 0 (le16Bytes tag ++ code :: zero :: params))) s =
      .next (arriveControl { tag := tag, form := readCommand code params } s) := by
  have hlen : (le16Bytes tag ++ code :: zero :: params).length < 65536 := by
    simp only [le16Bytes, List.length_append, List.length_cons, List.length_nil]
    omega
  rw [exec_control (ingestAccepted_buildIngest _ _ hlen) rfl, buildIngest, readControl_built]

/-- A unit of another kind on stream 0 joins the control queue too, to be judged there (log 34). -/
theorem exec_unknownUnitKind_control {bytes : List Byte} {kind : Byte} {u : IngestUnit}
    (hf : frameIngest bytes = some (kind, u)) (ha : ingestAccepted kind u = true) (h0 : u.stream = 0) (s : State) :
    exec (.unknownUnitKind bytes) s = .next (arriveControl (readControl kind u.body) s) := by
  show Host.Outcome.next (s.receiveBytes bytes) = _
  rw [receiveBytes, hf]
  exact congrArg Host.Outcome.next (receive_control ha h0 s)

/-! ### The common checks (R156, R157) -/

theorem malformedDetail_one (tag : Word16) : malformedDetail 1 tag = 0x00010000#32 := by
  rw [malformedDetail, if_pos rfl]
  rfl

/-- The detail of a reason code that carries its tag (R157). -/
theorem malformedDetail_tagged {code : Nat} (h : code ≠ 1) (tag : Word16) :
    malformedDetail code tag = BitVec.ofNat 16 code ++ tag := by
  rw [malformedDetail, if_neg h]

theorem judgeUnit_malformed {u : ControlUnit} {code : Nat} (h : u.form = .malformed code) (s : State) :
    judgeUnit u s = s.malformed code u.tag := by
  rw [judgeUnit, h]

theorem judgeUnit_unknown {u : ControlUnit} (h : u.form = .unknown) (s : State) :
    judgeUnit u s = s.refuse u.tag (if s.store.sweeping then .starting else .unknownCommand) := by
  simp only [judgeUnit, h]
  cases s.store.sweeping <;> rfl

/-- After the sweep a command that HALTED does not refuse goes to its owning rule. -/
theorem judgeUnit_command {u : ControlUnit} {c : Command} {s : State} (h : u.form = .command c)
    (hs : s.store.sweeping = false) (hh : s.monitor.halted = false ∨ takenInHalted c = true) :
    judgeUnit u s = owner u.tag c s := by
  have hfilter : (s.monitor.halted && !takenInHalted c) = false := by
    obtain hh | hh := hh <;> simp [hh]
  simp [judgeUnit, h, hs, hfilter]

/-- A malformed unit that arrives at a free interpreter is discarded and raised at once (R155, R157). -/
theorem arriveControl_malformed {u : ControlUnit} {code : Nat} {s : State} (ht : s.TakesUnits)
    (h : u.form = .malformed code) :
    arriveControl u s = (s.raise .controlMalformed 0 (malformedDetail code u.tag)).kick := by
  rw [arriveControl_taken u s ht, judgeUnit_malformed h]
  rfl

/-- A full control queue discards a unit as malformed with reason code 4. -/
theorem enqueueUnit_full {u : ControlUnit} {s : State} (h : s.controlQueue.length = 8) :
    enqueueUnit u s = s.malformed 4 u.tag :=
  if_neg (by rw [h]; decide)

theorem enqueueUnit_room {u : ControlUnit} {s : State} (h : s.controlQueue.length < 8) :
    enqueueUnit u s = { s with controlQueue := s.controlQueue ++ [u] } := if_pos h

/-! ### The interpreter at rest (R155) -/

/-- The interpreter stands still when none waits or no immediate reply has a place. -/
theorem canTake_eq_false (s : State) : s.canTake = false ↔ s.controlQueue = [] ∨ 32 ≤ s.ret.immediates := by
  simp [canTake, Config.immediateReplies, or_iff_not_imp_left]

theorem drainFor_rests {s : State} (h : s.canTake = false) (n : Nat) : drainFor n s = s := by
  cases n with
  | zero => rfl
  | succ n => rw [drainFor, h, if_neg Bool.false_ne_true]

/-- A unit taken leaves the queue, and the queue's rest stays (R155). -/
theorem takeUnit_controlQueue (s : State) : s.takeUnit.controlQueue = s.controlQueue.tail := by
  unfold takeUnit
  split
  next h => rw [h]; rfl
  next u rest h => rw [h, (Answered.judgeUnit u _).control]; rfl

/-- With a turn for each unit that waits, the interpreter takes units until it cannot. -/
theorem canTake_drainFor (n : Nat) (s : State) (h : s.controlQueue.length ≤ n) : (drainFor n s).canTake = false := by
  induction n generalizing s with
  | zero => exact (canTake_eq_false s).2 (.inl (List.length_eq_zero_iff.1 (Nat.le_zero.1 h)))
  | succ n ih =>
    cases hc : s.canTake with
    | false => rw [drainFor_rests hc, hc]
    | true =>
      rw [drainFor, hc, if_pos rfl]
      apply ih
      rw [(Sound.kick_spec _).2.1, takeUnit_controlQueue, List.length_tail]
      omega

/-- A part at rest whose interpreter cannot take the unit that has joined the queue does nothing (R155). -/
theorem settle_waits {s : State} (hr : s.Rested) (hc : s.canTake = false) : s.settle = s := by
  rw [settle, hr, drainFor_rests hc]

/-! ### The return path (R163, R164) -/

theorem kick_takes {s : State} {u : ReturnUnit} {r : ReturnPath} (hl : s.linkUp = true) (hn : s.ret.sending = none)
    (hx : s.ret.next = some (u, r)) : s.kick = { s with ret := { r with sending := some u } } := by
  rw [kick, hl, hn, hx]

theorem kick_rests {s : State} (h : s.linkUp = false ∨ s.ret.sending ≠ none ∨ s.ret.next = none) : s.kick = s := by
  unfold kick
  split
  next hl hn hx =>
    obtain h | h | h := h
    · exact absurd (hl.symm.trans h) (by decide)
    · exact absurd hn h
    · exact absurd (hx.symm.trans h) (by simp)
  next => rfl

theorem exec_returnUnitEnd {s : State} {u : ReturnUnit} (h : s.ret.sending = some u) :
    exec .returnUnitEnd s = .next s.unitSent.settle := by
  show Host.Outcome.next s.returnUnitEnded = _
  rw [returnUnitEnded, h]
  rfl

/-- The end of a unit that is no ask, or an ask no context waits on, only leaves nothing being sent. -/
theorem unitSent_plain {s : State} {u : ReturnUnit} (h : s.ret.sending = some u) (ha : ∀ a, u ≠ .ask a true) :
    s.unitSent = { s with ret := { s.ret with sending := none } } := by
  rw [unitSent, h]
  match u with
  | .flow _ | .reply _ | .notice _ | .ask _ false => rfl
  | .ask a true => exact absurd rfl (ha a)

/-- A transmitted ask starts the refetch timer of its context (R79, R164). -/
theorem askTransmitted_refetch {s : State} {a : Ask} {b : Busy} {n left wait : Nat} {sent timer : Bool}
    (hb : s.context a.context = some b) (hop : b.op = .refetch n left wait sent timer) :
    s.askTransmitted a = s.setContext a.context (some { b with op := .refetch n left wait true true }) := by
  simp only [askTransmitted, hb, hop]

/-- The end of an ask tells the context that waits on it (R164). -/
theorem unitSent_refetch {s : State} {a : Ask} {b : Busy} {n left wait : Nat} {sent timer : Bool}
    (h : s.ret.sending = some (.ask a true)) (hb : s.context a.context = some b)
    (hop : b.op = .refetch n left wait sent timer) :
    s.unitSent = ({ s with ret := { s.ret with sending := none } } : State).setContext a.context
      (some { b with op := .refetch n left wait true true }) := by
  rw [unitSent, h]
  exact askTransmitted_refetch hb hop

end State

/-! ### What may end a halt (R158, R174) -/

namespace StaysHalted

variable {s : State}

/-- The row of a command other than RESET_PART leaves a HALTED part HALTED. -/
theorem command (h : s.StaysHalted) (tag : Word16) {c : Command} (hc : c ≠ .resetPart) :
    (s.command tag c).StaysHalted :=
  arriveControl (commandForm_ne_resetPart hc) h

theorem receiveBytes (h : s.StaysHalted) (bytes : List Byte) (hb : ¬ bringsReset (.unknownUnitKind bytes)) :
    (s.receiveBytes bytes).StaysHalted := by
  unfold State.receiveBytes
  split
  next kind u hf => exact receive h kind u fun e => hb ⟨kind, u, hf, e⟩
  next => exact h

/-- A frame unit leaves a HALTED part HALTED, on whatever stream it comes. -/
theorem frameUnit (h : s.StaysHalted) {kind : Byte} (hk : kind ≠ kindControl) (u : IngestUnit) :
    (s.receive kind u).StaysHalted :=
  receive h kind u (frameKind_brings_none kind hk _)

end StaysHalted

/-- Every command but POWER_ON and one that brings a RESET_PART leaves a HALTED part HALTED. -/
theorem exec_staysHalted (c : Instr) {s : State} (h : s.StaysHalted) (hp : c ≠ .powerOn) (hr : ¬ bringsReset c) :
    ∃ t, exec c s = .next t ∧ t.StaysHalted := by
  cases c with
  | powerOn => contradiction
  | resetPart => exact absurd trivial hr
  | control u => exact ⟨_, rfl, StaysHalted.receive h _ u hr⟩
  | unknownCommand tag code params =>
    exact ⟨_, rfl, StaysHalted.arriveControl (u := { tag, form := readCommand code params }) hr h⟩
  | unknownUnitKind bytes => exact ⟨_, rfl, StaysHalted.receiveBytes h bytes hr⟩
  | frameOpen u | stripe u | stripeResend u | frameClose u => exact ⟨_, rfl, StaysHalted.frameUnit h (by decide) u⟩
  | configureStream tag | startStream tag | stopStream tag | abortStream tag | streamStatus tag | setStore tag
  | storeStatus tag | purgeDirectory tag | readDirectory tag | loadPlan tag | readPlan tag | engineStatus tag
  | setSlotPattern tag | setLink tag | survey tag | driveStatus tag | holdDrive tag | releaseDrive tag
  | passToDrive tag | bookWatch tag | cancelWatch tag | rearmWatch tag | releaseWatch tag | readFaults tag
  | clearFaults tag | setFaultActions tag | identify tag => exact ⟨_, rfl, StaysHalted.command h tag (by simp)⟩
  | sweepCompletion => exact ⟨_, rfl, (Sound.sweepDone s).halted h⟩
  | linkDown => exact ⟨_, rfl, (Sound.linkLost s).halted h⟩
  | linkUp => exact ⟨_, rfl, (Sound.linkReturned s).halted h⟩
  | cadenceExpiry i => exact ⟨_, rfl, (Sound.cadenceEvent s i).halted h⟩
  | composeCompletion c flips => exact ⟨_, rfl, (Sound.composeCompleted s c flips).halted h⟩
  | verifyCompletion c flips => exact ⟨_, rfl, (Sound.verifyCompleted s c flips).halted h⟩
  | refetchTimerExpiry c => exact ⟨_, rfl, (Sound.refetchTimerEnded s c).halted h⟩
  | returnUnitEnd => exact ⟨_, rfl, (Sound.returnUnitEnded s).halted h⟩
  | pollTimerExpiry => exact ⟨_, rfl, (Sound.pollExpired s).halted h⟩
  | turnBoundary => exact ⟨_, rfl, (Sound.turnBoundary s).halted h⟩
  | burnUnitEnd => exact ⟨_, rfl, (Sound.burnUnitSent s).halted h⟩
  | burnReadCompletion k flips => exact ⟨_, rfl, (Sound.burnReadDone s k.toNat flips).halted h⟩
  | presenceAnswer u =>
    exact ⟨_, rfl, (Sound.answerNews s _ _ u _ fun _ _ => (Keeps.refl s).takePresence _ _).halted h⟩
  | statusAnswer u => exact ⟨_, rfl, (Sound.answerNews s _ _ u _ fun _ _ => (Keeps.refl s).takeStatus _ _).halted h⟩
  | spaceOk u => exact ⟨_, rfl, (Sound.answerNews s _ _ u _ fun _ _ => (Keeps.refl s).takeSpaceOk _ _).halted h⟩
  | spaceNo u => exact ⟨_, rfl, (Sound.answerNews s _ _ u _ fun _ _ => (Keeps.refl s).takeSpaceNo _ _).halted h⟩
  | writeFail u => exact ⟨_, rfl, (Sound.answerNews s _ _ u _ fun _ _ => (Keeps.refl s).takeWriteFail _ _).halted h⟩
  | writeDone u => exact ⟨_, rfl, (Sound.answerDone s u).halted h⟩
  | driveAnswer u => exact ⟨_, rfl, (Sound.answerRelay s u).halted h⟩
  | missedAnswer => exact ⟨_, rfl, (Sound.windowMissed s).halted h⟩
  | relayWindowExpiry a => exact ⟨_, rfl, (Sound.relayExpired s a).halted h⟩

end Sys2Proof.Machine

namespace Sys2Proof.Control

open Machine Machine.State

/-- Settles O4: a step idles, or runs a command, and every command keeps the bounds. -/
theorem stepKeepsQueueBounds : Obligations.StepKeepsQueueBounds := by
  intro s t hs h
  obtain ⟨-, rfl⟩ | ⟨c, rest, -, -, ha⟩ := step_cases h
  · exact hs
  · exact ha.queues hs

/-- Settles O7: a unit brings a RESET_PART only if it is read as one, and no other event ends a halt. -/
theorem haltIsLeftOnlyByReset : Obligations.HaltIsLeftOnlyByReset := by
  intro c s t h hp hr he
  obtain ⟨u, hu, hstays⟩ := exec_staysHalted c h hp hr
  obtain rfl : u = t := by simpa using hu.symm.trans he
  exact hstays

/-- Settles O13: `unitSent` by the unit that ends. -/
theorem returnUnitEndGoesOn : Obligations.ReturnUnitEndGoesOn := by
  refine ⟨fun s u hu ha => ?_, fun s a b n left wait sent timer hu hb hop => ?_⟩
  · rw [exec_returnUnitEnd hu, unitSent_plain hu ha]
  · rw [exec_returnUnitEnd hu, unitSent_refetch hu hb hop]

/-- Settles O14: the nine turns of `settle` are enough for the eight units the queue holds. -/
theorem settleLeavesNothingTakeable : Obligations.SettleLeavesNothingTakeable := by
  intro s h
  refine (canTake_eq_false _).1 (canTake_drainFor 9 s.kick ?_)
  rw [(Sound.kick_spec s).2.1]
  omega

/-- Settles O25: the unit is read, and then judged as its row is. -/
theorem controlUnitsReachTheirOwner : Obligations.ControlUnitsReachTheirOwner := by
  refine ⟨fun tag code zero params c s ht hlen hc => ?_, fun tag c s ht hf => exec_commandRow tag c ht hf⟩
  obtain ⟨hu, hs, hh⟩ := ht
  rw [exec_control_built tag code zero hlen, arriveControl_taken _ _ hu, judgeUnit_command hc hs (.inl hh)]

/-- Settles O27: the form each unit is read as, and the full queue. -/
theorem malformedUnitsRaiseTheirReason : Obligations.MalformedUnitsRaiseTheirReason := by
  refine ⟨fun u s ht ha h0 hlen => ?_, fun bytes kind u s ht hf ha h0 hk => ⟨(readControl kind u.body).tag, ?_⟩,
    fun tag code zero params s ht hlen hc => ?_, fun tag code zero params s hfull hlen => ?_⟩
  · rw [exec_control ha h0, arriveControl_malformed ht (readControl_short_form hlen), malformedDetail_one]
  · rw [exec_unknownUnitKind_control hf ha h0, arriveControl_malformed ht (readControl_otherKind_form hk _),
      malformedDetail_tagged (code := 2) (by decide)]
  · rw [exec_control_built tag code zero hlen, arriveControl_malformed ht hc,
      malformedDetail_tagged (code := 3) (by decide)]
  · rw [exec_control_built tag code zero hlen, arriveControl, enqueueUnit_full hfull, malformed,
      malformedDetail_tagged (code := 4) (by decide)]

/-- Settles O28: a code outside 1 to 28 is read as unknown. -/
theorem unknownCommandsAreRefused : Obligations.UnknownCommandsAreRefused := by
  intro tag code params s ht hcode
  have hexec : exec (.unknownCommand tag code params) s =
      .next (s.refuse tag (if s.store.sweeping then .starting else .unknownCommand)).kick := by
    show Host.Outcome.next (arriveControl _ s) = _
    rw [arriveControl_taken _ _ ht, judgeUnit_unknown (readCommand_unknown hcode params)]
  exact ⟨fun hs => by rw [hexec, if_pos hs], fun hs => by rw [hexec, hs, if_neg Bool.false_ne_true]⟩

/-- Settles O12: the classes in their order, then the two outcomes of `kick`. -/
theorem arbiterTakesTheFirstClass : Obligations.ArbiterTakesTheFirstClass := by
  refine ⟨fun r f rest h => ?_, fun r a rest h1 h2 => ?_, fun r q rest h1 h2 h3 => ?_, fun r n rest h1 h2 h3 h4 => ?_,
    fun r h1 h2 h3 h4 => ?_, fun s u r hl hn hx => kick_takes hl hn hx, fun s h => kick_rests h⟩
  · rw [ReturnPath.next, h]
  · rw [ReturnPath.next, h1, h2]
  · rw [ReturnPath.next, h1, h2, h3]
  · rw [ReturnPath.next, h1, h2, h3, h4]
  · rw [ReturnPath.next, h1, h2, h3, h4]

/-- Settles O26: the unit joins the queue, and with every immediate reply in use the interpreter stands still. -/
theorem controlUnitWaitsForAReplyPlace : Obligations.ControlUnitWaitsForAReplyPlace := by
  intro u s ha h0 hroom hfull hr
  rw [exec_control ha h0, arriveControl, enqueueUnit_room hroom]
  exact congrArg Host.Outcome.next (settle_waits (hr.withQueue _) ((canTake_eq_false _).2 (.inr hfull)))

/-- Settles O30: IDENTIFY is among the commands that HALTED takes (R158). -/
theorem identifyReportsThePart : Obligations.IdentifyReportsThePart := by
  refine ⟨fun tag s ht => ?_, fun halted => ?_⟩
  · rw [show exec (.identify tag) s = _ from exec_commandRow_judged tag .identify ht rfl]
    refine ⟨fun hs => by rw [judgeUnit_sweeping hs], fun hs => ?_⟩
    rw [judgeUnit_command rfl hs (.inr rfl)]
    rfl
  · cases halted <;> decide

end Sys2Proof.Control

/-! PROOFS. Watches: how a booking is read (R165, R166), what an occurrence fires (R167, R168), and the release of a suspension
(R169, R170). -/

namespace Sys2Proof.Machine

/-! ### Bookings -/

theorem readCondition_eq_some {b : Byte} {c : WatchCondition} : readCondition b = some c ↔ b.toNat = c.code.toNat := by
  cases c <;> (unfold readCondition; split <;> simp_all [WatchCondition.code])

/-- DAMAGE_RATE has the first code (12 "Codes"). -/
theorem readCondition_damageRate_iff {b : Byte} {c : WatchCondition} (h : readCondition b = some c) :
    c = .damageRate ↔ b = 1 := by
  rw [BitVec.eq_of_toNat_eq (readCondition_eq_some.1 h)]
  cases c <;> decide

/-- The drive conditions have the last two codes (12 "Codes"). -/
theorem readCondition_ofDrive_iff {b : Byte} {c : WatchCondition} (h : readCondition b = some c) :
    c.ofDrive = true ↔ 7 ≤ b.toNat := by
  rw [readCondition_eq_some.1 h]
  cases c <;> decide

theorem WatchCondition.code_range (c : WatchCondition) : 1 ≤ c.code.toNat ∧ c.code.toNat ≤ 8 := by
  cases c <;> decide

theorem WatchCondition.ofDrive_eq (c : WatchCondition) : c.ofDrive = (c == .mediaNeeded || c == .driveChange) := by
  cases c <;> rfl

theorem WatchCondition.ofDrive_iff (c : WatchCondition) : c.ofDrive = true ↔ c = .mediaNeeded ∨ c = .driveChange := by
  rw [ofDrive_eq, Bool.or_eq_true, beq_iff_eq, beq_iff_eq]

theorem readCondition_isSome {b : Byte} : (∃ c, readCondition b = some c) ↔ 1 ≤ b.toNat ∧ b.toNat ≤ 8 := by
  constructor
  · rintro ⟨c, h⟩
    rw [readCondition_eq_some.1 h]
    exact c.code_range
  · rintro ⟨h1, h8⟩
    unfold readCondition
    interval_cases b.toNat <;> exact ⟨_, rfl⟩

/-- A booking is read when every field is in its range, and then holds the fields (R166 check 2). -/
theorem readBooking_eq_some {f : WatchFields} {b : Booking} : readBooking f = some b ↔
    ∃ (c : WatchCondition) (every suspend : Bool),
      (readCondition f.condition = some c ∧ readFlag f.mode = some every ∧ readFlag f.action = some suspend) ∧
      (f.scope.toNat ≤ if c.ofDrive then 8 else 12) ∧
      (c = .damageRate → f.present = 1 ∧ 1 ≤ f.threshold.toNat ∧ f.threshold.toNat ≤ 72) ∧
      (c.ofDrive = true → suspend = false) ∧
      b = { fired := false, condition := c, scope := f.scope.toNat,
            threshold := if c = .damageRate then some f.threshold.toNat else none, every := every, suspend := suspend,
            tag := f.tag, suspension := none } := by
  unfold readBooking
  split
  next c every suspend hc hm ha =>
    simp only [hc, hm, ha, ← c.ofDrive_eq, Option.ite_none_right_eq_some, Option.some.injEq, Bool.and_eq_true,
      decide_eq_true_iff, Bool.or_eq_true, bne_iff_ne, beq_iff_eq, Bool.not_eq_true', Bool.and_eq_false_iff]
    constructor
    · rintro ⟨⟨⟨hs, ht⟩, hd⟩, rfl⟩
      refine ⟨c, every, suspend, ⟨rfl, rfl, rfl⟩, hs, fun h => ?_, fun h => ?_, rfl⟩
      · obtain ⟨⟨hp, h1⟩, h72⟩ := ht.resolve_left (not_not.2 h)
        exact ⟨hp, h1, h72⟩
      · exact hd.resolve_right (by simp [h])
    · rintro ⟨_, _, _, ⟨rfl, rfl, rfl⟩, hs, ht, hd, rfl⟩
      refine ⟨⟨⟨hs, ?_⟩, ?_⟩, rfl⟩
      · exact or_iff_not_imp_left.2 fun h => by
          obtain ⟨hp, h1, h72⟩ := ht (not_not.1 h)
          exact ⟨⟨hp, h1⟩, h72⟩
      · exact or_iff_not_imp_right.2 fun h => hd (Bool.eq_true_of_not_eq_false h)
  next hn =>
    refine iff_of_false (by simp) ?_
    rintro ⟨c, every, suspend, ⟨hc, hm, ha⟩, -⟩
    exact hn c every suspend hc hm ha

/-! ### Matches and the stream concerned (R167) -/

theorem Booking.matchesOccurrence_iff (b : Booking) (c : WatchCondition) (scope : Nat) (detail : Word32) :
    b.matchesOccurrence c scope detail = true ↔ b.fired = false ∧ b.condition = c ∧ (b.scope = 0 ∨ b.scope = scope) ∧
      (c = .damageRate → b.threshold.getD 1 ≤ detail.toNat) := by
  unfold matchesOccurrence
  simp only [Bool.and_eq_true, Bool.not_eq_true', beq_iff_eq, Bool.or_eq_true, and_assoc]
  cases c <;> simp

namespace State

theorem occurrenceStream_drive {c : WatchCondition} (h : c.ofDrive = true) (scope : Nat) :
    occurrenceStream c scope = none := if_pos h

theorem occurrenceStream_stream {c : WatchCondition} (h : c.ofDrive = false) (i : StreamIx) :
    occurrenceStream c (streamId i) = some i := by
  have hi : 1 ≤ streamId i ∧ streamId i ≤ 12 := ⟨Nat.succ_pos _, i.isLt⟩
  rw [occurrenceStream, h, if_neg Bool.false_ne_true, dif_pos hi]
  rfl

/-! ### The flow judged leaves the rest (R19) -/

theorem ret_judgeFlow (s : State) (i : StreamIx) : (s.judgeFlow i).ret = { s.ret with
    flowSet := if s.pauseReason i = (s.stream i).paused then s.ret.flowSet
      else (s.ret.flowSet.filter fun f => f.stream != i) ++ [{ stream := i, pause := s.pauseReason i }] } := by
  rw [judgeFlow_eq]

theorem monitor_judgeFlow (s : State) (i : StreamIx) : (s.judgeFlow i).monitor = s.monitor := by
  rw [judgeFlow_eq]
  rfl

theorem watch_judgeFlow (s : State) (i : StreamIx) (w : Fin 16) : (s.judgeFlow i).watch w = s.watch w := by
  rw [watch, monitor_judgeFlow]
  rfl

theorem suspensions_judgeFlow (s : State) (i j : StreamIx) : (s.judgeFlow i).suspensions j = s.suspensions j := by
  rw [suspensions, monitor_judgeFlow]
  rfl

/-! ### Firings (R168) -/

section
variable {b : Booking} {c : WatchCondition}

/-- A firing that takes no suspension: the notice, and the change of state. -/
theorem fireWatch_plain (s : State) (w : Fin 16) (scope : Nat) (detail : Word32)
    (h : b.suspend = false ∨ b.suspension ≠ none ∨ c.ofDrive = true) : s.fireWatch w b c scope detail =
      (s.offerNotice { source := .watch w b.tag, scope := scope, detail := detail }).setWatch w
        (some { b with fired := !b.every }) := by
  unfold fireWatch
  dsimp only
  split
  next i hi =>
    refine if_neg ?_
    obtain h | h | h := h
    · simp [h]
    · simp [h]
    · simp [occurrenceStream_drive h] at hi
  next => rfl

/-- A firing that takes a suspension on the occurrence's stream. -/
theorem fireWatch_suspends (s : State) (w : Fin 16) (i : StreamIx) (detail : Word32) (h : b.suspend = true)
    (hn : b.suspension = none) (hc : c.ofDrive = false) : s.fireWatch w b c (streamId i) detail =
      ((s.offerNotice { source := .watch w b.tag, scope := streamId i, detail := detail }).setWatch w
        (some { b with fired := !b.every, suspension := some i })).judgeFlow i := by
  simp [fireWatch, occurrenceStream_stream hc, h, hn]

end

/-- A watch that holds a suspension on a stream is a pause reason of it (R165, R169). -/
theorem pauseReason_setWatch (s : State) (w : Fin 16) {b : Booking} {i : StreamIx} (h : b.suspension = some i) :
    (s.setWatch w (some b)).pauseReason i = true :=
  (pauseReason_iff _ i).2 (.inr ⟨w, b, watch_setWatch_same s w _, h⟩)

/-! ### Changes of a booked watch (R169, R170) -/

section
variable {s : State} {w : Fin 16} {b : Booking}

theorem changeWatch_unsuspended (h : b.suspension = none) (after : Booking → Option Booking) :
    s.changeWatch w b after = s.setWatch w (after { b with suspension := none }) := by
  have hb : { b with suspension := none } = b := by rw [← h]
  rw [changeWatch, h, hb]

theorem changeWatch_suspended {i : StreamIx} (h : b.suspension = some i) (after : Booking → Option Booking) :
    s.changeWatch w b after = (s.setWatch w (after { b with suspension := none })).judgeFlow i := by
  rw [changeWatch, h]

/-- Whether or not a suspension is released, the watch is written and the other watches stay. -/
theorem watch_changeWatch (after : Booking → Option Booking) (v : Fin 16) :
    (s.changeWatch w b after).watch v = (s.setWatch w (after { b with suspension := none })).watch v := by
  cases h : b.suspension with
  | none => rw [changeWatch_unsuspended h]
  | some i => rw [changeWatch_suspended h, watch_judgeFlow]

/-- A change of a watch leaves all but the watches, the flow states and the flow set. -/
theorem changeWatch_keeps (after : Booking → Option Booking) :
    Signals s (s.changeWatch w b after) ∧ (s.changeWatch w b after).ret.outbox = s.ret.outbox ∧
      (s.changeWatch w b after).monitor.faults = s.monitor.faults ∧
      (s.changeWatch w b after).monitor.halted = s.monitor.halted := by
  cases h : b.suspension with
  | none =>
    rw [changeWatch_unsuspended h]
    exact ⟨.setWatch s w _, rfl, rfl, rfl⟩
  | some i =>
    rw [changeWatch_suspended h, ret_judgeFlow, monitor_judgeFlow]
    exact ⟨(Signals.setWatch s w _).trans (.judgeFlow _ i), rfl, rfl, rfl⟩

/-- The flow state of the stream whose suspension is released is judged again (R19, R169). -/
theorem changeWatch_released {i : StreamIx} (h : b.suspension = some i) (after : Booking → Option Booking) {t : State}
    (ht : s.changeWatch w b after = t) :
    (t.stream i).paused = ((s.stream i).occupancyReason || decide (0 < t.suspensions i)) ∧
    t.stream i = { s.stream i with paused := (t.stream i).paused } ∧
    ((t.stream i).paused = (s.stream i).paused → t.ret = s.ret) ∧
    ((t.stream i).paused ≠ (s.stream i).paused → t.ret = { s.ret with
      flowSet := (s.ret.flowSet.filter fun f => f.stream != i) ++ [{ stream := i, pause := (t.stream i).paused }] }) ∧
    ∀ j, j ≠ i → t.stream j = s.stream j := by
  rw [changeWatch_suspended h] at ht
  have hret : t.ret = { s.ret with
      flowSet := if (t.stream i).paused = (s.stream i).paused then s.ret.flowSet
        else (s.ret.flowSet.filter fun f => f.stream != i) ++ [{ stream := i, pause := (t.stream i).paused }] } := by
    rw [← ht, stream_judgeFlow_same, ret_judgeFlow]
    rfl
  refine ⟨?_, ?_, fun hp => by rw [hret, if_pos hp], fun hp => by rw [hret, if_neg hp], fun j hj => ?_⟩
  · rw [← ht, stream_judgeFlow_same, suspensions_judgeFlow]
    rfl
  · rw [← ht, stream_judgeFlow_same]
    rfl
  · rw [← ht, stream_judgeFlow_other _ hj]
    rfl

/-- A booked watch is changed, and what stood before is reported (R170). -/
theorem changeBooked_booked {id : Byte} (hid : id.toNat = w.val) (hb : s.watch w = some b) (tag : Word16)
    (after : Booking → Option Booking) :
    changeBooked tag id after s = (s.changeWatch w b after).done tag (.watch b.fired b.suspension) := by
  rw [changeBooked, finOf_eq_some.2 hid.symm]
  simp only [hb]

end

end State

/-- The table of R170: what each command makes of a booked watch whose suspension has been released. -/
def watchCommands (tag : Word16) (id : Byte) : List (Instr × (Booking → Option Booking)) :=
  [(.rearmWatch tag id, fun b => some { b with fired := false }), (.releaseWatch tag id, some),
   (.cancelWatch tag id, fun _ => none)]

/-- Each command of R170 is a row of the catalogue that HALTED refuses, and its owning rule changes the watch by the table. -/
theorem watchCommands_row {tag : Word16} {id : Byte} {p : Instr × (Booking → Option Booking)}
    (h : p ∈ watchCommands tag id) : ∃ row, p.1 = commandRow tag row ∧ commandForm row = .command row ∧
      takenInHalted row = false ∧ ∀ s, State.owner tag row s = State.changeBooked tag id p.2 s := by
  simp only [watchCommands, List.mem_cons, List.not_mem_nil, or_false] at h
  obtain rfl | rfl | rfl := h
  · exact ⟨.rearmWatch id, rfl, rfl, rfl, fun _ => rfl⟩
  · exact ⟨.releaseWatch id, rfl, rfl, rfl, fun _ => rfl⟩
  · exact ⟨.cancelWatch id, rfl, rfl, rfl, fun _ => rfl⟩

/-- A command of R170 in HALTED (R158). -/
theorem exec_watchCommand_halted {tag : Word16} {id : Byte} {p : Instr × (Booking → Option Booking)} {s : State}
    (h : p ∈ watchCommands tag id) (ht : s.TakesUnits) (hs : s.store.sweeping = false) (hh : s.monitor.halted = true) :
    exec p.1 s = .next (s.refuse tag .halted).kick := by
  obtain ⟨row, hrow, hform, htaken, -⟩ := watchCommands_row h
  rw [hrow, exec_commandRow_judged tag row ht hform, State.judgeUnit_halted hs hh, htaken, if_neg Bool.false_ne_true]

/-- A command of R170 in OPERATING. -/
theorem exec_watchCommand {tag : Word16} {id : Byte} {p : Instr × (Booking → Option Booking)} {s : State}
    (h : p ∈ watchCommands tag id) (ht : s.TakesUnits) (hs : s.store.sweeping = false) (hh : s.monitor.halted = false) :
    exec p.1 s = .next (State.changeBooked tag id p.2 s).kick := by
  obtain ⟨row, hrow, hform, -, howner⟩ := watchCommands_row h
  rw [hrow, exec_commandRow_judged tag row ht hform, State.judgeUnit_command rfl hs (.inl hh), howner]

end Sys2Proof.Machine

namespace Sys2Proof.Watches

open Machine Machine.State

/-- BOOK_WATCH: the id, the fields and the watch, in that order (R166). -/
theorem bookWatch_books (tag : Word16) (id : Byte) (f : WatchFields) (s : State) (ht : s.TakesCommands) :
    (15 < id.toNat ∨ readBooking f = none →
      exec (.bookWatch tag id f) s = .next (s.refuse tag .badParameter).kick) ∧
    ∀ (w : Fin 16) (b : Booking), id.toNat = w.val → readBooking f = some b →
      (s.watch w ≠ none → exec (.bookWatch tag id f) s = .next (s.refuse tag .inUse).kick) ∧
      (s.watch w = none → exec (.bookWatch tag id f) s = .next ((s.setWatch w (some b)).done tag .empty).kick) := by
  have hrow : exec (.bookWatch tag id f) s = .next (ownBookWatch tag id f s).kick :=
    exec_commandRow tag (.bookWatch id f) ht rfl
  rw [hrow, ownBookWatch]
  refine ⟨fun h => ?_, fun w b hid hf => ?_⟩
  · cases hid : finOf 16 id with
    | none => rfl
    | some w =>
      have hlt : id.toNat < 16 := finOf_isSome.1 ⟨w, hid⟩
      rw [h.resolve_left (by omega)]
  · rw [finOf_eq_some.2 hid.symm, hf]
    refine ⟨fun hw => ?_, fun hw => ?_⟩
    · dsimp only
      rw [if_pos (Option.isSome_iff_ne_none.2 hw)]
    · dsimp only
      rw [hw, Option.isSome_none, if_neg Bool.false_ne_true]

/-- The fields a booking takes, in their ranges (R166 check 2; log 15, log 36). -/
theorem readBooking_ranges (f : WatchFields) : (∃ b, readBooking f = some b) ↔
    1 ≤ f.condition.toNat ∧ f.condition.toNat ≤ 8 ∧ f.mode.toNat ≤ 1 ∧ f.action.toNat ≤ 1 ∧
    f.scope.toNat ≤ (if 7 ≤ f.condition.toNat then 8 else 12) ∧
    (f.condition = 1 → f.present = 1 ∧ 1 ≤ f.threshold.toNat ∧ f.threshold.toNat ≤ 72) ∧
    (7 ≤ f.condition.toNat → f.action = 0) := by
  constructor
  · rintro ⟨b, h⟩
    obtain ⟨c, every, suspend, ⟨hc, hm, ha⟩, hs, ht, hd, -⟩ := readBooking_eq_some.1 h
    obtain ⟨h1, h8⟩ := readCondition_isSome.1 ⟨c, hc⟩
    rw [readCondition_damageRate_iff hc] at ht
    simp only [readCondition_ofDrive_iff hc] at hs hd
    refine ⟨h1, h8, readFlag_isSome.1 ⟨every, hm⟩, readFlag_isSome.1 ⟨suspend, ha⟩, hs, ht, fun h7 => ?_⟩
    rw [readFlag_eq_some.1 ha, hd h7]
    rfl
  · rintro ⟨h1, h8, hm, ha, hs, ht, hd⟩
    obtain ⟨c, hc⟩ := readCondition_isSome.2 ⟨h1, h8⟩
    obtain ⟨every, hm⟩ := readFlag_isSome.2 hm
    obtain ⟨suspend, ha⟩ := readFlag_isSome.2 ha
    rw [← readCondition_damageRate_iff hc] at ht
    simp only [← readCondition_ofDrive_iff hc] at hs hd
    refine ⟨_, readBooking_eq_some.2 ⟨c, every, suspend, ⟨hc, hm, ha⟩, hs, ht, fun h => ?_, rfl⟩⟩
    have h0 := readFlag_eq_some.1 ha
    rw [hd h] at h0
    cases suspend with
    | false => rfl
    | true => cases h0

/-- What a booking holds (R166). -/
theorem readBooking_fields {f : WatchFields} {b : Booking} (h : readBooking f = some b) :
    b.fired = false ∧ readCondition f.condition = some b.condition ∧
      b.scope = f.scope.toNat ∧ b.threshold = (if f.condition = 1 then some f.threshold.toNat else none) ∧
      b.every = (f.mode == 1) ∧ b.suspend = (f.action == 1) ∧ b.tag = f.tag ∧ b.suspension = none := by
  obtain ⟨c, every, suspend, ⟨hc, hm, ha⟩, -, -, -, rfl⟩ := readBooking_eq_some.1 h
  refine ⟨rfl, hc, rfl, if_congr (readCondition_damageRate_iff hc) rfl rfl, ?_, ?_, rfl, rfl⟩
  · rw [readFlag_eq_some.1 hm]
    cases every <;> rfl
  · rw [readFlag_eq_some.1 ha]
    cases suspend <;> rfl

/-- A firing that takes a suspension on stream `i` (R168, R19). -/
theorem suspension_pauses (o : State) (w : Fin 16) {b : Booking} {i : StreamIx} (h : b.suspension = some i) {t : State}
    (ht : t = (o.setWatch w (some b)).judgeFlow i) :
    t.watch w = some b ∧ (∀ v, v ≠ w → t.watch v = o.watch v) ∧ t.monitor.faults = o.monitor.faults ∧
      t.monitor.halted = o.monitor.halted ∧ t.ret.outbox = o.ret.outbox ∧
      t.stream i = { o.stream i with paused := true } ∧ (∀ j, j ≠ i → t.stream j = o.stream j) ∧
      ((o.stream i).paused = true → t.ret.flowSet = o.ret.flowSet) ∧
      ((o.stream i).paused = false → t.ret.flowSet =
        (o.ret.flowSet.filter fun f => f.stream != i) ++ [{ stream := i, pause := true }]) := by
  have hp := pauseReason_setWatch o w h
  have hflow : t.ret.flowSet = if true = (o.stream i).paused then o.ret.flowSet
      else (o.ret.flowSet.filter fun f => f.stream != i) ++ [{ stream := i, pause := true }] := by
    rw [ht, ret_judgeFlow, hp]
    rfl
  refine ⟨?_, fun v hv => ?_, ?_, ?_, ?_, ?_, fun j hj => ?_, fun h => by rw [hflow, if_pos h.symm],
    fun h => by rw [hflow, if_neg (by simp [h])]⟩
  · rw [ht, watch_judgeFlow, watch_setWatch_same]
  · rw [ht, watch_judgeFlow, watch_setWatch_other _ _ hv.symm]
  · rw [ht, monitor_judgeFlow]
    rfl
  · rw [ht, monitor_judgeFlow]
    rfl
  · rw [ht, ret_judgeFlow]
    rfl
  · rw [ht, stream_judgeFlow_same, hp]
    rfl
  · rw [ht, stream_judgeFlow_other _ hj]
    rfl

/-- Settles O43: the command, the booking that is read, and each firing of an occurrence. -/
theorem bookWatchArmsTheWatch : Obligations.BookWatchArmsTheWatch := by
  refine ⟨bookWatch_books, fun f => ⟨readBooking_ranges f, fun _ => readBooking_fields⟩, fun s k scope detail => ⟨?_, ?_⟩⟩
  · unfold occur
    congr 1
    funext u w
    cases u.watch w with
    | none => rfl
    | some b => exact if_congr (b.matchesOccurrence_iff k scope detail) rfl rfl
  · rintro w b o t ho rfl
    refine ⟨fun h => ?_, ?_⟩
    · rw [← k.ofDrive_iff] at h
      rw [fireWatch_plain s w scope detail h, ho]
    · rintro i hs hn h7 h8 rfl
      have hk : k.ofDrive = false := Bool.eq_false_iff.2 fun h => (k.ofDrive_iff.1 h).elim h7 h8
      exact suspension_pauses o w rfl (by rw [fireWatch_suspends s w i detail hs hn hk, ho])

/-- Settles O44: the three commands as the rows of one table. -/
theorem watchCommandsFollowTheTable : Obligations.WatchCommandsFollowTheTable := by
  intro tag id s ht hs
  refine ⟨fun hh => ?_, fun hh hid => ?_, fun w hh hid => ⟨fun hw => ?_, fun b hb => ?_⟩⟩
  · refine (List.forall_mem_map (f := Prod.fst) (l := watchCommands tag id)).2 fun p hp => ?_
    exact exec_watchCommand_halted hp ht hs hh
  · refine (List.forall_mem_map (f := Prod.fst) (l := watchCommands tag id)).2 fun p hp => ?_
    rw [exec_watchCommand hp ht hs hh, changeBooked, finOf_eq_none hid]
  · refine (List.forall_mem_map (f := Prod.fst) (l := watchCommands tag id)).2 fun p hp => ?_
    rw [exec_watchCommand hp ht hs hh, changeBooked, finOf_eq_some.2 hid.symm]
    simp only [hw]
  · refine (List.forall_mem_map (f := fun p => (p.1, p.2 { b with suspension := none }))
      (l := watchCommands tag id)).2 fun p hp => ?_
    obtain ⟨sig, hout, hfaults, hhalted⟩ := changeWatch_keeps (s := s) (w := w) (b := b) p.2
    refine ⟨s.changeWatch w b p.2, ?_, ?_, fun v hv => ?_, fun hn => changeWatch_unsuspended hn p.2,
      fun i hi => changeWatch_released hi p.2 rfl, hout, sig.replies, sig.asks, hfaults, hhalted,
      sig.store, sig.dir, sig.plans, sig.engine, sig.drives, sig.burn⟩
    · rw [exec_watchCommand hp ht hs hh, changeBooked_booked hid hb]
    · rw [watch_changeWatch, watch_setWatch_same]
    · rw [watch_changeWatch, watch_setWatch_other s _ hv.symm]

end Sys2Proof.Watches

/-! PROOFS. The fault summary: a discarded notice, the entries after RESET_PART, and the entries READ_FAULTS shows (R161, R172,
R176, R177). -/

namespace Sys2Proof.Machine

theorem FaultKind.all_ix (k : FaultKind) : FaultKind.all[k.ix.val]? = some k := by
  cases k <;> rfl

namespace State

/-- RESET_PART gives the Watch and Fault Unit its power-on values (R161, R172). -/
theorem fault_resetPart (s : State) (k : FaultKind) : s.resetPart.fault k = FaultEntry.reset k :=
  fault_poweredOn s k

/-- Whatever the action of NOTICE_OVERFLOW, what follows its summary update leaves every entry (R177). -/
theorem fault_raiseOverflow (s : State) (src : NoticeSource) (k : FaultKind) :
    (s.raiseOverflow src).fault k = (s.noteFault .noticeOverflow 0).fault k := by
  unfold raiseOverflow
  cases (s.fault .noticeOverflow).action with
  | record => rfl
  | notify | stop => exact fault_pushNotice _ _ _
  | halt => exact (fault_enterHalted _ _).trans (fault_pushNotice _ _ _)

theorem faultsReport_entry (s : State) (k : FaultKind) : s.faultsReport.faults[k.ix.val]? = some (s.fault k) := by
  rw [faultsReport, List.getElem?_map, FaultKind.all_ix]
  rfl

end State

end Sys2Proof.Machine

namespace Sys2Proof.Watches

open Machine Machine.State

/-- Settles O46: the reset entries, a raise of each kind, and the report. -/
theorem raisesAreCounted : Obligations.RaisesAreCounted := by
  refine ⟨fun s k => ?_, fun s k scope detail hk => ?_, fun s src => ?_, fun tag s ht => ?_⟩
  · rw [fault_poweredOn, fault_resetPart]
    exact ⟨⟨rfl, rfl, rfl⟩, rfl, rfl, rfl⟩
  · rw [fault_raise_same s k scope detail hk, bumpCount_eq]
  · rw [fault_raiseOverflow, fault_noteFault_same]
  · exact ⟨s.faultsReport, exec_commandRow tag .readFaults ht rfl, faultsReport_entry s⟩

end Sys2Proof.Watches

/-! PROOFS. The step on a queue of commands, and that every command answers a next state (log 2). -/

namespace Sys2Proof.Machine

theorem step_of_pending_nil {s : State} (h : s.pending = []) : step s = .next s := by
  rw [step, h]

theorem step_of_pending_cons {c : Instr} {rest : List Instr} {s : State} (h : s.pending = c :: rest) :
    step s = exec c { s with pending := rest } := by
  rw [step, h]

end Sys2Proof.Machine

namespace Sys2Proof.Steps

open Machine

/-- Settles O1: the front of the queue that is put there is the command that `step` executes. -/
theorem stepRunsTheFrontCommand : Obligations.StepRunsTheFrontCommand :=
  fun _ _ _ => step_of_pending_cons rfl

/-- Settles O2. -/
theorem stepIdlesOnAnEmptyQueue : Obligations.StepIdlesOnAnEmptyQueue :=
  fun _ h => step_of_pending_nil h

/-- Settles O3: `exec_arrived` goes through the commands, and the queue of commands is among what each of them keeps. -/
theorem everyCommandAnswersNext : Obligations.EveryCommandAnswersNext := by
  intro c s
  obtain ⟨t, hexec, harrived⟩ := exec_arrived c s
  exact ⟨t, hexec, harrived.pending⟩

end Sys2Proof.Steps
